-- ==== Sys2Proof/Word.lean ====
section
/-! DEFINITION. The word types of the Fardan: bytes, 64-bit words and 64-byte lines (R10, R11). -/

namespace Sys2Proof

/-- A byte of memory, of a descriptor or of a frame (R10). -/
abbrev Byte := BitVec 8

/-- A 64-bit little-endian word, the unit of every descriptor, record and block of the manual (R10). -/
abbrev Word := BitVec 64

/-- A line of 64 bytes (R11).  Byte `b` of the line is bits `[8b+7 : 8b]`. -/
abbrev Line := BitVec 512

/-- A byte mask of a line: bit `b` selects byte `b` (R111). -/
abbrev Mask := BitVec 64

end Sys2Proof
end

