-- ==== Sys2Proof/Syntax.lean ====
section
/-! DEFINITION. The commands of the Fardan: one constructor of `Instr` for each row of the table of
operations and events, with the operands the row's rule names. -/

namespace Sys2Proof

/-- An external data port: host port 0–3 or Utxon port 0–23 (R13, R372, R377). -/
inductive Port where
  | host (n : Nat)
  | utxon (n : Nat)
  deriving DecidableEq, Repr

/-- The role a dictionary request acts in (R4, R440); a pitch owner acts for pitch `p`. -/
inductive Role where
  | bm
  | fm
  | hd
  | po (p : Nat)
  deriving DecidableEq, Repr

/-- A path instance of the dictionary (R440, R452): a management source address, a window slot, or the
mailbox of a host port. -/
inductive Path where
  | mgmt (mac : Nat)
  | window (slot : Nat)
  | mailbox (n : Nat)
  deriving DecidableEq, Repr

/-- A request message of a port (R111, R146).  On a host port `addr` is the offset into the window of
HDM decoder `decoder`, which supplies pitch, class and priority (R373); elsewhere it is the pool address. -/
structure Req where
  port : Port
  decoder : Nat := 0
  addr : Nat
  pitch : Nat := 0
  bclass : Nat := 0
  prio : Nat := 0
  tag : Nat := 0
  keep : Nat := 0
  mask : Mask := 0
  data : Line := 0
  offset : Nat := 0
  width : Nat := 0
  holderTag : Nat := 0
  opLo : Word := 0
  opHi : Word := 0
  cmpLo : Word := 0
  cmpHi : Word := 0
  deriving DecidableEq, Repr

/-- A snoop response arriving on a port (R112, R113): its tag, and its line data where it carries any. -/
structure SnpRsp where
  port : Port
  tag : Nat
  data : Line := 0
  deriving DecidableEq, Repr

/-- A response that reaches the device as the requester of forwarded traffic (R112, R127). -/
structure Rsp where
  port : Port
  tag : Nat
  status : Nat := 0
  load : Nat := 0
  retryAfter : Nat := 0
  data : Line := 0
  resLo : Word := 0
  resHi : Word := 0
  deriving DecidableEq, Repr

/-- The answer of an agent that a line's snoop reaches, in the order of R112's snoop responses. -/
inductive SnpKind where
  | notPresent
  | rspI
  | rspS
  | rspKeep
  | rspIData
  | rspSData
  | rspKeepData
  deriving DecidableEq, Repr

/-- An agent's answer with the data it returns. -/
structure SnpAns where
  kind : SnpKind
  data : Line := 0
  deriving DecidableEq, Repr

/-- How an access that leaves the device ended (R253, R91, R304). -/
inductive RemStatus where
  | ok
  | poison
  | linkLost
  | timedOut
  deriving DecidableEq, Repr

/-- The answer to an access that leaves the device. -/
structure RemAns where
  status : RemStatus
  data : Line := 0
  deriving DecidableEq, Repr

/-- What the outside answers while an engine's step runs: agents' snoop answers by local line offset,
other devices' answers by pool line address, hosts' answers by host physical line address with the port. -/
structure Env where
  snoops : List (Nat × SnpAns) := []
  remote : List (Nat × RemAns) := []
  hosts : List ((Nat × Nat) × RemAns) := []
  deriving DecidableEq, Repr

/-- A descriptor: its pitch, ring and sequence number (R233, R234). -/
structure DescId where
  pitch : Nat
  ring : Nat
  seq : Nat
  deriving DecidableEq, Repr

/-- The kinds of units of R479, coded as in the unit words of R492. -/
inductive UnitKind where
  | bivouac
  | stack
  | utxon
  | host
  | kettle
  | slice
  | bracken
  | clover
  | tinder
  | heather
  deriving DecidableEq, Repr

/-- The unit that runs a descriptor (R243, R249). -/
inductive UnitId where
  | scheduler
  | flush
  | region
  | bivouac (b : Nat)
  | engine (kind : UnitKind) (e : Nat)
  | kettle (k : Nat)
  deriving DecidableEq, Repr

/-- How the calibration or verification of a stack ended (R483, R485). -/
inductive CalOutcome where
  | pass
  | channelsFail (channels : BitVec 32)
  | stackFail
  deriving DecidableEq, Repr

/-- What the check of a directory entry found (R130). -/
inductive EntryEcc where
  | good
  | single
  | double
  deriving DecidableEq, Repr

/-- The header of a sequenced or unsequenced Utxon frame (R354). -/
structure FrameHdr where
  vc : Nat := 0
  seq : Nat := 0
  ackSeq : Nat := 0
  ackValid : Bool := false
  credVc : Nat := 3
  credTotal : Nat := 0
  deriving DecidableEq, Repr

/-- A full-form coherence message inside a MSG frame (R111): its opcode and its fields.  `port` of the
request is set by the receiving port. -/
structure WireMsg where
  opcode : Nat
  req : Req
  status : Nat := 0
  load : Nat := 0
  retryAfter : Nat := 0
  resLo : Word := 0
  resHi : Word := 0
  deriving DecidableEq, Repr

/-- A compact data response inside a MSG_C frame (R356). -/
structure CompactMsg where
  opcode : Nat
  prio : Nat := 0
  tag : Nat
  status : Nat := 0
  load : Nat := 0
  data : Line := 0
  deriving DecidableEq, Repr

/-- Why a received frame is discarded before its sequence is looked at (R355, R363). -/
inductive BadFrame where
  | crc
  | reservedType
  | wrongLength
  deriving DecidableEq, Repr

/-- An Ethernet frame on the management port (R456): addresses, FCS, tag, EtherType and payload. -/
structure EthFrame where
  dst : Nat
  src : Nat
  fcsOk : Bool := true
  vlan : Bool := false
  etherType : Nat := 0x88B5
  body : List Byte
  deriving DecidableEq, Repr

/-- An item of a DAP READ or DESCRIBE: index and subindex (R449). -/
structure Entry where
  index : Nat
  sub : Nat
  deriving DecidableEq, Repr

/-- An item of a DAP WRITE: entry, type code and value bytes as a number (R439, R449). -/
structure WriteItem where
  entry : Entry
  type : Nat
  value : Nat
  deriving DecidableEq, Repr

/-- What a firmware mailbox message carries (R417): header fields and body. -/
structure FwMsg where
  msgType : Nat
  major : Nat
  minor : Nat
  seq : Nat
  body : List Byte
  deriving DecidableEq, Repr

/-- A part of a firmware image sent with Transfer FW (R413): whether it is the first and the last part. -/
structure FwPart where
  slot : Nat
  first : Bool
  last : Bool
  offset : Nat
  data : List Byte
  deriving DecidableEq, Repr

/-- What the overflow peer answers to a create with a remainder (R48): no FREE descriptor, its largest
free run in pages when the remainder does not fit, or the lodged place. -/
inductive PeerFit where
  | noDescriptor
  | noFit (largestRun : Nat)
  | lodged (basePage index : Nat)
  deriving DecidableEq, Repr

/-- The commands: one constructor for each row of the table of operations and events. -/
inductive Instr where
  -- power, reset and bring-up
  | powerOn (boardPos plcaId : Nat)
  | powerLoss
  | resetNAsserted
  | resetNReleased (boardPos plcaId : Nat)
  | warmEntryDone (entered : BitVec 16)
  | pllLock
  | refclkLoss
  | railFault (rails : BitVec 11)
  | thermalEvaluation (logicTemp : Int) (power : Nat)
  | thermalTrip
  | temperatureReadout (stack : Nat) (temp : Int)
  | refreshIssue (stack channel : Nat)
  | emberBootDone
  | coreEnableWrite (role : Role) (value : Nat)
  | coreOn
  | resetRequestWarm (role : Role)
  | resetRequestCold (role : Role)
  | domainReset (word : Nat)
  | stackEnableWrite (role : Role) (bits : BitVec 16)
  | calibrationDone (stack : Nat) (outcome : CalOutcome)
  | initPassDone (stack : Nat)
  | boardNumberWrite (value : Nat)
  | registerWrite (role : Role) (item : WriteItem)
  -- coherence requests
  | rdShared (r : Req)
  | rdOwn (r : Req)
  | rdNc (r : Req)
  | upgrade (r : Req)
  | wrLine (r : Req)
  | wrPartial (r : Req)
  | wbDirty (r : Req)
  | release (r : Req)
  | swap (r : Req)
  | cas (r : Req)
  | add (r : Req)
  | andOp (r : Req)
  | orOp (r : Req)
  | xorOp (r : Req)
  | smax (r : Req)
  | smin (r : Req)
  | umax (r : Req)
  | umin (r : Req)
  | fadd (r : Req)
  | stileAcquire (r : Req)
  | stileRenew (r : Req)
  | stileRelease (r : Req)
  | stileQuery (r : Req)
  | reservedOpcodeMessage (r : Req) (opcode : Nat)
  -- snoop responses
  | notPresent (r : SnpRsp)
  | rspI (r : SnpRsp)
  | rspS (r : SnpRsp)
  | rspKeep (r : SnpRsp)
  | rspIData (r : SnpRsp)
  | rspSData (r : SnpRsp)
  | rspKeepData (r : SnpRsp)
  -- responses to the device as requester
  | dataS (r : Rsp)
  | dataX (r : Rsp)
  | dataNc (r : Rsp)
  | ackX (r : Rsp)
  | ack (r : Rsp)
  | nak (r : Rsp)
  | biConflict (hostPort line : Nat)
  -- meters, lanes and the directory
  | meterRedRelease (pitch : Nat) (urgent : Bool)
  | laneOrder (slice lane : Nat)
  | directoryLookupDone (slice lane : Nat) (ecc : EntryEcc)
  | holdQueueRelease (slice : Nat)
  | reservationStart (slice source : Nat)
  | reserveLimitExpiry (line : Nat)
  | snoopDeadlineExpiry (tag : Nat)
  | snoopFinalTimeout (tag : Nat)
  | transactionTimeout (port : Port) (tag : Nat)
  | snoopTagFree (tag : Nat)
  | sliceRecallDone (phys : Nat)
  | agentNumberWrite (port : Port) (value : Nat)
  | agentSuspectClear (bits : Word)
  -- rings and translation
  | doorbellWrite (r : Req)
  | ringConfigWrite (role : Role) (pitch : Nat) (block : List Byte)
  | descriptorFetch (pitch ring : Nat) (env : Env)
  | walkComplete (d : DescId) (env : Env)
  | faultHeadWrite (role : Role) (pitch value : Nat)
  | retry (pitch seq : Nat) (env : Env)
  | migrateIn (pitch seq : Nat) (env : Env)
  | abort (pitch seq : Nat) (env : Env)
  | faultActionDone (pitch seq : Nat) (env : Env)
  | xlateInvalidate (d : DescId)
  | xlateInvalWrite (role : Role) (pitch : Nat) (block : List Byte)
  | invalidationDone (pitch : Nat)
  | xlateRootWrite (role : Role) (pitch value : Nat)
  | faultRingBaseWrite (role : Role) (pitch value : Nat)
  | dispatch
  | descriptorStart (u : UnitId)
  | descriptorComplete (d : DescId) (env : Env)
  | nop (d : DescId)
  | runKernel (d : DescId) (part : Nat)
  | flushRange (d : DescId) (env : Env)
  | flushRangeDone (d : DescId)
  -- regions and pitches
  | regionCreate (d : DescId) (peer : PeerFit)
  | regionShare (d : DescId)
  | regionHandover (d : DescId)
  | regionAccept (d : DescId)
  | handoverComplete (d : DescId) (env : Env)
  | handoverLimitExpiry (index : Nat)
  | regionHint (d : DescId)
  | regionDestroy (d : DescId)
  | regionDestroyMessage (port index originPos originIndex : Nat)
  | clearReport (port index : Nat)
  | clearDone (index : Nat)
  | clearLine (index line : Nat)
  | pitchActivate (pitch : Nat)
  | pitchQuiesce (pitch : Nat)
  | drainLimitExpiry (pitch : Nat)
  | quiesceDone (pitch : Nat) (env : Env)
  | pitchRevoke (pitch : Nat)
  | revokeDone (pitch : Nat)
  | pitchReset (pitch : Nat)
  | servingWrite (pitch value : Nat)
  -- Bivouacs
  | wbEvict (biv line : Nat) (env : Env)
  | pegInstruction (biv peg : Nat) (env : Env)
  | pegAmo (biv peg : Nat) (env : Env)
  | rpCfg (biv peg : Nat)
  | rpMma (biv peg : Nat)
  | rpZero (biv peg : Nat)
  | rpLoadc (biv peg : Nat)
  | rpStore (biv peg : Nat)
  | rpStat (biv peg : Nat)
  | rpFence (biv peg : Nat)
  | ridgepoleEntryStart (biv : Nat)
  | amoFaddW (biv peg : Nat) (env : Env)
  | stileAcq (biv peg : Nat) (env : Env)
  | stileRenewInsn (biv peg : Nat) (env : Env)
  | stileRel (biv peg : Nat) (env : Env)
  | stileQueryInsn (biv peg : Nat) (env : Env)
  | stgWait (biv peg : Nat)
  | stgDone (biv peg : Nat)
  | stgPut (biv peg : Nat) (env : Env)
  | pegExit (biv peg : Nat)
  | kernelEnd (biv : Nat)
  | runLimitExpiry (biv : Nat)
  | bufferGrant (biv : Nat)
  | chunkFillDone (biv buffer : Nat) (env : Env)
  | stageFill (index biv : Nat) (env : Env)
  | bivouacFailure (phys : Nat)
  -- Campfire
  | campSyncMarker
  | markerDrive
  | markerMissTimeout
  | masterMarkerMiss
  | timeEnable (role : Role)
  | timeDisable (role : Role)
  | masterPosWrite (value : Nat)
  | switchAtWrite (value : Nat)
  | masterSwitch
  | timeFrame (port txCount echoTx echoRx lockState : Nat) (valid reply : Bool)
  -- factored views and compression
  | viewCreate (d : DescId) (env : Env)
  | viewRefresh (d : DescId) (env : Env)
  | viewMeasure (d : DescId) (env : Env)
  | gradCompress (d : DescId) (env : Env)
  | actPack (d : DescId) (env : Env)
  | actUnpack (d : DescId) (env : Env)
  | viewReadServe (bracken : Nat) (env : Env)
  -- embeddings and the optimizer
  | embTableCreate (d : DescId) (env : Env)
  | embTableDestroy (d : DescId)
  | embGather (d : DescId) (env : Env)
  | embUpdate (d : DescId) (env : Env)
  | optStep (d : DescId) (env : Env)
  | engineFailure (kind : UnitKind) (e : Nat) (done : Nat)
  -- vector search
  | idxCreate (d : DescId) (env : Env)
  | idxInsert (d : DescId) (env : Env)
  | idxDelete (d : DescId) (env : Env)
  | idxCompact (d : DescId) (env : Env)
  | idxQuery (d : DescId) (env : Env)
  | idxDestroy (d : DescId)
  | querySnapshotFix (d : DescId)
  | ovfBucketReturn (handle : Nat) (env : Env)
  -- Utxon links
  | linkTrained (port width : Nat)
  | linkInfo (port : Nat) (w0 w1 w2 w3 : Word)
  | linkInfoResend (port : Nat)
  | trainingRetry (port : Nat)
  | msg (port : Nat) (h : FrameHdr) (ms : List WireMsg)
  | msgC (port : Nat) (h : FrameHdr) (ms : List CompactMsg)
  | ackFrame (port : Nat) (h : FrameHdr)
  | replayReq (port : Nat) (h : FrameHdr)
  | lane (port : Nat) (h : FrameHdr) (logical : Nat) (reply : Bool) (cwCount : Nat)
  | badFrame (port : Nat) (why : BadFrame)
  | replayTimeout (port : Nat)
  | ackDelayExpiry (port : Nat)
  | laneFailure (port logical : Nat)
  | retrainStart (port : Nat)
  | holdExpiry (port : Nat)
  | utxonEnableWrite (role : Role) (port value : Nat)
  -- host ports and the mailbox
  | hostLinkUp (port width : Nat)
  | hostLinkDown (port : Nat)
  | hostEnableWrite (role : Role) (port value : Nat)
  | decoderWrite (port decoder : Nat) (block : List Byte)
  | ideKeySet (port keySet : Nat)
  | ideIntegrityFailure (port : Nat)
  | getEventRecords (port : Nat)
  | clearEventRecords (port : Nat) (all : Bool) (handles : List Nat)
  | getFwInfo (port : Nat)
  | transferFw (port : Nat) (part : FwPart)
  | activateFw (port slot : Nat) (online : Bool)
  | getTimestamp (port : Nat)
  | setTimestamp (port value : Nat)
  | getSupportedLogs (port : Nat)
  | getLog (port : Nat)
  | identifyMemoryDevice (port : Nat)
  | getHealthInfo (port : Nat)
  | dictAccess (port : Nat) (payload : List Byte)
  | kettleMsg (port : Nat) (m : FwMsg)
  | mailboxUnsupported (port opcode : Nat)
  | hello (port : Nat) (m : FwMsg)
  | coreStatus (port : Nat) (m : FwMsg)
  | coreRestart (port : Nat) (m : FwMsg)
  | groupList (port : Nat) (m : FwMsg)
  -- firmware
  | activateWrite (role : Role) (mask : Nat)
  | revertWrite (role : Role) (mask : Nat)
  | stageImageClosed (role : Role) (path : Path) (offset : Nat) (data : List Byte)
  | imageCheckDone
  | mgmtTakeoverDone
  | collDrainExpiry
  | watchdogExpiry (core : Nat)
  | coreReloadDone (core : Nat)
  -- collectives
  | collGroupCreate (d : DescId) (env : Env)
  | collGroupDestroy (d : DescId)
  | allReduce (d : DescId)
  | reduceScatter (d : DescId)
  | allGather (d : DescId)
  | broadcast (d : DescId)
  | compAllReduce (d : DescId)
  | collStepStart (d : DescId) (env : Env)
  | collStepEnd (d : DescId)
  | collFlagReceived (d : DescId) (sender : Nat) (env : Env)
  | stepTimeoutExpiry (d : DescId)
  -- the dictionary
  | mgmtFrame (f : EthFrame)
  | windowGo (r : Req)
  | read (path : Path) (role : Role) (seq : Nat) (items : List Entry)
  | write (path : Path) (role : Role) (seq : Nat) (items : List WriteItem)
  | domainRead (path : Path) (role : Role) (seq : Nat) (entry : Entry) (offset len : Nat)
  | domainWrite (path : Path) (role : Role) (seq : Nat) (entry : Entry) (offset : Nat) (last : Bool)
      (data : List Byte)
  | describe (path : Path) (role : Role) (seq : Nat) (items : List Entry)
  | domainTimeout (path : Path) (entry : Entry)
  | macAddressWrite (value : Nat)
  | plcaBeaconLoss
  | revoke (key : Nat)
  | svnFloorWrite (cls value : Nat)
  -- stacked memory
  | fullStripeHoldExpiry (stripe : Nat)
  | testArmWrite (value : Nat)
  | groundsheetBaseWrite (value : Nat)
  | scrubLine (stack index : Nat) (err : Nat)
  | channelRetire (stack channel : Nat)
  | stackRetire (stack : Nat)
  | rebuildLine (stack index : Nat)
  -- Trail budgets and meters
  | periodBoundary
  | controllerIssue (stack bank : Nat) (err : Nat)
  | requestAged (stack id : Nat)
  | budgetWrite (item : WriteItem)
  | meterWrite (pitch : Nat) (urgent : Bool) (block : List Byte)
  | urgentCapWrite (value : Nat)
  -- service without stopping
  | fenceBivouac (unit : Nat)
  | swardMoveDone (phys : Nat) (lost : List Nat)
  | spareFreed (phys : Nat)
  | fenceStack (unit : Nat)
  | fenceUtxonPort (unit : Nat)
  | fenceHostPort (unit : Nat)
  | fenceKettleCore (unit : Nat)
  | fenceSlice (unit : Nat)
  | fenceEngine (kind : UnitKind) (unit : Nat)
  | unfenceBivouac (unit : Nat)
  | unfenceStack (unit : Nat)
  | unfencePort (kind : UnitKind) (unit : Nat)
  | unfenceKettleCore (unit : Nat)
  | unfenceSlice (unit : Nat)
  | unfenceEngine (kind : UnitKind) (unit : Nat)
  | selfTestDone (kind : UnitKind) (unit : Nat) (pass : Bool)
  | drainDone (env : Env)
  | fenceDrainLimitExpiry
  | sliceFailure (phys : Nat) (readable : Bool)
  | recalWrite (stack : Nat)
  | recalStep (stack : Nat) (failed : BitVec 32)
  | recalPeriodic (stack : Nat)
  | agentFenceSet (agent : Nat)
  | agentFenceWalkDone (agent : Nat)
  | agentFenceClear (agent : Nat)
  | agentFenceDoneClear (bits : Word)
  | peerFenceWrite (bits : BitVec 8)
  | auditSnapshotRead (role : Role)
  | diagStateRead
  | stileBreak (lock : Nat)
  -- observability
  | clearRange (word : Nat)
  | logEntryWrite
  | logAckWrite (role : Role) (value : Nat)
  | lanternEnableWrite (role : Role) (value : Nat)
  | superframeSend
  | sampleTimer
  | stopNow (role : Role)
  | stopInLow
  | stopClear
  | resume
  | jtagBypass
  | idcode
  | samplePreload (bits : List Bool)
  | extest
  | highz
  | clamp
  | stopReq
  | tapReset
  -- further events
  | cxlIoCompletion (port tag : Nat) (ans : RemAns) (env : Env)
  | lodgedDescriptorCreate (port originPos originIndex pages : Nat) (protect : Bool) (rights : Nat)
  | ridgepoleEntryEnd (biv : Nat)
  | plcaBeaconReceived
  | transmitOpportunity
  | railInRange (rail : Nat)
  | refreshManagement (stack : Nat)
  deriving DecidableEq, Repr

end Sys2Proof
end

