-- ==== Sys2Proof/Decode.lean ====
section
/-! DEFINITION. The decoder of command words.  No row of the table of operations and events gives bits: its
commands arrive as events and messages whose layouts their own rules give, so no word spells a command. -/

namespace Sys2Proof

/-- The command that a word of `nbits` bits spells by the table's bits: none, since no row has any. -/
def decodeTableWord (_nbits _w : Nat) : Option Instr := none

end Sys2Proof
end

