-- ==== Sys2Proof/Machine/Bits.lean ====
section
/-! DEFINITION. Bit fields of words, bytes of lines, and little-endian byte strings (R9, R10, R11). -/

namespace Sys2Proof.Machine

/-- Bits `[hi:lo]` of a number. -/
def bits (x hi lo : Nat) : Nat := (x >>> lo) % 2 ^ (hi + 1 - lo)

/-- Bit `n` of a number, as a truth value. -/
def bitOf (x n : Nat) : Bool := x.testBit n

/-- Bits `[hi:lo]` of a word. -/
def fld (w : Word) (hi lo : Nat) : Nat := bits w.toNat hi lo

/-- Bit `n` of a word. -/
def flag (w : Word) (n : Nat) : Bool := w.getLsbD n

/-- A truth value as a bit. -/
def b2n (b : Bool) : Nat := if b then 1 else 0

/-- The integer a two's-complement number of `w` bits stands for. -/
def sgn (w x : Nat) : Int := if x % 2 ^ w < 2 ^ (w - 1) then (x % 2 ^ w : Nat) else (x % 2 ^ w : Nat) - (2 ^ w : Nat)

/-- An integer as a two's-complement number of `w` bits. -/
def uns (w : Nat) (i : Int) : Nat := (i % (2 ^ w : Nat)).toNat

/-- Byte `b` of a line. -/
def lineByte (l : Line) (b : Nat) : Byte := l.extractLsb' (8 * b) 8

/-- 64-bit word `i` of a line. -/
def lineWord (l : Line) (i : Nat) : Word := l.extractLsb' (64 * i) 64

/-- 32-bit word `i` of a line. -/
def lineWord32 (l : Line) (i : Nat) : BitVec 32 := l.extractLsb' (32 * i) 32

/-- The number a little-endian byte string holds. -/
def leNat : List Byte → Nat
  | [] => 0
  | b :: bs => b.toNat + 256 * leNat bs

/-- `n` bytes of a number, least significant first. -/
def leBytes : Nat → Nat → List Byte
  | 0, _ => []
  | n + 1, x => BitVec.ofNat 8 x :: leBytes n (x / 256)

/-- The 64 bytes of a line, lowest address first. -/
def lineBytes (l : Line) : List Byte := leBytes 64 l.toNat

/-- A line of up to 64 bytes, lowest address first; missing bytes are zero. -/
def lineOfBytes (bs : List Byte) : Line := BitVec.ofNat 512 (leNat (bs.take 64))

/-- A line of eight words. -/
def lineOfWords (ws : List Word) : Line :=
  BitVec.ofNat 512 ((ws.take 8).foldr (fun w acc => w.toNat + 2 ^ 64 * acc) 0)

/-- The eight words of a line. -/
def lineWords (l : Line) : List Word := (List.range 8).map (lineWord l)

/-- The bits of a line that a byte mask selects. -/
def maskLine (m : Mask) : Line :=
  BitVec.ofNat 512 ((List.range 64).foldr (fun b acc => if m.getLsbD b then acc ||| (0xFF <<< (8 * b)) else acc) 0)

/-- The line `old` with the bytes that `m` selects taken from `new` (R116, R174). -/
def mergeLine (m : Mask) (new old : Line) : Line := (new &&& maskLine m) ||| (old &&& ~~~(maskLine m))

/-- The mask of `n` bytes from byte `off` of a line. -/
def rangeMask (off n : Nat) : Mask := BitVec.ofNat 64 ((2 ^ n - 1) <<< off)

/-- The mask of a whole line. -/
def fullMask : Mask := BitVec.ofNat 64 (2 ^ 64 - 1)

/-- A line whose bytes from `off` on are the `n` bytes of `x`, the rest zero. -/
def placeBytes (off n x : Nat) : Line := BitVec.ofNat 512 ((x % 2 ^ (8 * n)) <<< (8 * off))

/-- The number in `n` bytes of a line from byte `off`. -/
def takeBytes (l : Line) (off n : Nat) : Nat := bits l.toNat (8 * (off + n) - 1) (8 * off)

/-- A word made of fields, each a value with the bit it starts at. -/
def packWord (fs : List (Nat × Nat)) : Word := BitVec.ofNat 64 (fs.foldr (fun p acc => (p.2 <<< p.1) ||| acc) 0)

/-- The words of a byte string, eight bytes each, the last one filled with zero bytes. -/
def wordsOfBytes (bs : List Byte) : List Word :=
  (List.range ((bs.length + 7) / 8)).map fun i => BitVec.ofNat 64 (leNat ((bs.drop (8 * i)).take 8))

/-- The bytes of words, least significant first. -/
def bytesOfWords (ws : List Word) : List Byte := ws.flatMap fun w => leBytes 8 w.toNat

/-- Ceiling division. -/
def cdiv (a b : Nat) : Nat := (a + b - 1) / b

/-- `a` is at most `b` and both are bounded by the stated range. -/
def inRange (x lo hi : Nat) : Bool := decide (lo ≤ x) && decide (x ≤ hi)

/-- The difference of two sequence counters modulo `2^w` (R88, R234). -/
def seqSub (w a b : Nat) : Nat := (a + 2 ^ w - b % 2 ^ w) % 2 ^ w

/-- The first element that passes `p`, with its place. -/
def findIdxOpt {α : Type} (p : α → Bool) (l : List α) : Option (Nat × α) :=
  (l.zipIdx.find? fun x => p x.1).map fun x => (x.2, x.1)

/-- Remove the first element that passes `p`. -/
def removeFirst {α : Type} (p : α → Bool) : List α → List α
  | [] => []
  | a :: l => if p a then l else a :: removeFirst p l

/-- Apply `g` to the first element that passes `p`. -/
def updateFirst {α : Type} (p : α → Bool) (g : α → α) : List α → List α
  | [] => []
  | a :: l => if p a then g a :: l else a :: updateFirst p g l

/-- Insert an element before the first one that does not precede it. -/
def insertBy {α : Type} (le : α → α → Bool) (a : α) : List α → List α
  | [] => [a]
  | b :: l => if le a b then a :: b :: l else b :: insertBy le a l

/-- A list in order, equal elements as they stood. -/
def sortBy {α : Type} (le : α → α → Bool) (l : List α) : List α := l.foldr (insertBy le) []

/-- The least of `key` over a list, the earlier element winning a tie. -/
def argMin {α : Type} (key : α → Nat) : List α → Option α
  | [] => none
  | a :: l => match argMin key l with
    | none => some a
    | some b => if key b < key a then some b else some a

/-- The greatest of `key` over a list, the earlier element winning a tie. -/
def argMax {α : Type} (key : α → Nat) : List α → Option α
  | [] => none
  | a :: l => match argMax key l with
    | none => some a
    | some b => if key a < key b then some b else some a

/-- The sum of `g` over a list. -/
def sumBy {α : Type} (g : α → Nat) (l : List α) : Nat := l.foldl (fun acc a => acc + g a) 0

/-- The saturation value of every count (R517). -/
def countMax : Nat := 2 ^ 48 - 1

end Sys2Proof.Machine
end

