-- ==== Sys2Proof/Machine/Entries.lean ====
section
/-! DEFINITION. The entries of the object dictionary (R438, R462): for each index the subindices, types,
rights and defaults of the tables of the chapters, and a key for each entry. -/

namespace Sys2Proof.Machine

/-- The key of the entry `idx.sub` in the register table. -/
def ekey (idx sub : Nat) : Nat := idx * 256 + sub

/-- A row of a dictionary table: the subindices `lo` to `hi`, the type code of R439, the rights in the
coding of R449's ACCESS, the default of R447, the least and greatest value that a write may store (for
STR and DOMAIN the greatest size in bytes), and whether the entry is a 48-bit count (R517). -/
structure ERow where
  lo : Nat
  hi : Nat
  ty : Nat
  acc : Nat
  dflt : Nat
  vmin : Nat
  vmax : Nat
  count : Bool
  deriving DecidableEq, Repr

/-- The rows of index 0x1000 (R29, R463). -/
def rows1000 : List ERow := [
  ⟨1, 1, 9, 85, 0, 0, 21, false⟩,
  ⟨2, 2, 9, 85, 0, 0, 8, false⟩,
  ⟨3, 3, 9, 85, 0, 0, 9, false⟩,
  ⟨4, 4, 7, 85, 1, 0, 255, false⟩,
  ⟨5, 5, 4, 85, 0, 0, 18446744073709551615, false⟩,
  ⟨6, 6, 3, 21, 0, 0, 4294967295, false⟩,
  ⟨7, 7, 3, 21, 33554432, 0, 4294967295, false⟩,
  ⟨8, 8, 2, 85, 256, 0, 65535, false⟩,
  ⟨9, 9, 2, 85, 256, 0, 65535, false⟩,
  ⟨10, 10, 4, 85, 68719476736, 0, 18446744073709551615, false⟩,
  ⟨11, 11, 4, 85, 1099511627776, 0, 18446744073709551615, false⟩,
  ⟨12, 12, 2, 85, 528, 0, 65535, false⟩,
  ⟨13, 13, 1, 85, 16, 0, 255, false⟩,
  ⟨14, 14, 1, 85, 24, 0, 255, false⟩,
  ⟨15, 15, 1, 85, 4, 0, 255, false⟩,
  ⟨16, 16, 2, 85, 4096, 0, 65535, false⟩,
  ⟨17, 17, 3, 85, 65536, 0, 4294967295, false⟩,
  ⟨32, 32, 1, 21, 0, 0, 255, false⟩,
  ⟨33, 33, 1, 21, 0, 0, 255, false⟩,
  ⟨34, 34, 1, 29, 0, 0, 255, false⟩,
  ⟨35, 35, 2, 85, 0, 0, 65535, false⟩,
  ⟨36, 36, 4, 21, 18446744073709551615, 0, 18446744073709551615, false⟩,
  ⟨37, 37, 8, 21, 0, 0, 4294967295, false⟩,
  ⟨38, 38, 8, 21, 0, 0, 4294967295, false⟩]

/-- The rows of index 0x1100 (R464). -/
def rows1100 : List ERow := [
  ⟨1, 1, 4, 23, 4608514, 0, 18446744073709551615, false⟩,
  ⟨2, 2, 7, 21, 0, 0, 255, false⟩,
  ⟨3, 3, 1, 23, 32, 1, 255, false⟩,
  ⟨4, 4, 1, 23, 0, 0, 255, false⟩,
  ⟨5, 5, 1, 23, 128, 1, 255, false⟩,
  ⟨6, 6, 4, 21, 0, 0, 18446744073709551615, true⟩,
  ⟨7, 7, 4, 21, 0, 0, 18446744073709551615, true⟩,
  ⟨8, 8, 4, 21, 0, 0, 18446744073709551615, true⟩,
  ⟨9, 9, 4, 21, 0, 0, 18446744073709551615, true⟩,
  ⟨10, 10, 4, 21, 0, 0, 18446744073709551615, true⟩,
  ⟨11, 11, 4, 21, 0, 0, 18446744073709551615, true⟩,
  ⟨12, 12, 4, 21, 0, 0, 18446744073709551615, true⟩,
  ⟨13, 13, 4, 85, 0, 0, 18446744073709551615, true⟩,
  ⟨14, 14, 4, 21, 0, 0, 18446744073709551615, true⟩,
  ⟨15, 15, 4, 21, 0, 0, 18446744073709551615, true⟩,
  ⟨16, 16, 7, 21, 0, 0, 255, false⟩,
  ⟨17, 17, 3, 31, 1000, 10, 60000, false⟩]

/-- The rows of index 0x1200 (R465). -/
def rows1200 : List ERow := [
  ⟨1, 1, 1, 21, 8, 0, 255, false⟩,
  ⟨2, 2, 1, 8, 0, 0, 255, false⟩,
  ⟨3, 3, 10, 21, 0, 0, 4096, false⟩,
  ⟨4, 4, 10, 21, 0, 0, 48, false⟩,
  ⟨5, 5, 7, 21, 1, 0, 255, false⟩]

/-- The rows of index 0x1201 (R465). -/
def rows1201 : List ERow := [
  ⟨1, 8, 10, 21, 0, 0, 97, false⟩]

/-- The rows of index 0x1202 (R465). -/
def rows1202 : List ERow := [
  ⟨1, 8, 7, 21, 0, 0, 255, false⟩]

/-- The rows of index 0x1203 (R465). -/
def rows1203 : List ERow := [
  ⟨1, 3, 2, 29, 0, 0, 65535, false⟩]

/-- The rows of index 0x2000 (R489). -/
def rows2000 : List ERow := [
  ⟨1, 1, 6, 21, 0, 0, 1, false⟩,
  ⟨2, 2, 7, 21, 0, 0, 255, false⟩,
  ⟨3, 3, 4, 21, 0, 0, 18446744073709551615, true⟩,
  ⟨4, 4, 3, 85, 6400000, 0, 4294967295, false⟩,
  ⟨5, 9, 3, 85, 0, 0, 4294967295, false⟩,
  ⟨10, 10, 4, 85, 0, 0, 18446744073709551615, false⟩]

/-- The rows of index 0x2010 (R266). -/
def rows2010 : List ERow := [
  ⟨1, 1, 4, 85, 0, 0, 18446744073709551615, false⟩,
  ⟨2, 2, 7, 85, 0, 0, 255, false⟩,
  ⟨3, 3, 6, 31, 0, 0, 1, false⟩,
  ⟨4, 4, 1, 29, 0, 0, 7, false⟩,
  ⟨5, 5, 4, 29, 0, 0, 18446744073709551615, false⟩,
  ⟨6, 6, 1, 31, 0, 0, 15, false⟩,
  ⟨7, 7, 1, 29, 2, 1, 4, false⟩,
  ⟨8, 8, 1, 29, 3, 1, 16, false⟩,
  ⟨9, 9, 5, 21, 0, 0, 4294967295, false⟩,
  ⟨10, 10, 4, 21, 0, 0, 18446744073709551615, true⟩,
  ⟨11, 11, 4, 21, 0, 0, 18446744073709551615, true⟩,
  ⟨12, 12, 6, 85, 0, 0, 1, false⟩,
  ⟨13, 13, 3, 93, 65536, 64, 1048576, false⟩,
  ⟨14, 14, 3, 93, 0, 0, 1048576, false⟩,
  ⟨15, 15, 4, 93, 68719476736, 1048576, 1099511627776, false⟩]

/-- The rows of index 0x2100 (R490). -/
def rows2100 : List ERow := [
  ⟨1, 1, 6, 63, 0, 0, 1, false⟩,
  ⟨2, 2, 7, 21, 0, 0, 255, false⟩,
  ⟨3, 3, 7, 31, 0, 0, 1, false⟩,
  ⟨4, 4, 1, 10, 0, 0, 255, false⟩,
  ⟨5, 5, 7, 85, 0, 0, 255, false⟩,
  ⟨6, 6, 8, 85, 0, 0, 4294967295, false⟩,
  ⟨7, 7, 4, 21, 0, 0, 18446744073709551615, true⟩,
  ⟨8, 8, 3, 8, 0, 0, 4294967295, false⟩,
  ⟨9, 9, 4, 21, 0, 0, 18446744073709551615, true⟩,
  ⟨10, 10, 7, 85, 0, 0, 255, false⟩]

/-- The rows of index 0x2101 (R491). -/
def rows2101 : List ERow := [
  ⟨1, 1, 2, 61, 0, 0, 65535, false⟩,
  ⟨2, 2, 1, 21, 255, 0, 255, false⟩,
  ⟨3, 18, 7, 21, 0, 0, 255, false⟩]

/-- The rows of index 0x2110 (R553). -/
def rows2110 : List ERow := [
  ⟨1, 1, 5, 21, 0, 0, 4294967295, false⟩,
  ⟨2, 2, 5, 21, 0, 0, 4294967295, false⟩,
  ⟨3, 3, 1, 29, 100, 85, 105, false⟩,
  ⟨4, 4, 2, 31, 1700, 800, 1700, false⟩,
  ⟨5, 5, 2, 21, 0, 0, 65535, false⟩,
  ⟨6, 6, 4, 21, 0, 0, 18446744073709551615, true⟩,
  ⟨7, 7, 4, 21, 0, 0, 18446744073709551615, true⟩,
  ⟨8, 8, 8, 21, 0, 0, 4294967295, false⟩,
  ⟨9, 9, 8, 21, 0, 0, 4294967295, false⟩]

/-- The rows of index 0x3000 and its instances (R193). -/
def rows3000 : List ERow := [
  ⟨1, 1, 7, 21, 0, 0, 255, false⟩,
  ⟨2, 2, 8, 21, 0, 0, 4294967295, false⟩,
  ⟨3, 3, 1, 8, 0, 0, 255, false⟩,
  ⟨4, 4, 4, 21, 0, 0, 18446744073709551615, true⟩,
  ⟨5, 5, 4, 21, 0, 0, 18446744073709551615, true⟩,
  ⟨6, 6, 4, 21, 0, 0, 18446744073709551615, true⟩,
  ⟨7, 7, 4, 21, 0, 0, 18446744073709551615, true⟩,
  ⟨8, 8, 4, 21, 0, 0, 18446744073709551615, true⟩,
  ⟨9, 9, 5, 21, 0, 0, 4294967295, false⟩,
  ⟨10, 10, 3, 21, 3900, 0, 4294967295, false⟩]

/-- The rows of index 0x3001 and its instances (R194). -/
def rows3001 : List ERow := [
  ⟨1, 32, 4, 21, 0, 0, 18446744073709551615, true⟩]

/-- The rows of index 0x3002 and its instances (R194). -/
def rows3002 : List ERow := [
  ⟨1, 32, 4, 21, 0, 0, 18446744073709551615, true⟩]

/-- The rows of index 0x3400 (R196). -/
def rows3400 : List ERow := [
  ⟨1, 1, 4, 21, 0, 0, 18446744073709551615, true⟩,
  ⟨2, 2, 4, 21, 0, 0, 18446744073709551615, true⟩,
  ⟨3, 3, 4, 21, 0, 0, 18446744073709551615, true⟩,
  ⟨4, 4, 3, 21, 0, 0, 4294967295, false⟩]

/-- The rows of index 0x3800 (R195). -/
def rows3800 : List ERow := [
  ⟨1, 1, 4, 29, 1099511627776, 0, 18446744073709551615, false⟩,
  ⟨2, 2, 4, 85, 0, 0, 18446744073709551615, false⟩,
  ⟨3, 3, 7, 29, 0, 0, 2, false⟩,
  ⟨4, 4, 2, 29, 24, 1, 168, false⟩,
  ⟨5, 5, 4, 21, 0, 0, 18446744073709551615, true⟩,
  ⟨6, 6, 4, 21, 0, 0, 18446744073709551615, true⟩,
  ⟨7, 7, 2, 29, 4096, 256, 16384, false⟩,
  ⟨8, 8, 3, 21, 0, 0, 4294967295, false⟩,
  ⟨9, 9, 4, 21, 0, 0, 18446744073709551615, false⟩,
  ⟨10, 10, 4, 21, 0, 0, 18446744073709551615, false⟩,
  ⟨11, 11, 10, 21, 0, 0, 72, false⟩,
  ⟨12, 12, 10, 21, 0, 0, 72, false⟩,
  ⟨13, 13, 4, 12, 0, 0, 18446744073709551615, false⟩,
  ⟨14, 14, 4, 12, 0, 0, 18446744073709551615, false⟩,
  ⟨15, 15, 1, 12, 0, 0, 255, false⟩,
  ⟨16, 16, 6, 12, 0, 0, 1, false⟩,
  ⟨17, 17, 4, 21, 0, 0, 18446744073709551615, true⟩,
  ⟨18, 18, 4, 21, 0, 0, 18446744073709551615, true⟩,
  ⟨19, 19, 4, 21, 0, 0, 18446744073709551615, true⟩]

/-- The rows of index 0x4000 and its instances (R69, R99, R164, R197, R232, R265, R405). -/
def rows4000 : List ERow := [
  ⟨1, 1, 7, 93, 0, 0, 255, false⟩,
  ⟨2, 2, 6, 93, 0, 0, 1, false⟩,
  ⟨3, 3, 8, 93, 0, 0, 4294967295, false⟩,
  ⟨4, 4, 2, 93, 256, 0, 65535, false⟩,
  ⟨5, 5, 2, 85, 0, 0, 65535, false⟩,
  ⟨6, 6, 4, 93, 0, 0, 18446744073709551615, false⟩,
  ⟨7, 7, 4, 85, 0, 0, 18446744073709551615, false⟩,
  ⟨8, 8, 3, 93, 0, 0, 4294967295, false⟩,
  ⟨9, 9, 3, 93, 10000, 0, 50000, false⟩,
  ⟨10, 10, 3, 93, 1000, 1, 60000, false⟩,
  ⟨11, 11, 4, 85, 0, 0, 18446744073709551615, false⟩,
  ⟨12, 12, 6, 8, 0, 0, 1, false⟩,
  ⟨13, 13, 4, 85, 0, 0, 18446744073709551615, true⟩,
  ⟨14, 14, 4, 85, 0, 0, 18446744073709551615, true⟩,
  ⟨15, 15, 4, 85, 0, 0, 18446744073709551615, true⟩,
  ⟨16, 16, 10, 124, 0, 0, 256, false⟩,
  ⟨17, 17, 10, 84, 0, 0, 256, false⟩,
  ⟨18, 18, 1, 93, 1, 0, 3, false⟩,
  ⟨19, 19, 2, 93, 0, 0, 511, false⟩,
  ⟨20, 20, 2, 93, 512, 0, 512, false⟩,
  ⟨21, 21, 4, 85, 0, 0, 18446744073709551615, true⟩,
  ⟨22, 22, 4, 85, 0, 0, 18446744073709551615, true⟩,
  ⟨23, 23, 4, 85, 0, 0, 18446744073709551615, true⟩,
  ⟨24, 24, 4, 85, 0, 0, 18446744073709551615, true⟩,
  ⟨25, 25, 4, 85, 0, 0, 18446744073709551615, true⟩,
  ⟨32, 32, 4, 125, 0, 0, 18446744073709551615, false⟩,
  ⟨33, 33, 4, 125, 0, 0, 18446744073709551615, false⟩,
  ⟨34, 34, 2, 85, 0, 0, 65535, false⟩,
  ⟨35, 35, 2, 125, 0, 0, 65535, false⟩,
  ⟨36, 36, 2, 85, 0, 0, 65535, false⟩,
  ⟨37, 37, 3, 85, 0, 0, 4294967295, false⟩,
  ⟨38, 38, 4, 85, 0, 0, 18446744073709551615, true⟩,
  ⟨39, 39, 4, 85, 0, 0, 18446744073709551615, true⟩,
  ⟨40, 40, 10, 40, 0, 0, 32, false⟩,
  ⟨41, 41, 3, 85, 0, 0, 4294967295, false⟩,
  ⟨42, 42, 1, 85, 0, 0, 255, false⟩,
  ⟨43, 43, 3, 85, 0, 0, 4294967295, false⟩,
  ⟨44, 44, 4, 85, 0, 0, 18446744073709551615, true⟩,
  ⟨45, 45, 4, 85, 0, 0, 18446744073709551615, true⟩,
  ⟨46, 46, 4, 85, 0, 0, 18446744073709551615, true⟩,
  ⟨47, 47, 4, 85, 0, 0, 18446744073709551615, true⟩,
  ⟨48, 48, 10, 84, 0, 0, 2097152, false⟩,
  ⟨49, 49, 2, 93, 0, 0, 65535, false⟩,
  ⟨50, 50, 3, 93, 0, 0, 65536, false⟩,
  ⟨51, 51, 4, 85, 0, 0, 18446744073709551615, true⟩,
  ⟨52, 52, 4, 85, 0, 0, 18446744073709551615, true⟩,
  ⟨53, 53, 2, 93, 0, 0, 65535, false⟩,
  ⟨54, 54, 10, 93, 0, 0, 16, false⟩,
  ⟨55, 55, 10, 93, 0, 0, 16, false⟩,
  ⟨56, 56, 4, 85, 0, 0, 18446744073709551615, true⟩,
  ⟨57, 57, 4, 85, 0, 0, 18446744073709551615, true⟩,
  ⟨58, 58, 4, 85, 0, 0, 18446744073709551615, true⟩,
  ⟨59, 59, 4, 85, 0, 0, 18446744073709551615, true⟩,
  ⟨60, 60, 4, 85, 0, 0, 18446744073709551615, false⟩]

/-- The rows of index 0x6000 and its instances (R377). -/
def rows6000 : List ERow := [
  ⟨1, 1, 7, 21, 0, 0, 255, false⟩,
  ⟨2, 2, 6, 31, 0, 0, 1, false⟩,
  ⟨3, 3, 7, 21, 0, 0, 255, false⟩,
  ⟨4, 4, 4, 21, 0, 0, 18446744073709551615, false⟩,
  ⟨5, 5, 2, 21, 65535, 0, 65535, false⟩,
  ⟨6, 6, 1, 21, 0, 0, 255, false⟩,
  ⟨7, 7, 3, 29, 4000, 0, 100000, false⟩,
  ⟨8, 8, 3, 29, 2000, 500, 20000, false⟩,
  ⟨9, 9, 4, 21, 18446744071399813648, 0, 18446744073709551615, false⟩,
  ⟨10, 10, 4, 21, 0, 0, 18446744073709551615, true⟩,
  ⟨11, 11, 4, 21, 0, 0, 18446744073709551615, true⟩,
  ⟨12, 12, 4, 21, 0, 0, 18446744073709551615, true⟩,
  ⟨13, 13, 4, 21, 0, 0, 18446744073709551615, true⟩,
  ⟨14, 14, 4, 21, 0, 0, 18446744073709551615, true⟩,
  ⟨15, 15, 4, 21, 0, 0, 18446744073709551615, true⟩,
  ⟨16, 16, 4, 21, 0, 0, 18446744073709551615, true⟩,
  ⟨17, 17, 4, 21, 0, 0, 18446744073709551615, true⟩,
  ⟨18, 18, 4, 21, 0, 0, 18446744073709551615, true⟩,
  ⟨19, 19, 4, 21, 0, 0, 18446744073709551615, true⟩,
  ⟨20, 20, 4, 21, 0, 0, 18446744073709551615, true⟩,
  ⟨21, 21, 4, 21, 0, 0, 18446744073709551615, true⟩,
  ⟨22, 22, 4, 21, 0, 0, 18446744073709551615, false⟩,
  ⟨23, 23, 3, 21, 0, 0, 4294967295, false⟩,
  ⟨24, 24, 6, 29, 0, 0, 1, false⟩,
  ⟨25, 25, 4, 21, 0, 0, 18446744073709551615, true⟩]

/-- The rows of index 0x6001 and its instances (R378). -/
def rows6001 : List ERow := [
  ⟨1, 9, 7, 21, 0, 0, 255, false⟩]

/-- The rows of index 0x6002 and its instances (R378). -/
def rows6002 : List ERow := [
  ⟨1, 9, 4, 21, 0, 0, 18446744073709551615, true⟩]

/-- The rows of index 0x6300 (R379). -/
def rows6300 : List ERow := [
  ⟨1, 1, 10, 29, 0, 0, 256, false⟩,
  ⟨2, 2, 3, 29, 100000, 1000, 10000000, false⟩,
  ⟨3, 3, 2, 85, 256, 0, 65535, false⟩]

/-- The rows of index 0x6400 and its instances (R380). -/
def rows6400 : List ERow := [
  ⟨1, 1, 7, 21, 0, 0, 255, false⟩,
  ⟨2, 2, 6, 31, 0, 0, 1, false⟩,
  ⟨3, 3, 1, 21, 0, 0, 255, false⟩,
  ⟨4, 4, 7, 21, 0, 0, 255, false⟩,
  ⟨5, 5, 4, 21, 0, 0, 18446744073709551615, true⟩,
  ⟨6, 6, 4, 21, 0, 0, 18446744073709551615, true⟩,
  ⟨7, 7, 4, 21, 0, 0, 18446744073709551615, true⟩,
  ⟨8, 8, 4, 21, 0, 0, 18446744073709551615, true⟩]

/-- The rows of index 0x6401 and its instances (R380). -/
def rows6401 : List ERow := [
  ⟨1, 8, 10, 29, 0, 0, 16, false⟩]

/-- The rows of index 0x6800 (R402). -/
def rows6800 : List ERow := [
  ⟨1, 1, 3, 85, 2048, 0, 4294967295, false⟩,
  ⟨2, 2, 3, 85, 43680, 0, 4294967295, false⟩,
  ⟨3, 3, 3, 29, 1000000, 0, 4000000, false⟩,
  ⟨4, 4, 3, 21, 0, 0, 4294967295, false⟩,
  ⟨5, 5, 1, 29, 4, 0, 8, false⟩,
  ⟨6, 6, 4, 21, 0, 0, 18446744073709551615, true⟩]

/-- The rows of index 0x6810 and its instances (R403). -/
def rows6810 : List ERow := [
  ⟨1, 16, 2, 93, 0, 0, 65535, false⟩,
  ⟨17, 17, 4, 85, 0, 0, 18446744073709551615, true⟩,
  ⟨18, 18, 4, 85, 0, 0, 18446744073709551615, true⟩,
  ⟨19, 19, 4, 85, 0, 0, 18446744073709551615, true⟩]

/-- The rows of index 0x6840 and its instances (R404). -/
def rows6840 : List ERow := [
  ⟨1, 1, 2, 21, 4608, 0, 65535, false⟩,
  ⟨2, 2, 2, 21, 0, 0, 65535, false⟩,
  ⟨3, 3, 2, 85, 26208, 0, 65535, false⟩,
  ⟨4, 4, 4, 21, 0, 0, 18446744073709551615, true⟩,
  ⟨5, 5, 4, 21, 0, 0, 18446744073709551615, true⟩,
  ⟨6, 6, 4, 21, 0, 0, 18446744073709551615, true⟩,
  ⟨7, 10, 2, 85, 0, 0, 65535, false⟩,
  ⟨11, 14, 3, 85, 0, 0, 4294967295, false⟩,
  ⟨15, 15, 3, 29, 0, 0, 4294967295, false⟩,
  ⟨16, 16, 2, 21, 0, 0, 65535, false⟩]

/-- The rows of index 0x7000 and its instances (R230). -/
def rows7000 : List ERow := [
  ⟨1, 1, 7, 21, 0, 0, 255, false⟩,
  ⟨2, 2, 2, 21, 0, 0, 65535, false⟩,
  ⟨3, 3, 2, 21, 65535, 0, 65535, false⟩,
  ⟨4, 4, 4, 21, 0, 0, 18446744073709551615, true⟩,
  ⟨5, 5, 4, 21, 0, 0, 18446744073709551615, true⟩,
  ⟨6, 6, 4, 21, 0, 0, 18446744073709551615, true⟩,
  ⟨7, 7, 4, 21, 0, 0, 18446744073709551615, true⟩,
  ⟨8, 8, 4, 21, 0, 0, 18446744073709551615, true⟩,
  ⟨9, 9, 4, 21, 0, 0, 18446744073709551615, true⟩,
  ⟨10, 10, 4, 21, 0, 0, 18446744073709551615, true⟩,
  ⟨11, 11, 4, 21, 0, 0, 18446744073709551615, true⟩,
  ⟨12, 12, 4, 21, 0, 0, 18446744073709551615, false⟩,
  ⟨13, 13, 4, 21, 0, 0, 18446744073709551615, false⟩]

/-- The rows of index 0x7210 (R231). -/
def rows7210 : List ERow := [
  ⟨1, 1, 2, 85, 0, 0, 65535, false⟩,
  ⟨2, 2, 1, 21, 16, 0, 255, false⟩,
  ⟨3, 3, 3, 93, 1000, 1, 50000, false⟩,
  ⟨4, 4, 1, 85, 100, 0, 255, false⟩]

/-- The rows of index 0x7400 and its instances (R294). -/
def rows7400 : List ERow := [
  ⟨1, 1, 7, 21, 0, 0, 255, false⟩,
  ⟨2, 2, 2, 21, 0, 0, 65535, false⟩,
  ⟨3, 3, 4, 21, 0, 0, 18446744073709551615, true⟩,
  ⟨4, 4, 4, 21, 0, 0, 18446744073709551615, true⟩,
  ⟨5, 5, 4, 21, 0, 0, 18446744073709551615, true⟩,
  ⟨6, 6, 4, 21, 0, 0, 18446744073709551615, true⟩]

/-- The rows of index 0x7480 (R295). -/
def rows7480 : List ERow := [
  ⟨1, 1, 2, 85, 0, 0, 65535, false⟩,
  ⟨2, 2, 2, 85, 8192, 0, 65535, false⟩,
  ⟨3, 3, 4, 21, 0, 0, 18446744073709551615, true⟩,
  ⟨4, 4, 4, 21, 0, 0, 18446744073709551615, true⟩,
  ⟨5, 5, 4, 21, 0, 0, 18446744073709551615, true⟩,
  ⟨6, 6, 4, 21, 0, 0, 18446744073709551615, true⟩,
  ⟨7, 7, 2, 12, 0, 0, 65535, false⟩,
  ⟨8, 8, 10, 4, 0, 0, 64, false⟩]

/-- The rows of index 0x7500 and its instances (R318). -/
def rows7500 : List ERow := [
  ⟨1, 1, 7, 21, 0, 0, 255, false⟩,
  ⟨2, 2, 2, 21, 0, 0, 65535, false⟩,
  ⟨3, 3, 4, 21, 0, 0, 18446744073709551615, true⟩,
  ⟨4, 4, 4, 21, 0, 0, 18446744073709551615, true⟩,
  ⟨5, 5, 4, 21, 0, 0, 18446744073709551615, true⟩,
  ⟨6, 6, 4, 21, 0, 0, 18446744073709551615, true⟩]

/-- The rows of index 0x7580 (R319). -/
def rows7580 : List ERow := [
  ⟨1, 1, 2, 85, 0, 0, 65535, false⟩,
  ⟨2, 2, 2, 85, 1024, 0, 65535, false⟩,
  ⟨3, 3, 4, 85, 0, 0, 18446744073709551615, true⟩,
  ⟨4, 4, 4, 85, 0, 0, 18446744073709551615, true⟩,
  ⟨5, 5, 4, 85, 0, 0, 18446744073709551615, true⟩,
  ⟨6, 6, 4, 85, 0, 0, 18446744073709551615, true⟩,
  ⟨7, 7, 2, 12, 0, 0, 65535, false⟩,
  ⟨8, 8, 10, 4, 0, 0, 552, false⟩]

/-- The rows of index 0x7600 and its instances (R318). -/
def rows7600 : List ERow := [
  ⟨1, 1, 7, 21, 0, 0, 255, false⟩,
  ⟨3, 3, 4, 21, 0, 0, 18446744073709551615, true⟩,
  ⟨6, 6, 4, 21, 0, 0, 18446744073709551615, true⟩]

/-- The rows of index 0x7680 (R319). -/
def rows7680 : List ERow := [
  ⟨1, 1, 4, 85, 0, 0, 18446744073709551615, true⟩]

/-- The rows of index 0x7700 and its instances (R346). -/
def rows7700 : List ERow := [
  ⟨1, 1, 7, 21, 0, 0, 255, false⟩,
  ⟨2, 2, 2, 21, 0, 0, 65535, false⟩,
  ⟨3, 3, 4, 21, 0, 0, 18446744073709551615, true⟩,
  ⟨4, 4, 4, 21, 0, 0, 18446744073709551615, true⟩,
  ⟨5, 5, 4, 21, 0, 0, 18446744073709551615, true⟩,
  ⟨6, 6, 4, 21, 0, 0, 18446744073709551615, true⟩]

/-- The rows of index 0x7780 (R347). -/
def rows7780 : List ERow := [
  ⟨1, 1, 2, 85, 0, 0, 65535, false⟩,
  ⟨2, 2, 2, 85, 512, 0, 65535, false⟩,
  ⟨3, 3, 4, 85, 0, 0, 18446744073709551615, true⟩,
  ⟨4, 4, 4, 85, 0, 0, 18446744073709551615, true⟩,
  ⟨5, 5, 4, 85, 0, 0, 18446744073709551615, true⟩,
  ⟨6, 6, 4, 85, 0, 0, 18446744073709551615, true⟩,
  ⟨7, 7, 2, 12, 0, 0, 65535, false⟩,
  ⟨8, 8, 10, 4, 0, 0, 64, false⟩]

/-- The rows of index 0x7800 (R434). -/
def rows7800 : List ERow := [
  ⟨1, 1, 1, 21, 255, 0, 255, false⟩,
  ⟨2, 2, 7, 60, 0, 1, 3, false⟩,
  ⟨3, 3, 10, 40, 0, 0, 1048864, false⟩,
  ⟨4, 4, 8, 40, 0, 0, 4294967295, false⟩,
  ⟨5, 5, 8, 40, 0, 0, 4294967295, false⟩,
  ⟨6, 6, 7, 21, 0, 0, 255, false⟩,
  ⟨7, 7, 7, 21, 0, 0, 255, false⟩,
  ⟨8, 8, 7, 85, 0, 0, 255, false⟩,
  ⟨9, 9, 2, 21, 0, 0, 65535, false⟩,
  ⟨10, 13, 2, 21, 0, 0, 65535, false⟩,
  ⟨14, 14, 3, 29, 100, 10, 1000, false⟩,
  ⟨15, 15, 1, 29, 3, 1, 16, false⟩,
  ⟨16, 16, 3, 29, 100, 1, 10000, false⟩,
  ⟨17, 17, 2, 85, 0, 0, 65535, false⟩,
  ⟨18, 18, 4, 85, 0, 0, 18446744073709551615, true⟩,
  ⟨19, 19, 4, 85, 0, 0, 18446744073709551615, true⟩]

/-- The rows of index 0x7810 and its instances (R435). -/
def rows7810 : List ERow := [
  ⟨1, 1, 3, 85, 0, 0, 4294967295, false⟩,
  ⟨2, 2, 3, 21, 0, 0, 4294967295, false⟩,
  ⟨3, 3, 7, 21, 0, 0, 255, false⟩,
  ⟨4, 4, 10, 21, 0, 0, 48, false⟩,
  ⟨5, 5, 4, 21, 0, 0, 18446744073709551615, true⟩,
  ⟨6, 6, 4, 21, 0, 0, 18446744073709551615, true⟩]

/-- The rows of index 0x7820 and its instances (R436). -/
def rows7820 : List ERow := [
  ⟨1, 1, 7, 21, 0, 0, 255, false⟩,
  ⟨2, 2, 7, 21, 0, 0, 255, false⟩,
  ⟨3, 3, 4, 21, 0, 0, 18446744073709551615, true⟩,
  ⟨4, 4, 2, 21, 0, 0, 65535, false⟩,
  ⟨5, 5, 4, 21, 0, 0, 18446744073709551615, false⟩,
  ⟨6, 6, 4, 21, 0, 0, 18446744073709551615, true⟩]

/-- The rows of index 0x7C00 (R132). -/
def rows7C00 : List ERow := [
  ⟨1, 1, 1, 21, 0, 0, 255, false⟩,
  ⟨2, 2, 7, 21, 0, 0, 255, false⟩,
  ⟨3, 3, 3, 29, 800, 200, 2000, false⟩,
  ⟨4, 4, 3, 29, 4000, 1000, 8000, false⟩,
  ⟨5, 5, 4, 21, 0, 0, 18446744073709551615, false⟩,
  ⟨6, 6, 4, 29, 0, 0, 18446744073709551615, false⟩,
  ⟨7, 7, 3, 21, 0, 0, 4294967295, false⟩,
  ⟨8, 8, 4, 12, 0, 0, 18446744073709551615, false⟩,
  ⟨9, 9, 10, 4, 0, 0, 16, false⟩]

/-- The rows of index 0x7C01 (R132). -/
def rows7C01 : List ERow := [
  ⟨1, 4, 1, 29, 255, 0, 255, false⟩]

/-- The rows of index 0x7C02 (R132). -/
def rows7C02 : List ERow := [
  ⟨1, 24, 1, 29, 255, 0, 255, false⟩]

/-- The rows of index 0x7C03 (R132). -/
def rows7C03 : List ERow := [
  ⟨1, 28, 4, 21, 0, 0, 18446744073709551615, true⟩]

/-- The rows of index 0x7C10 and its instances (R134). -/
def rows7C10 : List ERow := [
  ⟨1, 1, 1, 21, 0, 0, 255, false⟩,
  ⟨2, 2, 7, 21, 0, 0, 255, false⟩,
  ⟨3, 3, 3, 21, 0, 0, 4294967295, false⟩,
  ⟨4, 4, 4, 21, 0, 0, 18446744073709551615, true⟩,
  ⟨5, 5, 4, 21, 0, 0, 18446744073709551615, true⟩,
  ⟨6, 6, 4, 21, 0, 0, 18446744073709551615, true⟩,
  ⟨7, 7, 4, 21, 0, 0, 18446744073709551615, true⟩,
  ⟨8, 8, 4, 21, 0, 0, 18446744073709551615, true⟩,
  ⟨9, 9, 4, 21, 0, 0, 18446744073709551615, true⟩,
  ⟨10, 10, 4, 21, 0, 0, 18446744073709551615, true⟩,
  ⟨11, 11, 4, 21, 0, 0, 18446744073709551615, true⟩,
  ⟨12, 12, 2, 29, 0, 0, 65535, false⟩]

/-- The rows of index 0x7C40 and its instances (R135). -/
def rows7C40 : List ERow := [
  ⟨1, 1, 4, 21, 0, 0, 18446744073709551615, true⟩,
  ⟨2, 2, 4, 21, 0, 0, 18446744073709551615, true⟩,
  ⟨3, 3, 4, 21, 0, 0, 18446744073709551615, true⟩,
  ⟨4, 4, 4, 21, 0, 0, 18446744073709551615, true⟩,
  ⟨5, 5, 8, 21, 0, 0, 4294967295, false⟩]

/-- The rows of index 0x8000 (R534). -/
def rows8000 : List ERow := [
  ⟨1, 1, 1, 85, 48, 0, 255, false⟩,
  ⟨2, 2, 3, 8, 0, 0, 4294967295, false⟩,
  ⟨3, 3, 4, 21, 0, 0, 18446744073709551615, false⟩]

/-- The rows of index 0x8100 (R534). -/
def rows8100 : List ERow := [
  ⟨1, 1, 10, 21, 0, 0, 32768, false⟩,
  ⟨2, 2, 3, 21, 0, 0, 4294967295, false⟩,
  ⟨3, 3, 3, 61, 0, 0, 4294967295, false⟩,
  ⟨4, 4, 4, 21, 0, 0, 18446744073709551615, true⟩]

/-- The rows of index 0x8200 (R535). -/
def rows8200 : List ERow := [
  ⟨1, 1, 6, 31, 0, 0, 1, false⟩,
  ⟨2, 2, 8, 61, 0, 0, 4294967295, false⟩,
  ⟨3, 3, 2, 61, 65535, 0, 65535, false⟩,
  ⟨4, 4, 10, 61, 0, 0, 64, false⟩,
  ⟨5, 5, 3, 61, 800000, 8000, 2147483648, false⟩,
  ⟨6, 6, 4, 21, 0, 0, 18446744073709551615, true⟩,
  ⟨7, 7, 4, 21, 0, 0, 18446744073709551615, true⟩]

/-- The rows of index 0x8F00 (R61, R163, R466, R515). -/
def rows8F00 : List ERow := [
  ⟨1, 1, 4, 4, 0, 0, 18446744073709551615, true⟩,
  ⟨2, 2, 4, 4, 0, 0, 18446744073709551615, true⟩,
  ⟨3, 3, 4, 4, 0, 0, 18446744073709551615, true⟩,
  ⟨4, 4, 4, 4, 0, 0, 18446744073709551615, true⟩,
  ⟨5, 5, 4, 4, 0, 0, 18446744073709551615, true⟩,
  ⟨6, 6, 4, 4, 0, 0, 18446744073709551615, true⟩,
  ⟨7, 7, 4, 4, 0, 0, 18446744073709551615, true⟩,
  ⟨8, 8, 4, 4, 0, 0, 18446744073709551615, true⟩,
  ⟨9, 9, 4, 4, 0, 0, 18446744073709551615, true⟩,
  ⟨10, 10, 4, 4, 0, 0, 18446744073709551615, true⟩]

/-- The rows of index 0x9000 (R514). -/
def rows9000 : List ERow := [
  ⟨1, 1, 3, 8, 0, 0, 4294967295, false⟩,
  ⟨2, 2, 3, 8, 0, 0, 4294967295, false⟩,
  ⟨3, 3, 7, 21, 0, 0, 255, false⟩,
  ⟨4, 4, 3, 21, 0, 0, 4294967295, false⟩,
  ⟨5, 5, 3, 29, 1000, 1, 50000, false⟩,
  ⟨6, 6, 4, 21, 0, 0, 18446744073709551615, true⟩,
  ⟨7, 7, 1, 8, 0, 0, 255, false⟩,
  ⟨8, 8, 8, 21, 0, 0, 4294967295, false⟩,
  ⟨9, 9, 4, 21, 0, 0, 18446744073709551615, true⟩,
  ⟨10, 10, 2, 29, 0, 0, 168, false⟩,
  ⟨11, 11, 4, 21, 0, 0, 18446744073709551615, true⟩,
  ⟨12, 12, 2, 85, 0, 0, 65535, false⟩,
  ⟨13, 13, 10, 85, 0, 0, 64, false⟩,
  ⟨14, 14, 8, 21, 0, 0, 4294967295, false⟩]

/-- The rows of index 0x9010 (R515). -/
def rows9010 : List ERow := [
  ⟨1, 1, 4, 29, 0, 0, 18446744073709551615, false⟩,
  ⟨2, 2, 4, 29, 0, 0, 18446744073709551615, false⟩,
  ⟨3, 3, 1, 29, 0, 0, 255, false⟩]

/-- The rows of index 0x9100 (R516). -/
def rows9100 : List ERow := [
  ⟨1, 1, 7, 29, 1, 1, 6, false⟩,
  ⟨2, 2, 2, 29, 0, 0, 65535, false⟩,
  ⟨3, 3, 10, 21, 0, 0, 64, false⟩,
  ⟨4, 4, 4, 21, 0, 0, 18446744073709551615, true⟩,
  ⟨5, 5, 4, 21, 0, 0, 18446744073709551615, true⟩]

/-- The rows of index 0x9400 (R163). -/
def rows9400 : List ERow := [
  ⟨1, 1, 3, 85, 65536, 0, 4294967295, false⟩,
  ⟨2, 2, 3, 93, 2000, 0, 4294967295, false⟩,
  ⟨3, 3, 3, 93, 20000, 0, 4294967295, false⟩,
  ⟨4, 4, 3, 21, 0, 0, 4294967295, false⟩,
  ⟨5, 5, 4, 21, 0, 0, 18446744073709551615, true⟩,
  ⟨6, 6, 4, 21, 0, 0, 18446744073709551615, true⟩,
  ⟨7, 7, 4, 21, 0, 0, 18446744073709551615, true⟩,
  ⟨8, 8, 4, 21, 0, 0, 18446744073709551615, true⟩,
  ⟨9, 9, 4, 21, 0, 0, 18446744073709551615, true⟩,
  ⟨10, 10, 2, 12, 0, 0, 65535, false⟩,
  ⟨11, 11, 10, 4, 0, 0, 32, false⟩,
  ⟨12, 12, 2, 8, 0, 0, 65535, false⟩,
  ⟨13, 13, 3, 93, 4020, 0, 200000, false⟩]

/-- The rows of index 0xA000 (R536). -/
def rowsA000 : List ERow := [
  ⟨1, 1, 7, 29, 0, 0, 2, false⟩,
  ⟨2, 2, 8, 29, 0, 0, 4294967295, false⟩,
  ⟨3, 3, 1, 29, 3, 0, 3, false⟩,
  ⟨4, 4, 4, 29, 0, 0, 18446744073709551615, false⟩,
  ⟨5, 5, 6, 10, 0, 0, 1, false⟩,
  ⟨6, 6, 7, 21, 0, 0, 255, false⟩,
  ⟨7, 7, 4, 21, 0, 0, 18446744073709551615, false⟩,
  ⟨8, 8, 7, 21, 0, 0, 255, false⟩,
  ⟨9, 9, 6, 21, 0, 0, 1, false⟩,
  ⟨10, 10, 6, 8, 0, 0, 1, false⟩,
  ⟨11, 11, 6, 8, 0, 0, 1, false⟩,
  ⟨12, 12, 4, 21, 0, 0, 18446744073709551615, true⟩]

/-- The rows of index 0xA010 (R536). -/
def rowsA010 : List ERow := [
  ⟨1, 1, 3, 12, 0, 0, 4294967295, false⟩,
  ⟨2, 2, 1, 12, 0, 0, 255, false⟩,
  ⟨3, 3, 10, 4, 0, 0, 155648, false⟩]

/-- The rows of an index; no row where the index is not of R462's map. -/
def rowsOf (idx : Nat) : List ERow :=
  if idx < 0x7210 then
    if idx < 0x3400 then
      if idx < 0x2010 then
        if idx < 0x1201 then
          if idx = 0x1000 then rows1000 else
          if idx = 0x1100 then rows1100 else
          if idx = 0x1200 then rows1200 else
          []
        else
          if idx = 0x1201 then rows1201 else
          if idx = 0x1202 then rows1202 else
          if idx = 0x1203 then rows1203 else
          if idx = 0x2000 then rows2000 else
          []
      else
        if idx < 0x2110 then
          if idx = 0x2010 then rows2010 else
          if idx = 0x2100 then rows2100 else
          if idx = 0x2101 then rows2101 else
          []
        else
          if idx = 0x2110 then rows2110 else
          if 0x3000 ≤ idx ∧ idx < 0x3000 + 16 * 16 ∧ idx % 16 = 0 then rows3000 else
          if 0x3001 ≤ idx ∧ idx < 0x3001 + 16 * 16 ∧ idx % 16 = 1 then rows3001 else
          if 0x3002 ≤ idx ∧ idx < 0x3002 + 16 * 16 ∧ idx % 16 = 2 then rows3002 else
          []
    else
      if idx < 0x6300 then
        if idx < 0x6000 then
          if idx = 0x3400 then rows3400 else
          if idx = 0x3800 then rows3800 else
          if 0x4000 ≤ idx ∧ idx < 0x4000 + 4096 then rows4000 else
          []
        else
          if 0x6000 ≤ idx ∧ idx < 0x6000 + 16 * 24 ∧ idx % 16 = 0 then rows6000 else
          if 0x6001 ≤ idx ∧ idx < 0x6001 + 16 * 24 ∧ idx % 16 = 1 then rows6001 else
          if 0x6002 ≤ idx ∧ idx < 0x6002 + 16 * 24 ∧ idx % 16 = 2 then rows6002 else
          []
      else
        if idx < 0x6800 then
          if idx = 0x6300 then rows6300 else
          if 0x6400 ≤ idx ∧ idx < 0x6400 + 16 * 4 ∧ idx % 16 = 0 then rows6400 else
          if 0x6401 ≤ idx ∧ idx < 0x6401 + 16 * 4 ∧ idx % 16 = 1 then rows6401 else
          []
        else
          if idx = 0x6800 then rows6800 else
          if 0x6810 ≤ idx ∧ idx < 0x6810 + 32 then rows6810 else
          if 0x6840 ≤ idx ∧ idx < 0x6840 + 16 then rows6840 else
          if 0x7000 ≤ idx ∧ idx < 0x7000 + 528 then rows7000 else
          []
  else
    if idx < 0x7C02 then
      if idx < 0x7700 then
        if idx < 0x7500 then
          if idx = 0x7210 then rows7210 else
          if 0x7400 ≤ idx ∧ idx < 0x7400 + 32 then rows7400 else
          if idx = 0x7480 then rows7480 else
          []
        else
          if 0x7500 ≤ idx ∧ idx < 0x7500 + 32 then rows7500 else
          if idx = 0x7580 then rows7580 else
          if 0x7600 ≤ idx ∧ idx < 0x7600 + 16 then rows7600 else
          if idx = 0x7680 then rows7680 else
          []
      else
        if idx < 0x7810 then
          if 0x7700 ≤ idx ∧ idx < 0x7700 + 64 then rows7700 else
          if idx = 0x7780 then rows7780 else
          if idx = 0x7800 then rows7800 else
          []
        else
          if 0x7811 ≤ idx ∧ idx ≤ 0x7813 then rows7810 else
          if 0x7820 ≤ idx ∧ idx < 0x7820 + 8 then rows7820 else
          if idx = 0x7C00 then rows7C00 else
          if idx = 0x7C01 then rows7C01 else
          []
    else
      if idx < 0x8F00 then
        if idx < 0x7C40 then
          if idx = 0x7C02 then rows7C02 else
          if idx = 0x7C03 then rows7C03 else
          if 0x7C10 ≤ idx ∧ idx < 0x7C10 + 33 then rows7C10 else
          []
        else
          if 0x7C40 ≤ idx ∧ idx < 0x7C40 + 64 then rows7C40 else
          if idx = 0x8000 then rows8000 else
          if idx = 0x8100 then rows8100 else
          if idx = 0x8200 then rows8200 else
          []
      else
        if idx < 0x9100 then
          if idx = 0x8F00 then rows8F00 else
          if idx = 0x9000 then rows9000 else
          if idx = 0x9010 then rows9010 else
          []
        else
          if idx = 0x9100 then rows9100 else
          if idx = 0x9400 then rows9400 else
          if idx = 0xA000 then rowsA000 else
          if idx = 0xA010 then rowsA010 else
          []

/-- The row that defines the entry `idx.sub` (R438). -/
def entryRow (idx sub : Nat) : Option ERow := (rowsOf idx).find? fun r => r.lo ≤ sub && sub ≤ r.hi

/-- The highest subindex defined at an index (R438). -/
def topSub (idx : Nat) : Nat := (rowsOf idx).foldl (fun m r => max m r.hi) 0

/-- The default of an entry (R447).  LOGICAL of a physical Bivouac is the map of R199, LOGICAL of a physical
slice its own number (R134), CLOCK_KHZ the five clocks of R489. -/
def entryDflt (k : Nat) : Nat :=
  let idx := k / 256
  let sub := k % 256
  if 0x7000 ≤ idx ∧ idx < 0x7000 + 528 ∧ sub = 2 then
    let n := idx - 0x7000
    if n < 256 then n else if n < 264 then 0xFFFF else if n < 520 then n - 8 else 0xFFFF
  else if 0x7C10 ≤ idx ∧ idx < 0x7C10 + 33 ∧ sub = 1 then
    (if idx = 0x7C10 + 32 then 0xFF else idx - 0x7C10)
  else if idx = 0x2000 ∧ 5 ≤ sub ∧ sub ≤ 9 then
    [1600000, 2133333, 1280000, 800000, 200000].getD (sub - 5) 0
  else match entryRow idx sub with
    | some r => r.dflt
    | none => 0

namespace E

/-- VENDOR, 0x1000.01 (R463). -/
def idVendor : Nat := ekey 0x1000 0x01
/-- FAMILY, 0x1000.02 (R463). -/
def idFamily : Nat := ekey 0x1000 0x02
/-- PART, 0x1000.03 (R463). -/
def idPart : Nat := ekey 0x1000 0x03
/-- STEPPING, 0x1000.04 (R463). -/
def idStepping : Nat := ekey 0x1000 0x04
/-- SERIAL, 0x1000.05 (R463). -/
def idSerial : Nat := ekey 0x1000 0x05
/-- DATE_CODE, 0x1000.06 (R463). -/
def idDateCode : Nat := ekey 0x1000 0x06
/-- ROM_VERSION, 0x1000.07 (R463). -/
def idRomVersion : Nat := ekey 0x1000 0x07
/-- DICT_VERSION, 0x1000.08 (R463). -/
def idDictVersion : Nat := ekey 0x1000 0x08
/-- DAP_VERSION, 0x1000.09 (R463). -/
def idDapVersion : Nat := ekey 0x1000 0x09
/-- STACK_BYTES, 0x1000.0A (R463). -/
def idStackBytes : Nat := ekey 0x1000 0x0A
/-- POOL_BYTES, 0x1000.0B (R463). -/
def idPoolBytes : Nat := ekey 0x1000 0x0B
/-- PHYS_BIVOUACS, 0x1000.0C (R463). -/
def idPhysBivouacs : Nat := ekey 0x1000 0x0C
/-- STACKS, 0x1000.0D (R463). -/
def idStacks : Nat := ekey 0x1000 0x0D
/-- UTXON_PORTS, 0x1000.0E (R463). -/
def idUtxonPorts : Nat := ekey 0x1000 0x0E
/-- HOST_PORTS, 0x1000.0F (R463). -/
def idHostPorts : Nat := ekey 0x1000 0x0F
/-- PITCHES, 0x1000.10 (R463). -/
def idPitches : Nat := ekey 0x1000 0x10
/-- REGION_DESCRIPTORS, 0x1000.11 (R463). -/
def idRegionDescriptors : Nat := ekey 0x1000 0x11
/-- BOARD_POS, 0x1000.20 (R29). -/
def idBoardPos : Nat := ekey 0x1000 0x20
/-- PLCA_ID, 0x1000.21 (R29). -/
def idPlcaId : Nat := ekey 0x1000 0x21
/-- BOARD_NUMBER, 0x1000.22 (R29). -/
def idBoardNumber : Nat := ekey 0x1000 0x22
/-- DEVICE_NUMBER, 0x1000.23 (R29). -/
def idDeviceNumber : Nat := ekey 0x1000 0x23
/-- PEER_PORTS, 0x1000.24 (R29). -/
def idPeerPorts : Nat := ekey 0x1000 0x24
/-- POS_CONFLICT, 0x1000.25 (R29). -/
def idPosConflict : Nat := ekey 0x1000 0x25
/-- KNOWN_PEERS, 0x1000.26 (R29). -/
def idKnownPeers : Nat := ekey 0x1000 0x26
/-- MAC_ADDRESS, 0x1100.01 (R464). -/
def mgmtMacAddress : Nat := ekey 0x1100 0x01
/-- PLCA_STATUS, 0x1100.02 (R464). -/
def mgmtPlcaStatus : Nat := ekey 0x1100 0x02
/-- PLCA_TO_TIMER, 0x1100.03 (R464). -/
def mgmtPlcaToTimer : Nat := ekey 0x1100 0x03
/-- PLCA_BURST_COUNT, 0x1100.04 (R464). -/
def mgmtPlcaBurstCount : Nat := ekey 0x1100 0x04
/-- PLCA_BURST_TIMER, 0x1100.05 (R464). -/
def mgmtPlcaBurstTimer : Nat := ekey 0x1100 0x05
/-- FRAMES_RX, 0x1100.06 (R464). -/
def mgmtFramesRx : Nat := ekey 0x1100 0x06
/-- FRAMES_TX, 0x1100.07 (R464). -/
def mgmtFramesTx : Nat := ekey 0x1100 0x07
/-- FCS_ERRORS, 0x1100.08 (R464). -/
def mgmtFcsErrors : Nat := ekey 0x1100 0x08
/-- FRAMES_DISCARDED, 0x1100.09 (R464). -/
def mgmtFramesDiscarded : Nat := ekey 0x1100 0x09
/-- BEACON_LOSSES, 0x1100.0A (R464). -/
def mgmtBeaconLosses : Nat := ekey 0x1100 0x0A
/-- REPLY_CACHE_HITS, 0x1100.0B (R464). -/
def mgmtReplyCacheHits : Nat := ekey 0x1100 0x0B
/-- REQUESTS, 0x1100.0C (R464). -/
def mgmtRequests : Nat := ekey 0x1100 0x0C
/-- WRITES_IGNORED, 0x1100.0D (R464). -/
def mgmtWritesIgnored : Nat := ekey 0x1100 0x0D
/-- DOMAIN_TIMEOUTS, 0x1100.0E (R464). -/
def mgmtDomainTimeouts : Nat := ekey 0x1100 0x0E
/-- SLOT_BUSY, 0x1100.0F (R464). -/
def mgmtSlotBusy : Nat := ekey 0x1100 0x0F
/-- DICT_SERVER, 0x1100.10 (R464). -/
def mgmtDictServer : Nat := ekey 0x1100 0x10
/-- DOMAIN_TIMEOUT_MS, 0x1100.11 (R464). -/
def mgmtDomainTimeoutMs : Nat := ekey 0x1100 0x11
/-- KEY_SLOTS, 0x1200.01 (R465). -/
def secKeySlots : Nat := ekey 0x1200 0x01
/-- REVOKE, 0x1200.02 (R465). -/
def secRevoke : Nat := ekey 0x1200 0x02
/-- DEVICE_CERT, 0x1200.03 (R465). -/
def secDeviceCert : Nat := ekey 0x1200 0x03
/-- CERT_DIGEST, 0x1200.04 (R465). -/
def secCertDigest : Nat := ekey 0x1200 0x04
/-- LIFECYCLE, 0x1200.05 (R465). -/
def secLifecycle : Nat := ekey 0x1200 0x05
/-- KEY_PUBLIC, 0x1201.01–.08 (R465). -/
def secKeyPublic (i : Nat) : Nat := ekey 0x1201 (0x01 + i)
/-- KEY_STATE, 0x1202.01–.08 (R465). -/
def secKeyState (i : Nat) : Nat := ekey 0x1202 (0x01 + i)
/-- SVN_FLOOR, 0x1203.01–.03 (R465). -/
def secSvnFloor (i : Nat) : Nat := ekey 0x1203 (0x01 + i)
/-- REFCLK_PRESENT, 0x2000.01 (R489). -/
def clkRefclkPresent : Nat := ekey 0x2000 0x01
/-- PLL_STATE, 0x2000.02 (R489). -/
def clkPllState : Nat := ekey 0x2000 0x02
/-- PLL_LOCK_LOSSES, 0x2000.03 (R489). -/
def clkPllLockLosses : Nat := ekey 0x2000 0x03
/-- RCLK_KHZ, 0x2000.04 (R489). -/
def clkRclkKhz : Nat := ekey 0x2000 0x04
/-- CLOCK_KHZ, 0x2000.05–.09 (R489). -/
def clkClockKhz (i : Nat) : Nat := ekey 0x2000 (0x05 + i)
/-- CCLK_NOW, 0x2000.0A (R489). -/
def clkCclkNow : Nat := ekey 0x2000 0x0A
/-- CAMP_COUNT, 0x2010.01 (R266). -/
def campCampCount : Nat := ekey 0x2010 0x01
/-- LOCK_STATE, 0x2010.02 (R266). -/
def campLockState : Nat := ekey 0x2010 0x02
/-- TIME_ENABLE, 0x2010.03 (R266). -/
def campTimeEnable : Nat := ekey 0x2010 0x03
/-- MASTER_POS, 0x2010.04 (R266). -/
def campMasterPos : Nat := ekey 0x2010 0x04
/-- SWITCH_AT, 0x2010.05 (R266). -/
def campSwitchAt : Nat := ekey 0x2010 0x05
/-- SYNC_DELAY, 0x2010.06 (R266). -/
def campSyncDelay : Nat := ekey 0x2010 0x06
/-- LOCK_TOLERANCE, 0x2010.07 (R266). -/
def campLockTolerance : Nat := ekey 0x2010 0x07
/-- MISS_LIMIT, 0x2010.08 (R266). -/
def campMissLimit : Nat := ekey 0x2010 0x08
/-- LAST_ERROR, 0x2010.09 (R266). -/
def campLastError : Nat := ekey 0x2010 0x09
/-- MARKERS, 0x2010.0A (R266). -/
def campMarkers : Nat := ekey 0x2010 0x0A
/-- UNLOCK_EVENTS, 0x2010.0B (R266). -/
def campUnlockEvents : Nat := ekey 0x2010 0x0B
/-- COUNT_VALID, 0x2010.0C (R266). -/
def campCountValid : Nat := ekey 0x2010 0x0C
/-- DISPATCH_LEAD, 0x2010.0D (R266). -/
def campDispatchLead : Nat := ekey 0x2010 0x0D
/-- LATE_GRACE, 0x2010.0E (R266). -/
def campLateGrace : Nat := ekey 0x2010 0x0E
/-- LAUNCH_HORIZON, 0x2010.0F (R266). -/
def campLaunchHorizon : Nat := ekey 0x2010 0x0F
/-- CORE_ENABLE, 0x2100.01 (R490). -/
def rstCoreEnable : Nat := ekey 0x2100 0x01
/-- CORE_STATE, 0x2100.02 (R490). -/
def rstCoreState : Nat := ekey 0x2100 0x02
/-- PIN_RESET_KIND, 0x2100.03 (R490). -/
def rstPinResetKind : Nat := ekey 0x2100 0x03
/-- RESET_REQUEST, 0x2100.04 (R490). -/
def rstResetRequest : Nat := ekey 0x2100 0x04
/-- LAST_RESET, 0x2100.05 (R490). -/
def rstLastReset : Nat := ekey 0x2100 0x05
/-- CONTENTS_KEPT, 0x2100.06 (R490). -/
def rstContentsKept : Nat := ekey 0x2100 0x06
/-- WARM_RESETS, 0x2100.07 (R490). -/
def rstWarmResets : Nat := ekey 0x2100 0x07
/-- DOMAIN_RESET, 0x2100.08 (R490). -/
def rstDomainReset : Nat := ekey 0x2100 0x08
/-- DOMAIN_RESETS, 0x2100.09 (R490). -/
def rstDomainResets : Nat := ekey 0x2100 0x09
/-- SERVICE_LEVEL, 0x2100.0A (R490). -/
def rstServiceLevel : Nat := ekey 0x2100 0x0A
/-- STACK_ENABLE, 0x2101.01 (R491). -/
def calStackEnable : Nat := ekey 0x2101 0x01
/-- CAL_ACTIVE, 0x2101.02 (R491). -/
def calCalActive : Nat := ekey 0x2101 0x02
/-- CAL_RESULT, 0x2101.03–.12 (R491). -/
def calCalResult (i : Nat) : Nat := ekey 0x2101 (0x03 + i)
/-- LOGIC_TEMP_MAX, 0x2110.01 (R553). -/
def powLogicTempMax : Nat := ekey 0x2110 0x01
/-- HBM_TEMP_MAX, 0x2110.02 (R553). -/
def powHbmTempMax : Nat := ekey 0x2110 0x02
/-- THROTTLE_C, 0x2110.03 (R553). -/
def powThrottleC : Nat := ekey 0x2110 0x03
/-- POWER_CAP, 0x2110.04 (R553). -/
def powPowerCap : Nat := ekey 0x2110 0x04
/-- POWER_ESTIMATE, 0x2110.05 (R553). -/
def powPowerEstimate : Nat := ekey 0x2110 0x05
/-- THROTTLE_CYCLES, 0x2110.06 (R553). -/
def powThrottleCycles : Nat := ekey 0x2110 0x06
/-- THERMAL_TRIPS, 0x2110.07 (R553). -/
def powThermalTrips : Nat := ekey 0x2110 0x07
/-- RAIL_STATUS, 0x2110.08 (R553). -/
def powRailStatus : Nat := ekey 0x2110 0x08
/-- RAIL_FAULT_LAST, 0x2110.09 (R553). -/
def powRailFaultLast : Nat := ekey 0x2110 0x09
/-- STATE, 0x3000 + s × 0x10.01 (R193). -/
def stackState (s : Nat) : Nat := ekey (0x3000 + 16 * s) 0x01
/-- RETIRED_CHANNELS, 0x3000 + s × 0x10.02 (R193). -/
def stackRetiredChannels (s : Nat) : Nat := ekey (0x3000 + 16 * s) 0x02
/-- RETIRE, 0x3000 + s × 0x10.03 (R193). -/
def stackRetire (s : Nat) : Nat := ekey (0x3000 + 16 * s) 0x03
/-- CORRECTED, 0x3000 + s × 0x10.04 (R193). -/
def stackCorrected (s : Nat) : Nat := ekey (0x3000 + 16 * s) 0x04
/-- UNCORRECTED, 0x3000 + s × 0x10.05 (R193). -/
def stackUncorrected (s : Nat) : Nat := ekey (0x3000 + 16 * s) 0x05
/-- NEVER_WRITTEN_READS, 0x3000 + s × 0x10.06 (R193). -/
def stackNeverWrittenReads (s : Nat) : Nat := ekey (0x3000 + 16 * s) 0x06
/-- POISON_READS, 0x3000 + s × 0x10.07 (R193). -/
def stackPoisonReads (s : Nat) : Nat := ekey (0x3000 + 16 * s) 0x07
/-- RMW_COUNT, 0x3000 + s × 0x10.08 (R193). -/
def stackRmwCount (s : Nat) : Nat := ekey (0x3000 + 16 * s) 0x08
/-- TEMPERATURE, 0x3000 + s × 0x10.09 (R193). -/
def stackTemperature (s : Nat) : Nat := ekey (0x3000 + 16 * s) 0x09
/-- REFRESH_INTERVAL, 0x3000 + s × 0x10.0A (R193). -/
def stackRefreshInterval (s : Nat) : Nat := ekey (0x3000 + 16 * s) 0x0A
/-- CH_CORRECTED, 0x3001 + s × 0x10.01–.20 (R194). -/
def stackChCorrected (s : Nat) (i : Nat) : Nat := ekey (0x3001 + 16 * s) (0x01 + i)
/-- CH_UNCORRECTED, 0x3002 + s × 0x10.01–.20 (R194). -/
def stackChUncorrected (s : Nat) (i : Nat) : Nat := ekey (0x3002 + 16 * s) (0x01 + i)
/-- SWARD_CORRECTED, 0x3400.01 (R196). -/
def swardSwardCorrected : Nat := ekey 0x3400 0x01
/-- SWARD_UNCORRECTED, 0x3400.02 (R196). -/
def swardSwardUncorrected : Nat := ekey 0x3400 0x02
/-- SWARD_NW_READS, 0x3400.03 (R196). -/
def swardSwardNwReads : Nat := ekey 0x3400 0x03
/-- STAGED_COPIES, 0x3400.04 (R196). -/
def swardStagedCopies : Nat := ekey 0x3400 0x04
/-- GROUNDSHEET_BASE, 0x3800.01 (R195). -/
def eccGroundsheetBase : Nat := ekey 0x3800 0x01
/-- PROTECTED_BYTES, 0x3800.02 (R195). -/
def eccProtectedBytes : Nat := ekey 0x3800 0x02
/-- ECC_MODE, 0x3800.03 (R195). -/
def eccEccMode : Nat := ekey 0x3800 0x03
/-- SCRUB_HOURS, 0x3800.04 (R195). -/
def eccScrubHours : Nat := ekey 0x3800 0x04
/-- SCRUB_PASSES, 0x3800.05 (R195). -/
def eccScrubPasses : Nat := ekey 0x3800 0x05
/-- SCRUB_CORRECTED, 0x3800.06 (R195). -/
def eccScrubCorrected : Nat := ekey 0x3800 0x06
/-- REBUILD_SLOTS, 0x3800.07 (R195). -/
def eccRebuildSlots : Nat := ekey 0x3800 0x07
/-- WITHDRAWN_PAGES, 0x3800.08 (R195). -/
def eccWithdrawnPages : Nat := ekey 0x3800 0x08
/-- RELOC_PENDING, 0x3800.09 (R195). -/
def eccRelocPending : Nat := ekey 0x3800 0x09
/-- EXPOSED_STRIPES, 0x3800.0A (R195). -/
def eccExposedStripes : Nat := ekey 0x3800 0x0A
/-- NW_WORD, 0x3800.0B (R195). -/
def eccNwWord : Nat := ekey 0x3800 0x0B
/-- POISON_WORD, 0x3800.0C (R195). -/
def eccPoisonWord : Nat := ekey 0x3800 0x0C
/-- TEST_LINE, 0x3800.0D (R195). -/
def eccTestLine : Nat := ekey 0x3800 0x0D
/-- TEST_DATA_MASK, 0x3800.0E (R195). -/
def eccTestDataMask : Nat := ekey 0x3800 0x0E
/-- TEST_CHECK_MASK, 0x3800.0F (R195). -/
def eccTestCheckMask : Nat := ekey 0x3800 0x0F
/-- TEST_ARM, 0x3800.10 (R195). -/
def eccTestArm : Nat := ekey 0x3800 0x10
/-- FULL_STRIPE_WRITES, 0x3800.11 (R195). -/
def eccFullStripeWrites : Nat := ekey 0x3800 0x11
/-- DEGRADED_READS, 0x3800.12 (R195). -/
def eccDegradedReads : Nat := ekey 0x3800 0x12
/-- REBUILT_LINES, 0x3800.13 (R195). -/
def eccRebuiltLines : Nat := ekey 0x3800 0x13
/-- STATE, 0x4000 + p.01 (R69). -/
def pitchState (p : Nat) : Nat := ekey (0x4000 + p) 0x01
/-- SERVING, 0x4000 + p.02 (R69). -/
def pitchServing (p : Nat) : Nat := ekey (0x4000 + p) 0x02
/-- BUDGET_CLASSES, 0x4000 + p.03 (R69). -/
def pitchBudgetClasses (p : Nat) : Nat := ekey (0x4000 + p) 0x03
/-- REGION_QUOTA, 0x4000 + p.04 (R69). -/
def pitchRegionQuota (p : Nat) : Nat := ekey (0x4000 + p) 0x04
/-- REGION_COUNT, 0x4000 + p.05 (R69). -/
def pitchRegionCount (p : Nat) : Nat := ekey (0x4000 + p) 0x05
/-- BYTE_QUOTA, 0x4000 + p.06 (R69). -/
def pitchByteQuota (p : Nat) : Nat := ekey (0x4000 + p) 0x06
/-- BYTES_HELD, 0x4000 + p.07 (R69). -/
def pitchBytesHeld (p : Nat) : Nat := ekey (0x4000 + p) 0x07
/-- SWARD_QUOTA, 0x4000 + p.08 (R69). -/
def pitchSwardQuota (p : Nat) : Nat := ekey (0x4000 + p) 0x08
/-- DRAIN_LIMIT, 0x4000 + p.09 (R69). -/
def pitchDrainLimit (p : Nat) : Nat := ekey (0x4000 + p) 0x09
/-- HANDOVER_LIMIT, 0x4000 + p.0A (R69). -/
def pitchHandoverLimit (p : Nat) : Nat := ekey (0x4000 + p) 0x0A
/-- LAST_SHORTFALL, 0x4000 + p.0B (R69). -/
def pitchLastShortfall (p : Nat) : Nat := ekey (0x4000 + p) 0x0B
/-- PITCH_RESET, 0x4000 + p.0C (R69). -/
def pitchPitchReset (p : Nat) : Nat := ekey (0x4000 + p) 0x0C
/-- STAGE_DROPS, 0x4000 + p.0D (R69). -/
def pitchStageDrops (p : Nat) : Nat := ekey (0x4000 + p) 0x0D
/-- STAGE_STALL_CYCLES, 0x4000 + p.0E (R197). -/
def pitchStageStallCycles (p : Nat) : Nat := ekey (0x4000 + p) 0x0E
/-- STAGE_FAILS, 0x4000 + p.0F (R197). -/
def pitchStageFails (p : Nat) : Nat := ekey (0x4000 + p) 0x0F
/-- RING_CONFIG, 0x4000 + p.10 (R265). -/
def pitchRingConfig (p : Nat) : Nat := ekey (0x4000 + p) 0x10
/-- RING_STATE, 0x4000 + p.11 (R265). -/
def pitchRingState (p : Nat) : Nat := ekey (0x4000 + p) 0x11
/-- PRIORITY_FLOOR, 0x4000 + p.12 (R265). -/
def pitchPriorityFloor (p : Nat) : Nat := ekey (0x4000 + p) 0x12
/-- BIV_ALLOW_FIRST, 0x4000 + p.13 (R265). -/
def pitchBivAllowFirst (p : Nat) : Nat := ekey (0x4000 + p) 0x13
/-- BIV_ALLOW_COUNT, 0x4000 + p.14 (R265). -/
def pitchBivAllowCount (p : Nat) : Nat := ekey (0x4000 + p) 0x14
/-- DOORBELL_DROPS, 0x4000 + p.15 (R265). -/
def pitchDoorbellDrops (p : Nat) : Nat := ekey (0x4000 + p) 0x15
/-- COMPLETIONS, 0x4000 + p.16 (R265). -/
def pitchCompletions (p : Nat) : Nat := ekey (0x4000 + p) 0x16
/-- LATE_LAUNCHES, 0x4000 + p.17 (R265). -/
def pitchLateLaunches (p : Nat) : Nat := ekey (0x4000 + p) 0x17
/-- LATE_CANCELS, 0x4000 + p.18 (R265). -/
def pitchLateCancels (p : Nat) : Nat := ekey (0x4000 + p) 0x18
/-- UNLOCKED_CANCELS, 0x4000 + p.19 (R265). -/
def pitchUnlockedCancels (p : Nat) : Nat := ekey (0x4000 + p) 0x19
/-- XLATE_ROOT, 0x4000 + p.20 (R99). -/
def pitchXlateRoot (p : Nat) : Nat := ekey (0x4000 + p) 0x20
/-- FAULT_RING_BASE, 0x4000 + p.21 (R99). -/
def pitchFaultRingBase (p : Nat) : Nat := ekey (0x4000 + p) 0x21
/-- FAULT_TAIL, 0x4000 + p.22 (R99). -/
def pitchFaultTail (p : Nat) : Nat := ekey (0x4000 + p) 0x22
/-- FAULT_HEAD, 0x4000 + p.23 (R99). -/
def pitchFaultHead (p : Nat) : Nat := ekey (0x4000 + p) 0x23
/-- FAULT_DONE, 0x4000 + p.24 (R99). -/
def pitchFaultDone (p : Nat) : Nat := ekey (0x4000 + p) 0x24
/-- FAULT_WAITING, 0x4000 + p.25 (R99). -/
def pitchFaultWaiting (p : Nat) : Nat := ekey (0x4000 + p) 0x25
/-- FAULT_WAIT_OVERFLOW, 0x4000 + p.26 (R99). -/
def pitchFaultWaitOverflow (p : Nat) : Nat := ekey (0x4000 + p) 0x26
/-- FAULTS, 0x4000 + p.27 (R99). -/
def pitchFaults (p : Nat) : Nat := ekey (0x4000 + p) 0x27
/-- XLATE_INVAL, 0x4000 + p.28 (R99). -/
def pitchXlateInval (p : Nat) : Nat := ekey (0x4000 + p) 0x28
/-- INVAL_DONE, 0x4000 + p.29 (R99). -/
def pitchInvalDone (p : Nat) : Nat := ekey (0x4000 + p) 0x29
/-- INVAL_PENDING, 0x4000 + p.2A (R99). -/
def pitchInvalPending (p : Nat) : Nat := ekey (0x4000 + p) 0x2A
/-- PARKED, 0x4000 + p.2B (R99). -/
def pitchParked (p : Nat) : Nat := ekey (0x4000 + p) 0x2B
/-- STALL_CYCLES, 0x4000 + p.2C (R99). -/
def pitchStallCycles (p : Nat) : Nat := ekey (0x4000 + p) 0x2C
/-- MIGRATIONS, 0x4000 + p.2D (R99). -/
def pitchMigrations (p : Nat) : Nat := ekey (0x4000 + p) 0x2D
/-- MIGRATE_FAILS, 0x4000 + p.2E (R99). -/
def pitchMigrateFails (p : Nat) : Nat := ekey (0x4000 + p) 0x2E
/-- XLATE_LIMITS, 0x4000 + p.2F (R99). -/
def pitchXlateLimits (p : Nat) : Nat := ekey (0x4000 + p) 0x2F
/-- REGIONS, 0x4000 + p.30 (R69). -/
def pitchRegions (p : Nat) : Nat := ekey (0x4000 + p) 0x30
/-- STILE_BASE, 0x4000 + p.31 (R164). -/
def pitchStileBase (p : Nat) : Nat := ekey (0x4000 + p) 0x31
/-- STILE_COUNT, 0x4000 + p.32 (R164). -/
def pitchStileCount (p : Nat) : Nat := ekey (0x4000 + p) 0x32
/-- OPERAND_STALL_CYCLES, 0x4000 + p.33 (R232). -/
def pitchOperandStallCycles (p : Nat) : Nat := ekey (0x4000 + p) 0x33
/-- OPERAND_POISONS, 0x4000 + p.34 (R232). -/
def pitchOperandPoisons (p : Nat) : Nat := ekey (0x4000 + p) 0x34
/-- RESERVED_SLOTS, 0x4000 + p.35 (R405). -/
def pitchReservedSlots (p : Nat) : Nat := ekey (0x4000 + p) 0x35
/-- URGENT_METER, 0x4000 + p.36 (R405). -/
def pitchUrgentMeter (p : Nat) : Nat := ekey (0x4000 + p) 0x36
/-- BULK_METER, 0x4000 + p.37 (R405). -/
def pitchBulkMeter (p : Nat) : Nat := ekey (0x4000 + p) 0x37
/-- METER_YELLOW, 0x4000 + p.38 (R405). -/
def pitchMeterYellow (p : Nat) : Nat := ekey (0x4000 + p) 0x38
/-- METER_RED, 0x4000 + p.39 (R405). -/
def pitchMeterRed (p : Nat) : Nat := ekey (0x4000 + p) 0x39
/-- RESERVE_USED, 0x4000 + p.3A (R405). -/
def pitchReserveUsed (p : Nat) : Nat := ekey (0x4000 + p) 0x3A
/-- RESERVE_MISSES, 0x4000 + p.3B (R405). -/
def pitchReserveMisses (p : Nat) : Nat := ekey (0x4000 + p) 0x3B
/-- LAST_HANDOVER, 0x4000 + p.3C (R69). -/
def pitchLastHandover (p : Nat) : Nat := ekey (0x4000 + p) 0x3C
/-- STATE, 0x6000 + n × 0x10.01 (R377). -/
def utxonState (n : Nat) : Nat := ekey (0x6000 + 16 * n) 0x01
/-- ENABLE, 0x6000 + n × 0x10.02 (R377). -/
def utxonEnable (n : Nat) : Nat := ekey (0x6000 + 16 * n) 0x02
/-- PARTNER_TYPE, 0x6000 + n × 0x10.03 (R377). -/
def utxonPartnerType (n : Nat) : Nat := ekey (0x6000 + 16 * n) 0x03
/-- PARTNER_IDENTITY, 0x6000 + n × 0x10.04 (R377). -/
def utxonPartnerIdentity (n : Nat) : Nat := ekey (0x6000 + 16 * n) 0x04
/-- PARTNER_DEVICE, 0x6000 + n × 0x10.05 (R377). -/
def utxonPartnerDevice (n : Nat) : Nat := ekey (0x6000 + 16 * n) 0x05
/-- WIDTH, 0x6000 + n × 0x10.06 (R377). -/
def utxonWidth (n : Nat) : Nat := ekey (0x6000 + 16 * n) 0x06
/-- HOLD_TIME, 0x6000 + n × 0x10.07 (R377). -/
def utxonHoldTime (n : Nat) : Nat := ekey (0x6000 + 16 * n) 0x07
/-- REPLAY_TIMER, 0x6000 + n × 0x10.08 (R377). -/
def utxonReplayTimer (n : Nat) : Nat := ekey (0x6000 + 16 * n) 0x08
/-- LANE_MAP, 0x6000 + n × 0x10.09 (R377). -/
def utxonLaneMap (n : Nat) : Nat := ekey (0x6000 + 16 * n) 0x09
/-- FRAMES_TX, 0x6000 + n × 0x10.0A (R377). -/
def utxonFramesTx (n : Nat) : Nat := ekey (0x6000 + 16 * n) 0x0A
/-- FRAMES_RX, 0x6000 + n × 0x10.0B (R377). -/
def utxonFramesRx (n : Nat) : Nat := ekey (0x6000 + 16 * n) 0x0B
/-- CRC_ERRORS, 0x6000 + n × 0x10.0C (R377). -/
def utxonCrcErrors (n : Nat) : Nat := ekey (0x6000 + 16 * n) 0x0C
/-- REPLAYS, 0x6000 + n × 0x10.0D (R377). -/
def utxonReplays (n : Nat) : Nat := ekey (0x6000 + 16 * n) 0x0D
/-- DUPLICATES, 0x6000 + n × 0x10.0E (R377). -/
def utxonDuplicates (n : Nat) : Nat := ekey (0x6000 + 16 * n) 0x0E
/-- FEC_CORRECTED, 0x6000 + n × 0x10.0F (R377). -/
def utxonFecCorrected (n : Nat) : Nat := ekey (0x6000 + 16 * n) 0x0F
/-- FEC_UNCORRECTED, 0x6000 + n × 0x10.10 (R377). -/
def utxonFecUncorrected (n : Nat) : Nat := ekey (0x6000 + 16 * n) 0x10
/-- RETRAINS, 0x6000 + n × 0x10.11 (R377). -/
def utxonRetrains (n : Nat) : Nat := ekey (0x6000 + 16 * n) 0x11
/-- LINK_LOST_EVENTS, 0x6000 + n × 0x10.12 (R377). -/
def utxonLinkLostEvents (n : Nat) : Nat := ekey (0x6000 + 16 * n) 0x12
/-- HELD_LOST, 0x6000 + n × 0x10.13 (R377). -/
def utxonHeldLost (n : Nat) : Nat := ekey (0x6000 + 16 * n) 0x13
/-- HELD_DISCARDED, 0x6000 + n × 0x10.14 (R377). -/
def utxonHeldDiscarded (n : Nat) : Nat := ekey (0x6000 + 16 * n) 0x14
/-- LANE_SWAPS, 0x6000 + n × 0x10.15 (R377). -/
def utxonLaneSwaps (n : Nat) : Nat := ekey (0x6000 + 16 * n) 0x15
/-- CREDITS, 0x6000 + n × 0x10.16 (R377). -/
def utxonCredits (n : Nat) : Nat := ekey (0x6000 + 16 * n) 0x16
/-- EGRESS_BYTES, 0x6000 + n × 0x10.17 (R377). -/
def utxonEgressBytes (n : Nat) : Nat := ekey (0x6000 + 16 * n) 0x17
/-- IDENT_CHANGED, 0x6000 + n × 0x10.18 (R377). -/
def utxonIdentChanged (n : Nat) : Nat := ekey (0x6000 + 16 * n) 0x18
/-- CREDIT_OVERRUNS, 0x6000 + n × 0x10.19 (R377). -/
def utxonCreditOverruns (n : Nat) : Nat := ekey (0x6000 + 16 * n) 0x19
/-- LANE_STATE, 0x6001 + n × 0x10.01–.09 (R378). -/
def utxonLaneState (n : Nat) (i : Nat) : Nat := ekey (0x6001 + 16 * n) (0x01 + i)
/-- LANE_SYMBOL_ERRORS, 0x6002 + n × 0x10.01–.09 (R378). -/
def utxonLaneSymbolErrors (n : Nat) (i : Nat) : Nat := ekey (0x6002 + 16 * n) (0x01 + i)
/-- ROUTES, 0x6300.01 (R379). -/
def linksRoutes : Nat := ekey 0x6300 0x01
/-- LANE_ERR_LIMIT, 0x6300.02 (R379). -/
def linksLaneErrLimit : Nat := ekey 0x6300 0x02
/-- LINK_VERSION, 0x6300.03 (R379). -/
def linksLinkVersion : Nat := ekey 0x6300 0x03
/-- STATE, 0x6400 + n × 0x10.01 (R380). -/
def hostState (n : Nat) : Nat := ekey (0x6400 + 16 * n) 0x01
/-- ENABLE, 0x6400 + n × 0x10.02 (R380). -/
def hostEnable (n : Nat) : Nat := ekey (0x6400 + 16 * n) 0x02
/-- WIDTH, 0x6400 + n × 0x10.03 (R380). -/
def hostWidth (n : Nat) : Nat := ekey (0x6400 + 16 * n) 0x03
/-- IDE_STATE, 0x6400 + n × 0x10.04 (R380). -/
def hostIdeState (n : Nat) : Nat := ekey (0x6400 + 16 * n) 0x04
/-- IDE_FAILURES, 0x6400 + n × 0x10.05 (R380). -/
def hostIdeFailures (n : Nat) : Nat := ekey (0x6400 + 16 * n) 0x05
/-- LINK_DOWNS, 0x6400 + n × 0x10.06 (R380). -/
def hostLinkDowns (n : Nat) : Nat := ekey (0x6400 + 16 * n) 0x06
/-- FLITS_RX, 0x6400 + n × 0x10.07 (R380). -/
def hostFlitsRx (n : Nat) : Nat := ekey (0x6400 + 16 * n) 0x07
/-- MAILBOX_COMMANDS, 0x6400 + n × 0x10.08 (R380). -/
def hostMailboxCommands (n : Nat) : Nat := ekey (0x6400 + 16 * n) 0x08
/-- DECODER, 0x6401 + n × 0x10.01–.08 (R380). -/
def hostDecoder (n : Nat) (i : Nat) : Nat := ekey (0x6401 + 16 * n) (0x01 + i)
/-- PERIOD_CCLK, 0x6800.01 (R402). -/
def trailPeriodCclk : Nat := ekey 0x6800 0x01
/-- SLOTS_PER_PERIOD, 0x6800.02 (R402). -/
def trailSlotsPerPeriod : Nat := ekey 0x6800 0x02
/-- URGENT_CAP, 0x6800.03 (R402). -/
def trailUrgentCap : Nat := ekey 0x6800 0x03
/-- URGENT_PIR_SUM, 0x6800.04 (R402). -/
def trailUrgentPirSum : Nat := ekey 0x6800 0x04
/-- SAMPLE_SHIFT, 0x6800.05 (R402). -/
def trailSampleShift : Nat := ekey 0x6800 0x05
/-- PERIODS, 0x6800.06 (R402). -/
def trailPeriods : Nat := ekey 0x6800 0x06
/-- CLASS_SLOTS, 0x6810 + k.01–.10 (R403). -/
def clsClassSlots (k : Nat) (i : Nat) : Nat := ekey (0x6810 + k) (0x01 + i)
/-- USED, 0x6810 + k.11 (R403). -/
def clsUsed (k : Nat) : Nat := ekey (0x6810 + k) 0x11
/-- BORROWED, 0x6810 + k.12 (R403). -/
def clsBorrowed (k : Nat) : Nat := ekey (0x6810 + k) 0x12
/-- OVERRUNS, 0x6810 + k.13 (R403). -/
def clsOverruns (k : Nat) : Nat := ekey (0x6810 + k) 0x13
/-- REFRESH_SLOTS, 0x6840 + s.01 (R404). -/
def trailSRefreshSlots (s : Nat) : Nat := ekey (0x6840 + s) 0x01
/-- BUDGETABLE, 0x6840 + s.02 (R404). -/
def trailSBudgetable (s : Nat) : Nat := ekey (0x6840 + s) 0x02
/-- HEADROOM, 0x6840 + s.03 (R404). -/
def trailSHeadroom (s : Nat) : Nat := ekey (0x6840 + s) 0x03
/-- SYSTEM_USED, 0x6840 + s.04 (R404). -/
def trailSSystemUsed (s : Nat) : Nat := ekey (0x6840 + s) 0x04
/-- IDLE_SLOTS, 0x6840 + s.05 (R404). -/
def trailSIdleSlots (s : Nat) : Nat := ekey (0x6840 + s) 0x05
/-- CARRIED, 0x6840 + s.06 (R404). -/
def trailSCarried (s : Nat) : Nat := ekey (0x6840 + s) 0x06
/-- QUEUE_DEPTH, 0x6840 + s.07–.0A (R404). -/
def trailSQueueDepth (s : Nat) (i : Nat) : Nat := ekey (0x6840 + s) (0x07 + i)
/-- QUEUE_DELAY, 0x6840 + s.0B–.0E (R404). -/
def trailSQueueDelay (s : Nat) (i : Nat) : Nat := ekey (0x6840 + s) (0x0B + i)
/-- DELAY_PEAK, 0x6840 + s.0F (R404). -/
def trailSDelayPeak (s : Nat) : Nat := ekey (0x6840 + s) 0x0F
/-- OVERCOMMIT, 0x6840 + s.10 (R404). -/
def trailSOvercommit (s : Nat) : Nat := ekey (0x6840 + s) 0x10
/-- STATE, 0x7000 + n.01 (R230). -/
def bivState (n : Nat) : Nat := ekey (0x7000 + n) 0x01
/-- LOGICAL, 0x7000 + n.02 (R230). -/
def bivLogical (n : Nat) : Nat := ekey (0x7000 + n) 0x02
/-- PITCH, 0x7000 + n.03 (R230). -/
def bivPitch (n : Nat) : Nat := ekey (0x7000 + n) 0x03
/-- DESCRIPTORS, 0x7000 + n.04 (R230). -/
def bivDescriptors (n : Nat) : Nat := ekey (0x7000 + n) 0x04
/-- RIDGEPOLE_BUSY, 0x7000 + n.05 (R230). -/
def bivRidgepoleBusy (n : Nat) : Nat := ekey (0x7000 + n) 0x05
/-- WB_MISSES, 0x7000 + n.06 (R230). -/
def bivWbMisses (n : Nat) : Nat := ekey (0x7000 + n) 0x06
/-- WB_WRITES, 0x7000 + n.07 (R230). -/
def bivWbWrites (n : Nat) : Nat := ekey (0x7000 + n) 0x07
/-- STAGED_LINES, 0x7000 + n.08 (R230). -/
def bivStagedLines (n : Nat) : Nat := ekey (0x7000 + n) 0x08
/-- POISON_EVENTS, 0x7000 + n.09 (R230). -/
def bivPoisonEvents (n : Nat) : Nat := ekey (0x7000 + n) 0x09
/-- KERNEL_FAULTS, 0x7000 + n.0A (R230). -/
def bivKernelFaults (n : Nat) : Nat := ekey (0x7000 + n) 0x0A
/-- REISSUES, 0x7000 + n.0B (R230). -/
def bivReissues (n : Nat) : Nat := ekey (0x7000 + n) 0x0B
/-- LAST_FAULT, 0x7000 + n.0C (R230). -/
def bivLastFault (n : Nat) : Nat := ekey (0x7000 + n) 0x0C
/-- LAST_FAULT_ADDR, 0x7000 + n.0D (R230). -/
def bivLastFaultAddr (n : Nat) : Nat := ekey (0x7000 + n) 0x0D
/-- ACTIVE_BIVOUACS, 0x7210.01 (R231). -/
def bivsActiveBivouacs : Nat := ekey 0x7210 0x01
/-- SPARES_FREE, 0x7210.02 (R231). -/
def bivsSparesFree : Nat := ekey 0x7210 0x02
/-- RUN_LIMIT, 0x7210.03 (R231). -/
def bivsRunLimit : Nat := ekey 0x7210 0x03
/-- ISSUE_DUTY, 0x7210.04 (R231). -/
def bivsIssueDuty : Nat := ekey 0x7210 0x04
/-- STATE, 0x7400 + e.01 (R294). -/
def brackenState (e : Nat) : Nat := ekey (0x7400 + e) 0x01
/-- VIEWS_BOUND, 0x7400 + e.02 (R294). -/
def brackenViewsBound (e : Nat) : Nat := ekey (0x7400 + e) 0x02
/-- LINES_EXPANDED, 0x7400 + e.03 (R294). -/
def brackenLinesExpanded (e : Nat) : Nat := ekey (0x7400 + e) 0x03
/-- FACTOR_LINES, 0x7400 + e.04 (R294). -/
def brackenFactorLines (e : Nat) : Nat := ekey (0x7400 + e) 0x04
/-- CRC_FAILS, 0x7400 + e.05 (R294). -/
def brackenCrcFails (e : Nat) : Nat := ekey (0x7400 + e) 0x05
/-- BUSY_CYCLES, 0x7400 + e.06 (R294). -/
def brackenBusyCycles (e : Nat) : Nat := ekey (0x7400 + e) 0x06
/-- VIEWS, 0x7480.01 (R295). -/
def viewsViews : Nat := ekey 0x7480 0x01
/-- VIEW_LIMIT, 0x7480.02 (R295). -/
def viewsViewLimit : Nat := ekey 0x7480 0x02
/-- VIEW_WRITES, 0x7480.03 (R295). -/
def viewsViewWrites : Nat := ekey 0x7480 0x03
/-- DAMAGE_EVENTS, 0x7480.04 (R295). -/
def viewsDamageEvents : Nat := ekey 0x7480 0x04
/-- FACTOR_POISONS, 0x7480.05 (R295). -/
def viewsFactorPoisons : Nat := ekey 0x7480 0x05
/-- NONFINITE_BLOCKS, 0x7480.06 (R295). -/
def viewsNonfiniteBlocks : Nat := ekey 0x7480 0x06
/-- DIAG_VIEW, 0x7480.07 (R295). -/
def viewsDiagView : Nat := ekey 0x7480 0x07
/-- DIAG_VIEW_INFO, 0x7480.08 (R295). -/
def viewsDiagViewInfo : Nat := ekey 0x7480 0x08
/-- STATE, 0x7500 + e.01 (R318). -/
def cloverState (e : Nat) : Nat := ekey (0x7500 + e) 0x01
/-- TABLES_BOUND, 0x7500 + e.02 (R318). -/
def cloverTablesBound (e : Nat) : Nat := ekey (0x7500 + e) 0x02
/-- ROWS_GATHERED, 0x7500 + e.03 (R318). -/
def cloverRowsGathered (e : Nat) : Nat := ekey (0x7500 + e) 0x03
/-- ROWS_UPDATED, 0x7500 + e.04 (R318). -/
def cloverRowsUpdated (e : Nat) : Nat := ekey (0x7500 + e) 0x04
/-- MERGE_PASSES, 0x7500 + e.05 (R318). -/
def cloverMergePasses (e : Nat) : Nat := ekey (0x7500 + e) 0x05
/-- BUSY_CYCLES, 0x7500 + e.06 (R318). -/
def cloverBusyCycles (e : Nat) : Nat := ekey (0x7500 + e) 0x06
/-- TABLES, 0x7580.01 (R319). -/
def tablesTables : Nat := ekey 0x7580 0x01
/-- TABLE_LIMIT, 0x7580.02 (R319). -/
def tablesTableLimit : Nat := ekey 0x7580 0x02
/-- INVALID_INDICES, 0x7580.03 (R319). -/
def tablesInvalidIndices : Nat := ekey 0x7580 0x03
/-- MISSING_INDICES, 0x7580.04 (R319). -/
def tablesMissingIndices : Nat := ekey 0x7580 0x04
/-- FOREIGN_ROWS, 0x7580.05 (R319). -/
def tablesForeignRows : Nat := ekey 0x7580 0x05
/-- NONFINITE_ROWS, 0x7580.06 (R319). -/
def tablesNonfiniteRows : Nat := ekey 0x7580 0x06
/-- DIAG_TABLE, 0x7580.07 (R319). -/
def tablesDiagTable : Nat := ekey 0x7580 0x07
/-- DIAG_TABLE_INFO, 0x7580.08 (R319). -/
def tablesDiagTableInfo : Nat := ekey 0x7580 0x08
/-- STATE, 0x7600 + e.01 (R318). -/
def tinderState (e : Nat) : Nat := ekey (0x7600 + e) 0x01
/-- ELEMENTS, 0x7600 + e.03 (R318). -/
def tinderElements (e : Nat) : Nat := ekey (0x7600 + e) 0x03
/-- BUSY_CYCLES, 0x7600 + e.06 (R318). -/
def tinderBusyCycles (e : Nat) : Nat := ekey (0x7600 + e) 0x06
/-- NONFINITE_STEPS, 0x7680.01 (R319). -/
def tindersNonfiniteSteps : Nat := ekey 0x7680 0x01
/-- STATE, 0x7700 + e.01 (R346). -/
def heatherState (e : Nat) : Nat := ekey (0x7700 + e) 0x01
/-- INDICES_BOUND, 0x7700 + e.02 (R346). -/
def heatherIndicesBound (e : Nat) : Nat := ekey (0x7700 + e) 0x02
/-- QUERIES, 0x7700 + e.03 (R346). -/
def heatherQueries (e : Nat) : Nat := ekey (0x7700 + e) 0x03
/-- BUCKETS_READ, 0x7700 + e.04 (R346). -/
def heatherBucketsRead (e : Nat) : Nat := ekey (0x7700 + e) 0x04
/-- RERANKS, 0x7700 + e.05 (R346). -/
def heatherReranks (e : Nat) : Nat := ekey (0x7700 + e) 0x05
/-- BUSY_CYCLES, 0x7700 + e.06 (R346). -/
def heatherBusyCycles (e : Nat) : Nat := ekey (0x7700 + e) 0x06
/-- INDICES, 0x7780.01 (R347). -/
def indicesIndices : Nat := ekey 0x7780 0x01
/-- INDEX_LIMIT, 0x7780.02 (R347). -/
def indicesIndexLimit : Nat := ekey 0x7780 0x02
/-- SHORT_QUERIES, 0x7780.03 (R347). -/
def indicesShortQueries : Nat := ekey 0x7780 0x03
/-- TRUNCATED_QUERIES, 0x7780.04 (R347). -/
def indicesTruncatedQueries : Nat := ekey 0x7780 0x04
/-- DELETE_MISSES, 0x7780.05 (R347). -/
def indicesDeleteMisses : Nat := ekey 0x7780 0x05
/-- NONFINITE_SCORES, 0x7780.06 (R347). -/
def indicesNonfiniteScores : Nat := ekey 0x7780 0x06
/-- DIAG_INDEX, 0x7780.07 (R347). -/
def indicesDiagIndex : Nat := ekey 0x7780 0x07
/-- DIAG_INDEX_INFO, 0x7780.08 (R347). -/
def indicesDiagIndexInfo : Nat := ekey 0x7780 0x08
/-- MGMT_ACTIVE, 0x7800.01 (R434). -/
def kettleMgmtActive : Nat := ekey 0x7800 0x01
/-- STAGE_CLASS, 0x7800.02 (R434). -/
def kettleStageClass : Nat := ekey 0x7800 0x02
/-- STAGE_IMAGE, 0x7800.03 (R434). -/
def kettleStageImage : Nat := ekey 0x7800 0x03
/-- ACTIVATE, 0x7800.04 (R434). -/
def kettleActivate : Nat := ekey 0x7800 0x04
/-- REVERT, 0x7800.05 (R434). -/
def kettleRevert : Nat := ekey 0x7800 0x05
/-- LOAD_RESULT, 0x7800.06 (R434). -/
def kettleLoadResult : Nat := ekey 0x7800 0x06
/-- REFUSE_REASON, 0x7800.07 (R434). -/
def kettleRefuseReason : Nat := ekey 0x7800 0x07
/-- COLL_STATE, 0x7800.08 (R434). -/
def kettleCollState : Nat := ekey 0x7800 0x08
/-- INT_MSG_VERSION, 0x7800.09 (R434). -/
def kettleIntMsgVersion : Nat := ekey 0x7800 0x09
/-- HOST_MSG_VERSION, 0x7800.0A–.0D (R434). -/
def kettleHostMsgVersion (i : Nat) : Nat := ekey 0x7800 (0x0A + i)
/-- WATCHDOG_MS, 0x7800.0E (R434). -/
def kettleWatchdogMs : Nat := ekey 0x7800 0x0E
/-- PERSIST_LIMIT, 0x7800.0F (R434). -/
def kettlePersistLimit : Nat := ekey 0x7800 0x0F
/-- COLL_DRAIN, 0x7800.10 (R434). -/
def kettleCollDrain : Nat := ekey 0x7800 0x10
/-- GROUPS, 0x7800.11 (R434). -/
def kettleGroups : Nat := ekey 0x7800 0x11
/-- STEPS_LATE, 0x7800.12 (R434). -/
def kettleStepsLate : Nat := ekey 0x7800 0x12
/-- STEPS_UNTIMED, 0x7800.13 (R434). -/
def kettleStepsUntimed : Nat := ekey 0x7800 0x13
/-- ACTIVE_VERSION, 0x7810 + c.01 (R435). -/
def imageActiveVersion (c : Nat) : Nat := ekey (0x7810 + c) 0x01
/-- INACTIVE_VERSION, 0x7810 + c.02 (R435). -/
def imageInactiveVersion (c : Nat) : Nat := ekey (0x7810 + c) 0x02
/-- INACTIVE_STATE, 0x7810 + c.03 (R435). -/
def imageInactiveState (c : Nat) : Nat := ekey (0x7810 + c) 0x03
/-- ACTIVE_DIGEST, 0x7810 + c.04 (R435). -/
def imageActiveDigest (c : Nat) : Nat := ekey (0x7810 + c) 0x04
/-- ACTIVATIONS, 0x7810 + c.05 (R435). -/
def imageActivations (c : Nat) : Nat := ekey (0x7810 + c) 0x05
/-- REFUSALS, 0x7810 + c.06 (R435). -/
def imageRefusals (c : Nat) : Nat := ekey (0x7810 + c) 0x06
/-- STATE, 0x7820 + k.01 (R436). -/
def coreState (k : Nat) : Nat := ekey (0x7820 + k) 0x01
/-- ROLE, 0x7820 + k.02 (R436). -/
def coreRole (k : Nat) : Nat := ekey (0x7820 + k) 0x02
/-- WATCHDOG_RESETS, 0x7820 + k.03 (R436). -/
def coreWatchdogResets (k : Nat) : Nat := ekey (0x7820 + k) 0x03
/-- GROUPS_BOUND, 0x7820 + k.04 (R436). -/
def coreGroupsBound (k : Nat) : Nat := ekey (0x7820 + k) 0x04
/-- LAST_RESET_TIME, 0x7820 + k.05 (R436). -/
def coreLastResetTime (k : Nat) : Nat := ekey (0x7820 + k) 0x05
/-- BUSY_CYCLES, 0x7820 + k.06 (R436). -/
def coreBusyCycles (k : Nat) : Nat := ekey (0x7820 + k) 0x06
/-- SLICES_IN_SERVICE, 0x7C00.01 (R132). -/
def dirSlicesInService : Nat := ekey 0x7C00 0x01
/-- SPARE_STATE, 0x7C00.02 (R132). -/
def dirSpareState : Nat := ekey 0x7C00 0x02
/-- SNOOP_DEADLINE, 0x7C00.03 (R132). -/
def dirSnoopDeadline : Nat := ekey 0x7C00 0x03
/-- RESERVE_LIMIT, 0x7C00.04 (R132). -/
def dirReserveLimit : Nat := ekey 0x7C00 0x04
/-- AGENT_PRESENT, 0x7C00.05 (R132). -/
def dirAgentPresent : Nat := ekey 0x7C00 0x05
/-- AGENT_SUSPECT, 0x7C00.06 (R132). -/
def dirAgentSuspect : Nat := ekey 0x7C00 0x06
/-- ENTRIES_USED, 0x7C00.07 (R132). -/
def dirEntriesUsed : Nat := ekey 0x7C00 0x07
/-- DIAG_LINE, 0x7C00.08 (R132). -/
def dirDiagLine : Nat := ekey 0x7C00 0x08
/-- DIAG_ENTRY, 0x7C00.09 (R132). -/
def dirDiagEntry : Nat := ekey 0x7C00 0x09
/-- HOST_AGENT, 0x7C01.01–.04 (R132). -/
def dirHostAgent (i : Nat) : Nat := ekey 0x7C01 (0x01 + i)
/-- UTXON_AGENT, 0x7C02.01–.18 (R132). -/
def dirUtxonAgent (i : Nat) : Nat := ekey 0x7C02 (0x01 + i)
/-- NC_CONVERT, 0x7C03.01–.1C (R132). -/
def dirNcConvert (i : Nat) : Nat := ekey 0x7C03 (0x01 + i)
/-- LOGICAL, 0x7C10 + q.01 (R134). -/
def sliceLogical (q : Nat) : Nat := ekey (0x7C10 + q) 0x01
/-- STATE, 0x7C10 + q.02 (R134). -/
def sliceState (q : Nat) : Nat := ekey (0x7C10 + q) 0x02
/-- ENTRIES_USED, 0x7C10 + q.03 (R134). -/
def sliceEntriesUsed (q : Nat) : Nat := ekey (0x7C10 + q) 0x03
/-- NAKS, 0x7C10 + q.04 (R134). -/
def sliceNaks (q : Nat) : Nat := ekey (0x7C10 + q) 0x04
/-- RESERVATIONS, 0x7C10 + q.05 (R134). -/
def sliceReservations (q : Nat) : Nat := ekey (0x7C10 + q) 0x05
/-- EVICTIONS, 0x7C10 + q.06 (R134). -/
def sliceEvictions (q : Nat) : Nat := ekey (0x7C10 + q) 0x06
/-- LATE_RESPONSES, 0x7C10 + q.07 (R134). -/
def sliceLateResponses (q : Nat) : Nat := ekey (0x7C10 + q) 0x07
/-- STRAY_WB, 0x7C10 + q.08 (R134). -/
def sliceStrayWb (q : Nat) : Nat := ekey (0x7C10 + q) 0x08
/-- ECC_CORRECTED, 0x7C10 + q.09 (R134). -/
def sliceEccCorrected (q : Nat) : Nat := ekey (0x7C10 + q) 0x09
/-- ECC_UNCORRECTED, 0x7C10 + q.0A (R134). -/
def sliceEccUncorrected (q : Nat) : Nat := ekey (0x7C10 + q) 0x0A
/-- PROTOCOL_ERRORS, 0x7C10 + q.0B (R134). -/
def sliceProtocolErrors (q : Nat) : Nat := ekey (0x7C10 + q) 0x0B
/-- HOLD_PEAK, 0x7C10 + q.0C (R134). -/
def sliceHoldPeak (q : Nat) : Nat := ekey (0x7C10 + q) 0x0C
/-- SNOOPS_SENT, 0x7C40 + a.01 (R135). -/
def agentSnoopsSent (a : Nat) : Nat := ekey (0x7C40 + a) 0x01
/-- NOT_PRESENTS, 0x7C40 + a.02 (R135). -/
def agentNotPresents (a : Nat) : Nat := ekey (0x7C40 + a) 0x02
/-- TIMEOUTS, 0x7C40 + a.03 (R135). -/
def agentTimeouts (a : Nat) : Nat := ekey (0x7C40 + a) 0x03
/-- PROTOCOL_ERRORS, 0x7C40 + a.04 (R135). -/
def agentProtocolErrors (a : Nat) : Nat := ekey (0x7C40 + a) 0x04
/-- PORTS, 0x7C40 + a.05 (R135). -/
def agentPorts (a : Nat) : Nat := ekey (0x7C40 + a) 0x05
/-- COUNTER_WIDTH, 0x8000.01 (R534). -/
def cntCounterWidth : Nat := ekey 0x8000 0x01
/-- CLEAR_RANGE, 0x8000.02 (R534). -/
def cntClearRange : Nat := ekey 0x8000 0x02
/-- CLEAR_TIME, 0x8000.03 (R534). -/
def cntClearTime : Nat := ekey 0x8000 0x03
/-- LOG, 0x8100.01 (R534). -/
def logLog : Nat := ekey 0x8100 0x01
/-- LOG_NEXT_SEQ, 0x8100.02 (R534). -/
def logLogNextSeq : Nat := ekey 0x8100 0x02
/-- LOG_ACK, 0x8100.03 (R534). -/
def logLogAck : Nat := ekey 0x8100 0x03
/-- LOG_OVERWRITES, 0x8100.04 (R534). -/
def logLogOverwrites : Nat := ekey 0x8100 0x04
/-- LANTERN_ENABLE, 0x8200.01 (R535). -/
def traceLanternEnable : Nat := ekey 0x8200 0x01
/-- TRACE_TYPES, 0x8200.02 (R535). -/
def traceTraceTypes : Nat := ekey 0x8200 0x02
/-- TRACE_PITCH, 0x8200.03 (R535). -/
def traceTracePitch : Nat := ekey 0x8200 0x03
/-- SAMPLE_LIST, 0x8200.04 (R535). -/
def traceSampleList : Nat := ekey 0x8200 0x04
/-- SAMPLE_TICKS, 0x8200.05 (R535). -/
def traceSampleTicks : Nat := ekey 0x8200 0x05
/-- TRACE_DROPS, 0x8200.06 (R535). -/
def traceTraceDrops : Nat := ekey 0x8200 0x06
/-- SUPERFRAMES, 0x8200.07 (R535). -/
def traceSuperframes : Nat := ekey 0x8200 0x07
/-- UNMAPPED_RANGE, 0x8F00.01 (R61). -/
def violUnmappedRange : Nat := ekey 0x8F00 0x01
/-- NO_REGION, 0x8F00.02 (R61). -/
def violNoRegion : Nat := ekey 0x8F00 0x02
/-- NO_PITCH, 0x8F00.03 (R61). -/
def violNoPitch : Nat := ekey 0x8F00 0x03
/-- BUDGET_CLASS, 0x8F00.04 (R61). -/
def violBudgetClass : Nat := ekey 0x8F00 0x04
/-- ENGINE_RIGHTS, 0x8F00.05 (R61). -/
def violEngineRights : Nat := ekey 0x8F00 0x05
/-- UNROUTABLE, 0x8F00.06 (R61). -/
def violUnroutable : Nat := ekey 0x8F00 0x06
/-- STILE_RANGE, 0x8F00.07 (R163). -/
def violStileRange : Nat := ekey 0x8F00 0x07
/-- DICT_DENIED, 0x8F00.08 (R466). -/
def violDictDenied : Nat := ekey 0x8F00 0x08
/-- DICT_SLOT_ROLE, 0x8F00.09 (R466). -/
def violDictSlotRole : Nat := ekey 0x8F00 0x09
/-- FENCED_SOURCE, 0x8F00.0A (R515). -/
def violFencedSource : Nat := ekey 0x8F00 0x0A
/-- FENCE, 0x9000.01 (R514). -/
def procFence : Nat := ekey 0x9000 0x01
/-- UNFENCE, 0x9000.02 (R514). -/
def procUnfence : Nat := ekey 0x9000 0x02
/-- PROC_STATE, 0x9000.03 (R514). -/
def procProcState : Nat := ekey 0x9000 0x03
/-- PROC_UNIT, 0x9000.04 (R514). -/
def procProcUnit : Nat := ekey 0x9000 0x04
/-- FENCE_DRAIN_LIMIT, 0x9000.05 (R514). -/
def procFenceDrainLimit : Nat := ekey 0x9000 0x05
/-- PROCEDURES, 0x9000.06 (R514). -/
def procProcedures : Nat := ekey 0x9000 0x06
/-- RECAL, 0x9000.07 (R514). -/
def procRecal : Nat := ekey 0x9000 0x07
/-- RECAL_ACTIVE, 0x9000.08 (R514). -/
def procRecalActive : Nat := ekey 0x9000 0x08
/-- RECAL_PASSES, 0x9000.09 (R514). -/
def procRecalPasses : Nat := ekey 0x9000 0x09
/-- RECAL_HOURS, 0x9000.0A (R514). -/
def procRecalHours : Nat := ekey 0x9000 0x0A
/-- SWARD_LINES_LOST, 0x9000.0B (R514). -/
def procSwardLinesLost : Nat := ekey 0x9000 0x0B
/-- UNSERVED_BIVOUACS, 0x9000.0C (R514). -/
def procUnservedBivouacs : Nat := ekey 0x9000 0x0C
/-- UNSERVED_MAP, 0x9000.0D (R514). -/
def procUnservedMap : Nat := ekey 0x9000 0x0D
/-- SLICES_NC, 0x9000.0E (R514). -/
def procSlicesNc : Nat := ekey 0x9000 0x0E
/-- AGENT_FENCE, 0x9010.01 (R515). -/
def fenceAgentFence : Nat := ekey 0x9010 0x01
/-- AGENT_FENCE_DONE, 0x9010.02 (R515). -/
def fenceAgentFenceDone : Nat := ekey 0x9010 0x02
/-- PEER_FENCE, 0x9010.03 (R515). -/
def fencePeerFence : Nat := ekey 0x9010 0x03
/-- AUDIT_KIND, 0x9100.01 (R516). -/
def auditAuditKind : Nat := ekey 0x9100 0x01
/-- AUDIT_UNIT, 0x9100.02 (R516). -/
def auditAuditUnit : Nat := ekey 0x9100 0x02
/-- AUDIT_SNAPSHOT, 0x9100.03 (R516). -/
def auditAuditSnapshot : Nat := ekey 0x9100 0x03
/-- AUDIT_RUNS, 0x9100.04 (R516). -/
def auditAuditRuns : Nat := ekey 0x9100 0x04
/-- AUDIT_FAILS, 0x9100.05 (R516). -/
def auditAuditFails : Nat := ekey 0x9100 0x05
/-- STILE_LOCKS, 0x9400.01 (R163). -/
def stileStileLocks : Nat := ekey 0x9400 0x01
/-- DEFAULT_LEASE, 0x9400.02 (R163). -/
def stileDefaultLease : Nat := ekey 0x9400 0x02
/-- LEASE_MAX, 0x9400.03 (R163). -/
def stileLeaseMax : Nat := ekey 0x9400 0x03
/-- HELD, 0x9400.04 (R163). -/
def stileHeld : Nat := ekey 0x9400 0x04
/-- ACQUIRES, 0x9400.05 (R163). -/
def stileAcquires : Nat := ekey 0x9400 0x05
/-- BUSY_RESULTS, 0x9400.06 (R163). -/
def stileBusyResults : Nat := ekey 0x9400 0x06
/-- EXPIRIES, 0x9400.07 (R163). -/
def stileExpiries : Nat := ekey 0x9400 0x07
/-- RESET_BREAKS, 0x9400.08 (R163). -/
def stileResetBreaks : Nat := ekey 0x9400 0x08
/-- STILE_ERRORS, 0x9400.09 (R163). -/
def stileStileErrors : Nat := ekey 0x9400 0x09
/-- DIAG_LOCK, 0x9400.0A (R163). -/
def stileDiagLock : Nat := ekey 0x9400 0x0A
/-- DIAG_STATE, 0x9400.0B (R163). -/
def stileDiagState : Nat := ekey 0x9400 0x0B
/-- BREAK, 0x9400.0C (R163). -/
def stileBreak : Nat := ekey 0x9400 0x0C
/-- STILE_SETTLE, 0x9400.0D (R163). -/
def stileStileSettle : Nat := ekey 0x9400 0x0D
/-- STOP_MODE, 0xA000.01 (R536). -/
def stopStopMode : Nat := ekey 0xA000 0x01
/-- STOP_TRIGGERS, 0xA000.02 (R536). -/
def stopStopTriggers : Nat := ekey 0xA000 0x02
/-- STOP_SEVERITY, 0xA000.03 (R536). -/
def stopStopSeverity : Nat := ekey 0xA000 0x03
/-- STOP_MATCH, 0xA000.04 (R536). -/
def stopStopMatch : Nat := ekey 0xA000 0x04
/-- STOP_NOW, 0xA000.05 (R536). -/
def stopStopNow : Nat := ekey 0xA000 0x05
/-- STOP_STATE, 0xA000.06 (R536). -/
def stopStopState : Nat := ekey 0xA000 0x06
/-- STOP_TIME, 0xA000.07 (R536). -/
def stopStopTime : Nat := ekey 0xA000 0x07
/-- STOP_CAUSE, 0xA000.08 (R536). -/
def stopStopCause : Nat := ekey 0xA000 0x08
/-- STOP_ORIGIN, 0xA000.09 (R536). -/
def stopStopOrigin : Nat := ekey 0xA000 0x09
/-- STOP_CLEAR, 0xA000.0A (R536). -/
def stopStopClear : Nat := ekey 0xA000 0x0A
/-- RESUME, 0xA000.0B (R536). -/
def stopResume : Nat := ekey 0xA000 0x0B
/-- STOPS, 0xA000.0C (R536). -/
def stopStops : Nat := ekey 0xA000 0x0C
/-- SCAN_UNIT, 0xA010.01 (R536). -/
def scanScanUnit : Nat := ekey 0xA010 0x01
/-- SCAN_PART, 0xA010.02 (R536). -/
def scanScanPart : Nat := ekey 0xA010 0x02
/-- SCAN_DATA, 0xA010.03 (R536). -/
def scanScanData : Nat := ekey 0xA010 0x03

end E

end Sys2Proof.Machine
end

