-- ==== Sys2Proof/Machine/Sparse.lean ====
section
/-! DEFINITION. Sparse tables: association lists in one canonical form (keys strictly rising, no entry
equal to what an unlisted key reads as).  Stacked memory, Sward, registers and every table of the device
use them. -/

namespace Sys2Proof.Machine

/-- A sparse table from numbers to values: a list of pairs, keys strictly rising. -/
abbrev SMap (α : Type) := List (Nat × α)

/-- The value at `k`; an unlisted key reads as `f k`. -/
def SMap.get {α : Type} (f : Nat → α) : SMap α → Nat → α
  | [], k => f k
  | (k', v) :: m, k => if k = k' then v else SMap.get f m k

/-- The table without the entries at `k`. -/
def SMap.del {α : Type} (m : SMap α) (k : Nat) : SMap α := m.filter fun e => e.1 != k

/-- The table with an entry at `k` before the entries of higher keys. -/
def SMap.put {α : Type} : SMap α → Nat → α → SMap α
  | [], k, v => [(k, v)]
  | (k', v') :: m, k, v => if k < k' then (k, v) :: (k', v') :: m else (k', v') :: SMap.put m k v

/-- Write `v` at `k`; writing what an unlisted key reads as removes the entry. -/
def SMap.set {α : Type} [DecidableEq α] (f : Nat → α) (m : SMap α) (k : Nat) (v : α) : SMap α :=
  if v = f k then SMap.del m k else SMap.put (SMap.del m k) k v

/-- Every key of the table is above `k`. -/
def SMap.above {α : Type} (k : Nat) (m : SMap α) : Bool := m.all fun p => k < p.1

/-- The canonical form: keys strictly rising and no entry equal to what an unlisted key reads as. -/
def SMap.wf {α : Type} [DecidableEq α] (f : Nat → α) : SMap α → Bool
  | [] => true
  | (k, v) :: m => decide (v ≠ f k) && SMap.above k m && SMap.wf f m

/-- Keep the entries whose key passes `p`. -/
def SMap.keep {α : Type} (p : Nat → Bool) (m : SMap α) : SMap α := m.filter fun e => p e.1

/-- The table with `g` applied to the value at `k`. -/
def SMap.upd {α : Type} [DecidableEq α] (f : Nat → α) (m : SMap α) (k : Nat) (g : α → α) : SMap α :=
  SMap.set f m k (g (SMap.get f m k))

end Sys2Proof.Machine
end

