-- ==== Sys2Proof/Machine/StateBase.lean ====
section
/-! DEFINITION. Pieces of the state: power and reset, the dictionary server, the fault log, trace, global
stop and the test access port. -/

namespace Sys2Proof.Machine

/-- Where the device stands between power and service (R471 to R475). -/
inductive Phase where
  /-- No power (R474). -/
  | off
  /-- Held in reset with every output inert (R471, R472). -/
  | held
  /-- The warm-entry sequence of R475 runs. -/
  | warmEntry
  /-- The internal reset has ended. -/
  | running
  deriving DecidableEq, Repr

/-- Power, reset and the reasons that hold the device in reset (R470 to R478, R543, R547). -/
structure PowerSt where
  phase : Phase
  /-- RESET_N after its glitch filter: true is high. -/
  resetN : Bool
  /-- The cause that LAST_RESET will record (R490). -/
  cause : Nat
  /-- The Campfire count when the clock was lost, the TIME of the CLOCK_LOSS entry (R470, R522). -/
  lossAt : Nat
  /-- Rails outside their range, bit i rail i of R541. -/
  railsOut : Nat
  /-- A rail fault keeps the device in reset until RESET_N has been asserted and released (R543). -/
  railHold : Bool
  /-- A thermal trip keeps the device in reset (R547). -/
  tripHold : Bool
  /-- A sensor read THROTTLE_C or above at the last evaluation (R547). -/
  sensorHot : Bool
  /-- What the reset in progress is: warm, with the stacks that entered self-refresh kept (R474, R475). -/
  warm : Bool
  /-- Stacks whose contents the reset in progress keeps. -/
  kept : Nat
  /-- THERMTRIP_N: true is high (R547). -/
  thermTripN : Bool
  /-- Ember has run its ROM since the reset and serves (R480 step 4). -/
  emberUp : Bool
  /-- CCLK_NOW of the last change of ISSUE_DUTY (R546). -/
  dutyChange : Nat
  /-- Stacks whose trained settings are kept for verification (R476). -/
  trained : Nat
  /-- Stacks whose STACK_ENABLE bit is set and whose calibration has not begun (R484). -/
  calQueue : List Nat
  /-- Stacks whose refresh management command is owed or issued: count of commands issued (R165). -/
  refreshMgmt : Nat
  /-- All-bank refreshes issued (R166). -/
  refreshes : Nat
  deriving DecidableEq, Repr

/-- An open DOMAIN write (R453). -/
structure Transfer where
  path : Path
  entry : Entry
  data : List Byte
  deriving DecidableEq, Repr

/-- A snapshot of a DOMAIN read (R454). -/
structure Snapshot where
  path : Path
  entry : Entry
  data : List Byte
  deriving DecidableEq, Repr

/-- The first write of an entry that must be written twice (R465, R477). -/
structure Armed where
  role : Role
  key : Nat
  value : Nat
  /-- CCLK_NOW of the write. -/
  time : Nat
  deriving DecidableEq, Repr

/-- Control and status of a dictionary slot (R459). -/
structure Slot where
  doneSeq : Nat
  busy : Bool
  done : Bool
  deriving DecidableEq, Repr

/-- A management frame waiting for a transmit opportunity (R456). -/
structure MgmtOut where
  dst : Nat
  body : List Byte
  /-- The effects that wait for the response of their request begin when this frame has been sent (R464, R477). -/
  fires : Bool
  deriving DecidableEq, Repr

/-- The dictionary server (R444 to R461). -/
structure DictSt where
  /-- Last responses by source address and SEQ, most recently used first (R457). -/
  replies : List ((Nat × Nat) × List Byte)
  transfers : List Transfer
  snapshots : List Snapshot
  armed : List Armed
  slots : SMap Slot
  /-- The SRAM of the 64 slots, by byte (R458). -/
  sram : SMap Byte
  txq : List MgmtOut
  /-- Dictionary requests and mailbox commands that arrived during a MGMT takeover, oldest first (R414, R444). -/
  held : List Instr
  /-- MAC_ADDRESS waits for the response to its request (R464). -/
  macPending : Option Nat
  /-- A second RESET_REQUEST waits for its response: 1 warm, 2 cold (R477). -/
  resetPending : Option Nat
  deriving DecidableEq, Repr

/-- An event of the fault log before it is written (R520, R522). -/
structure LogEvent where
  time : Nat
  code : Nat
  severity : Nat
  pitch : Nat
  unit : Nat
  detail : Nat
  deriving DecidableEq, Repr

/-- The fault log (R520): queued events and the ring, whose entry at slot SEQ mod 1,024 is its four words. -/
structure LogSt where
  queue : List LogEvent
  ring : SMap (List Word)
  deriving DecidableEq, Repr

/-- A trace record: its four words (R525). -/
abbrev TraceRec := List Word

/-- The Lantern port (R523 to R526). -/
structure TraceSt where
  buffer : List TraceRec
  /-- DROPPED of the next header. -/
  dropped : Nat
  /-- CCLK_NOW of the last CCLK in which a record was dropped, plus one. -/
  dropAt : Nat
  /-- SUPERFRAME of the next header. -/
  superframe : Nat
  /-- The SAMPLE_LIST block (R535). -/
  samples : List Byte
  deriving DecidableEq, Repr

/-- The global stop (R528 to R531). -/
structure StopSt where
  latched : Bool
  /-- Filtered STOP_IN: true is high. -/
  stopIn : Bool
  /-- Units of R530 are halted. -/
  halted : Bool
  /-- Trace generation is frozen. -/
  frozen : Bool
  deriving DecidableEq, Repr

/-- The instructions of the test access port (R533); any other acts as BYPASS. -/
inductive JtagIr where
  | bypass
  | idcode
  | samplePreload
  | extest
  | highz
  | clamp
  | stopReq
  deriving DecidableEq, Repr

/-- The test access port (R533): the selected instruction and the pins it drives. -/
structure JtagSt where
  ir : JtagIr
  /-- The boundary register. -/
  boundary : List Bool
  /-- EXTEST or CLAMP drives the pins from the boundary register. -/
  driven : Bool
  /-- HIGHZ holds the pins in high impedance. -/
  highZ : Bool
  deriving DecidableEq, Repr

/-- Time: CCLK since the end of the internal reset is CCLK_NOW; the Campfire count and its control
(R254 to R262). -/
structure CampSt where
  cclk : Nat
  count : Nat
  /-- Which half of a tick has passed: a tick is two CCLK (R469). -/
  half : Bool
  /-- A correction waiting: −1 holds the count for a tick, +1 adds one (R259). -/
  correction : Int
  /-- Ticks for which the count is still held (R258). -/
  holdTicks : Nat
  /-- The offset of a peer's count taken by the exchange of R258. -/
  offset : Option Int
  /-- The count has been set at a marker and good markers are counted (R258). -/
  countSet : Bool
  good : Nat
  /-- The master start of R260 waits for its exchanges; the greatest offset so far. -/
  starting : Bool
  best : Int
  /-- Count of the last drive of the net. -/
  lastMarker : Nat
  /-- CAMP_SYNC is driven by this device (R255, R473). -/
  driving : Bool
  /-- A SWITCH_AT has been written and not reached (R260). -/
  switching : Bool
  /-- TIME exchanges in progress: port and the count sent (R258). -/
  exchanges : List (Nat × Nat)
  deriving DecidableEq, Repr

end Sys2Proof.Machine
end

