-- ==== Sys2Proof/Machine/StateBiv.lean ====
section
/-! DEFINITION. Pieces of the state: Bivouacs, their Pegs, Ridgepole, access engines and write-back caches. -/

namespace Sys2Proof.Machine

/-- A line of a Bivouac's write-back cache (R140, R225), tagged by pool line and pitch. -/
structure WbLine where
  /-- Pool address of the line. -/
  addr : Nat
  pitch : Nat
  /-- Bytes that the cache holds, read or written. -/
  held : Mask
  dirty : Mask
  data : Line
  /-- The descriptor whose reads the clean bytes serve. -/
  reader : Option DescId
  /-- BUDGET_CLASS of the last descriptor that wrote the line: it is charged for the eviction. -/
  bclass : Nat
  deriving DecidableEq, Repr

/-- A Peg while a kernel runs (R201 to R204). -/
structure Peg where
  pc : Nat
  /-- Integer registers by number; x0 lists nothing. -/
  x : SMap Nat := []
  /-- FP registers, 32 bits each. -/
  f : SMap Nat := []
  /-- Vector registers, 512 bits each. -/
  v : SMap Nat := []
  frm : Nat := 0
  fflags : Nat := 0
  vtype : Nat := 2 ^ 63
  vl : Nat := 0
  vstart : Nat := 0
  vxrm : Nat := 0
  vxsat : Nat := 0
  /-- Instructions retired since kernel entry (R204). -/
  instret : Nat := 0
  /-- The line of an LR that still holds its reservation (R150). -/
  resv : Option Nat := none
  /-- PEG.EXIT has been executed, with this value. -/
  exited : Option Nat := none
  /-- A STG.WAIT for this chunk waits: each CCLK counts in OPERAND_STALL_CYCLES (R223). -/
  waiting : Option Nat := none
  /-- A read of a staged copy waits for its fill mark: each CCLK counts in STAGE_STALL_CYCLES (R191). -/
  stageWait : Bool := false
  deriving DecidableEq, Repr

/-- What a Ridgepole queue entry does (R208); `a` is the accumulator set. -/
inductive RpOp where
  | cfg
  | mma (a offA offB : Nat)
  | zero (a : Nat)
  | loadc (a off : Nat)
  | store (a off : Nat)
  deriving DecidableEq, Repr

/-- A Ridgepole queue entry with the configuration it uses (R210). -/
structure RpItem where
  op : RpOp
  cfg : Nat
  /-- The Peg that issued it. -/
  peg : Nat
  deriving DecidableEq, Repr

/-- A chunk buffer of the staging area (R206, R221): given to a chunk of a window descriptor. -/
structure ChunkBuf where
  buffer : Nat
  desc : DescId
  part : Nat
  chunk : Nat
  present : Bool
  deriving DecidableEq, Repr

/-- A Bivouac, held under its logical number: what stands behind that number moves with it (R495). -/
structure Biv where
  wb : List WbLine := []
  /-- The kernel that runs: its descriptor, partition, and CCLK_NOW at entry. -/
  kernel : Option (DescId × Nat × Nat) := none
  pegs : List Peg := []
  /-- Lines that the shared instruction cache holds, by virtual line address; none is poison. -/
  code : List (Nat × Option Line) := []
  /-- Configuration most recently queued. -/
  rpCfg : Nat := 0
  /-- Entries in queue order (R210); an entry keeps its place until it ends. -/
  rpQueue : List RpItem := []
  /-- The first entry of the queue is being performed. -/
  rpRun : Bool := false
  /-- BUSY of R211. -/
  rpBusy : Bool := false
  /-- The entry being performed waits for a staged copy's fill mark: each CCLK counts in STAGE_STALL_CYCLES (R191). -/
  rpWait : Bool := false
  /-- Accumulators: FP32 of C[a]ij under 4,096 a + 64 i + j. -/
  acc : SMap Nat := []
  poison0 : Bool := false
  poison1 : Bool := false
  bufs : List ChunkBuf := []
  /-- Next chunk to be staged of each window descriptor. -/
  staged : List (DescId × Nat × Nat) := []
  /-- IMAGE_VERSION of the runtime it runs (R414). -/
  runtime : Nat := 0
  deriving DecidableEq, Repr

/-- Bivouacs by logical number. -/
structure BivSt where
  bivs : SMap Biv
  deriving DecidableEq, Repr

end Sys2Proof.Machine
end

