-- ==== Sys2Proof/Machine/StateDir.lean ====
section
/-! DEFINITION. Pieces of the state: requests on their way, the Flysheet directory, the stack controllers, the
meters and the Stile locks. -/

namespace Sys2Proof.Machine

/-- An outgoing coherence message (R111): the message and its AGENT field. -/
structure OutMsg where
  msg : WireMsg
  agent : Nat := 0
  deriving DecidableEq, Repr

/-- The colour of a request at admission (R392, R394). -/
inductive Colour where
  | green
  | yellow
  | released
  deriving DecidableEq, Repr

/-- A request on its way through the device: from admission to its decision (R34). -/
structure Work where
  /-- Opcode of R112, after the conversion of R101. -/
  op : Nat
  req : Req
  /-- Source number (R108). -/
  src : Nat
  /-- Local line number: local offset ÷ 64. -/
  line : Nat
  /-- PRIORITY after admission, which orders it at the controller (R387, R391). -/
  prio : Nat
  /-- Lane queue it enters (R107, R391). -/
  laneQ : Nat
  colour : Colour
  /-- It may draw its pitch's RESERVE (R384). -/
  reserve : Bool
  /-- It may leave a copy with its source: it is not cache-less (R101). -/
  caching : Bool
  /-- Arrival number, which gives its age. -/
  age : Nat
  deriving DecidableEq, Repr

/-- The state of a directory entry (R109, R110); `i` is an entry that only carries a reservation (R122). -/
inductive LineState where
  | i
  | s
  | x
  | tShare
  | tInv
  | tCur
  | tEvict
  deriving DecidableEq, Repr

/-- A directory entry (R109), held under its line number. -/
structure DirEntry where
  sharers : Word
  state : LineState
  owner : Nat
  resv : Option Nat
  /-- The reservation has taken effect (R122). -/
  resvOn : Bool
  /-- When the line was last ordered, for the choice of R129. -/
  used : Nat
  deriving DecidableEq, Repr

/-- A transition whose snoops are outstanding (R116, R118): the request it serves, none for an eviction or a
recall. -/
structure Trans where
  line : Nat
  tag : Nat
  /-- Snoop opcode sent (R112). -/
  snoop : Nat
  work : Option Work
  /-- Agents whose answers are outstanding. -/
  waiting : List Nat
  /-- Modified data returned so far. -/
  data : Option Line
  /-- The owner kept a shared copy, or kept the line owned. -/
  keptS : Bool
  keptX : Bool
  /-- The data returned came with the copy kept owned and modified (RSP_KEEP_DATA). -/
  dirtyKept : Bool
  /-- The line's owner never answered: the line is poisoned (R126). -/
  poisoned : Bool
  /-- The deadline has passed once and the snoop was repeated (R126). -/
  repeated : Bool
  /-- The owner's answer is the one waited for (transitions from X). -/
  fromX : Bool
  deriving DecidableEq, Repr

/-- A starvation tracker entry (R121). -/
structure Tracker where
  slice : Nat
  src : Nat
  line : Nat
  count : Nat
  deriving DecidableEq, Repr

/-- The directory (R100 to R135). -/
structure DirSt where
  entries : SMap DirEntry
  /-- Requests in the input queues of the lanes, in arrival order (R107). -/
  queued : List Work
  /-- Ordered requests whose lookup is in progress, in the order of ordering (R106). -/
  lookups : List Work
  /-- The hold queues of the slices, oldest first (R119). -/
  hold : List Work
  trans : List Trans
  /-- Snoop tags whose transaction has ended and that are not yet free again (R128). -/
  cooling : List Nat
  trackers : List Tracker
  /-- Stores that were NAKed and have not been reissued, in their order: port, source, tag and RETRY_AFTER (R145). -/
  naked : List (Port × Nat × Nat × Nat)
  /-- Line and CCLK of the last orderings, by lane (R106). -/
  recent : List (Nat × Nat × Nat)
  /-- Next arrival number. -/
  nextAge : Nat
  /-- Entries allocated and freed since reset, by physical slice (R513). -/
  allocated : SMap Nat
  freed : SMap Nat
  /-- Ordered requests to the factored-view window, in order, that their Bracken will serve (R275). -/
  viewReads : List Work
  /-- Slices whose walk of R131 has begun, by physical number. -/
  recalling : List Nat
  /-- Agent fence walks in progress (R508). -/
  fenceWalks : List Nat
  deriving DecidableEq, Repr

/-- What a controller access does to its line (R382). -/
inductive AccKind where
  | read
  | write (mask : Mask) (data : Line)
  | atomic (op : Nat)
  | poison
  deriving DecidableEq, Repr

/-- How an access is answered (R112): the response opcode and the message it answers. -/
structure Reply where
  opcode : Nat
  port : Port
  tag : Nat
  agent : Nat
  prio : Nat
  colour : Colour
  deriving DecidableEq, Repr

/-- An access waiting at a stack controller (R387). -/
structure Access where
  id : Nat
  line : Nat
  kind : AccKind
  req : Req
  prio : Nat
  reserve : Bool
  /-- It never waits for a budget (R388). -/
  free : Bool
  /-- The DIRECTORY charge in place of a CLASS (R384). -/
  directory : Bool
  /-- CCLK_NOW of its arrival at the controller. -/
  arrived : Nat
  aged : Bool
  reply : Option Reply
  deriving DecidableEq, Repr

/-- The Trail of one stack in the present period (R381 to R390). -/
structure TrailStack where
  refresh : Nat := 0
  carried : Nat := 0
  reserve : Nat := 0
  cls : Nat := 0
  overrun : Nat := 0
  system : Nat := 0
  borrowed : Nat := 0
  /-- Slots that run past the boundary. -/
  carryOut : Nat := 0
  /-- Slots drawn this period, by class, by pitch and by system activity. -/
  usedClass : SMap Nat := []
  usedReserve : SMap Nat := []
  usedSys : SMap Nat := []
  /-- Period slots and refresh slots fixed at the last boundary. -/
  slots : Nat := 0
  /-- The terms of the last completed period: PERIOD_SLOTS, REFRESH, CARRIED, RESERVE, CLASS, OVERRUN,
  SYSTEM, BORROWED, IDLE (R513). -/
  book : List Nat := []
  deriving DecidableEq, Repr

/-- Stack controllers (R387 to R390). -/
structure TrailSt where
  queue : List Access
  nextId : Nat
  /-- Whole-line writes that a stripe's parity controller holds (R181): stripe, position and access. -/
  gather : List (Nat × Nat × Access)
  byStack : SMap TrailStack
  deriving DecidableEq, Repr

/-- A request in a meter's queue (R394): red, or coloured already and waiting behind an earlier store. -/
structure Metered where
  work : Work
  red : Bool
  deriving DecidableEq, Repr

/-- A meter of a pitch (R392): its parameters, its buckets in 1/1,024 B with the carried parts in 1/25 of
that, and its queue. -/
structure Meter where
  cir : Nat := 0
  pir : Nat := 0
  cbs : Nat := 0
  pbs : Nat := 0
  tc : Nat := 0
  tp : Nat := 0
  remC : Nat := 0
  remP : Nat := 0
  queue : List Metered := []
  deriving DecidableEq, Repr

/-- Admission (R391 to R396): the meters by 2 · pitch, plus 1 for BULK, and the requests that wait in the
receive buffers of their ports. -/
structure MeterSt where
  meters : SMap Meter
  waiting : List Work
  deriving DecidableEq, Repr

/-- A Stile lock (R154); a lock that settles is FREE with a LEASE_END (R162). -/
structure Lock where
  held : Bool := false
  broken : Bool := false
  pitch : Nat := 0
  source : Nat := 0
  tag : Nat := 0
  leaseEnd : Nat := 0
  generation : Nat := 0
  leaseTicks : Nat := 0
  deriving DecidableEq, Repr

/-- The Stile unit (R151): the locks and the totals of its book (R513). -/
structure StileSt where
  locks : SMap Lock
  /-- A lock that the table does not list is FREE with this BROKEN: a warm reset sets it for every lock (R158). -/
  dfltBroken : Bool
  acquired : Nat
  released : Nat
  expired : Nat
  broken : Nat
  deriving DecidableEq, Repr

end Sys2Proof.Machine
end

