-- ==== Sys2Proof/Machine/StateEngine.lean ====
section
/-! DEFINITION. Pieces of the state: factored views, embedding tables, search indices, collective groups and
collectives under way. -/

namespace Sys2Proof.Machine

/-- A view record (R296), held under its region index. -/
structure View where
  bracken : Nat := 0
  m : Nat := 0
  n : Nat := 0
  rank : Nat := 0
  ffmt : Nat := 0
  tfmt : Nat := 0
  sat : Bool := false
  uBase : Nat := 0
  vBase : Nat := 0
  /-- DAMAGE_CAUSE, DAMAGE_STREAM, DAMAGE_SEGMENT. -/
  cause : Nat := 0
  stream : Nat := 0
  segment : Nat := 0
  /-- In use; the default record is not a view. -/
  used : Bool := false
  deriving DecidableEq, Repr

/-- A segment that a Bracken buffers (R277): `isV` tells the V buffer from the U buffer. -/
structure Segment where
  bracken : Nat
  view : Nat
  isV : Bool
  seg : Nat
  bytes : List Byte
  deriving DecidableEq, Repr

/-- A table record (R297, R300, R319), held under its handle: body words 4 to 8, the owner, the own position in
the shard list, the shard list and the bound Clover. -/
structure Table where
  words : List Word := []
  owner : Nat := 0
  pos : Nat := 0
  shards : List Nat := []
  clover : Nat := 0
  used : Bool := false
  deriving DecidableEq, Repr

/-- An index record (R348), held under its handle. -/
structure Index where
  owner : Nat := 0
  damaged : Bool := false
  heather : Nat := 0
  /-- Word 6 of the create body. -/
  params : Nat := 0
  bucketBase : Nat := 0
  vecBase : Nat := 0
  capacity : Nat := 0
  ovfBuckets : Nat := 0
  /-- Lowest vector slot never used. -/
  fresh : Nat := 0
  /-- The free-slot ring: oldest place and count. -/
  ringHead : Nat := 0
  ringCount : Nat := 0
  /-- The overflow free list: pool address of its first bucket and count. -/
  ovfHead : Nat := 0
  ovfFree : Nat := 0
  committed : Nat := 0
  /-- END_TIME of each committed generation, newest first (R327). -/
  commits : List (Nat × Nat) := []
  /-- Overflow buckets of each chain, by primary bucket. -/
  chains : SMap Nat := []
  /-- Unlinked overflow buckets and the queries that hold each back (R334). -/
  unlinked : List (Nat × List DescId) := []
  used : Bool := false
  deriving DecidableEq, Repr

/-- A group record (R421, R422), held under its handle. -/
structure Group where
  groupId : Nat := 0
  pitch : Nat := 0
  members : List Nat := []
  scratch : Nat := 0
  scratchBytes : Nat := 0
  timeout : Nat := 0
  chunk : Nat := 0
  hash : Nat := 0
  core : Nat := 0
  /-- Collective sequence number: collectives started on the group. -/
  started : Nat := 0
  used : Bool := false
  deriving DecidableEq, Repr

/-- A flag line that has been received (R429): the sender's rank, the chunk and the step. -/
structure CollFlag where
  sender : Nat
  chunk : Nat
  step : Nat
  deriving DecidableEq, Repr

/-- A collective under way (R426 to R432). -/
structure CollRun where
  desc : DescId
  handle : Nat
  /-- The group's collective sequence number. -/
  seq : Nat
  chunk : Nat
  step : Nat
  /-- The step has started and not ended. -/
  started : Bool
  /-- Stamps no longer hold (R432). -/
  untimed : Bool
  flags : List CollFlag
  /-- RESULT of the completion: the columns zeroed by the member's own step 0 of COMP_ALL_REDUCE (R286, R430). -/
  result : Nat
  deriving DecidableEq, Repr

/-- Fixed-function engines and collectives. -/
structure EngineSt where
  views : SMap View
  segs : List Segment
  tables : SMap Table
  indices : SMap Index
  /-- Fixed snapshots of query descriptors: descriptor, handle and S (R328). -/
  snaps : List (DescId × Nat × Nat)
  /-- Generation taken by an index change that has not completed: descriptor, handle and GEN (R327). -/
  gens : List (DescId × Nat × Nat)
  groups : SMap Group
  colls : List CollRun
  deriving DecidableEq, Repr

end Sys2Proof.Machine
end

