-- ==== Sys2Proof/Machine/StateLink.lean ====
section
/-! DEFINITION. Pieces of the state: Utxon links, host ports, forwarded transactions, and what leaves the
device. -/

namespace Sys2Proof.Machine

/-- A sequenced frame (R354, R355): SEQ, VC, whether it is compact, and its messages. -/
structure Frame where
  seq : Nat
  vc : Nat
  compact : Bool
  msgs : List OutMsg
  deriving DecidableEq, Repr

/-- What has left the device's pins: the model's own record of its outputs. -/
inductive Out where
  /-- A sequenced frame on a Utxon port, first sent or replayed, with ACK_SEQ, CRED_VC and CRED_TOTAL (R354). -/
  | frame (port : Nat) (f : Frame) (ackSeq credVc credTotal : Nat)
  /-- An unsequenced frame: FTYPE 3 ACK, 4 REPLAY_REQ, 7 LANE with its body. -/
  | control (port ftype ackSeq credVc credTotal body : Nat)
  /-- A LINK_INFO frame (R357). -/
  | linkInfo (port : Nat) (words : List Word)
  /-- A TIME frame (R358): TX_COUNT, ECHO_TX, ECHO_RX, flags. -/
  | time (port tx echoTx echoRx flags : Nat)
  /-- A region message to a Fardan partner (R62): 0 destroy, 1 end of clearing. -/
  | region (port kind index originPos originIndex : Nat)
  /-- A CXL.mem message to a host (R114). -/
  | host (port : Nat) (m : OutMsg)
  /-- A BIConflictAck (R115). -/
  | biConflictAck (port line : Nat)
  /-- A CXL.io request of the device (R372): read or write of a host physical line. -/
  | cxlIo (port tag addr : Nat) (write : Bool) (data : Line)
  /-- A write or atomic of one of the device's own engines to another device (by pool address) or to host memory (by
  host physical address, with the port). -/
  | access (hostPort : Option Nat) (op addr : Nat) (mask : Mask) (data : Line)
  /-- A mailbox response: return code and output payload (R376). -/
  | mailbox (port code : Nat) (payload : List Byte)
  /-- A firmware mailbox message with its STATUS (R417). -/
  | firmware (port status : Nat) (m : FwMsg)
  /-- Step data of a collective for a member device (R429): with the pitch and class, into its scratch area or into its
  DST buffer, from a byte offset. -/
  | collData (device pitch cls : Nat) (dst : Bool) (offset : Nat) (data : List Byte)
  /-- The flag line of a collective for a member device (R429): the sender's rank and the line. -/
  | collFlag (device pitch cls rank : Nat) (line : Line)
  /-- A management frame (R456). -/
  | mgmt (dst : Nat) (body : List Byte)
  /-- The response to a request taken as a whole on its path. -/
  | dap (path : Path) (body : List Byte)
  /-- The block of an entry read by a command of its own, outside a request. -/
  | block (index sub : Nat) (data : List Byte)
  /-- A Lantern superframe: header words and records (R524). -/
  | superframe (header : List Word) (records : List (List Word))
  /-- A Campfire marker driven on CAMP_SYNC at a count (R255). -/
  | marker (count : Nat)
  /-- The value of TDO's instruction: IDCODE, or a captured boundary register (R533). -/
  | tdo (value : Nat)
  deriving DecidableEq, Repr

/-- The books of one VC of a Utxon port (R359 to R362, R513). -/
structure VcBook where
  partnerAdv : Nat := 0
  sendHeld : Nat := 0
  sent : Nat := 0
  returned : Nat := 0
  ownAdv : Nat := 0
  rxHeld : Nat := 0
  accepted : Nat := 0
  freed : Nat := 0
  reported : Nat := 0
  deriving DecidableEq, Repr

/-- The link layer of a Utxon port (R353 to R371). -/
structure Link where
  nextTx : Nat := 0
  nextRx : Nat := 0
  /-- Frames sent and not acknowledged, oldest first (R364). -/
  replay : List Frame := []
  /-- Messages waiting for credits or for the link, oldest first, with their VC. -/
  egress : List (Nat × OutMsg) := []
  req : VcBook := {}
  snp : VcBook := {}
  rsp : VcBook := {}
  /-- Frames accepted that no frame sent acknowledges (R364). -/
  unacked : Nat := 0
  /-- Consecutive replays without ACK_SEQ advancing (R365). -/
  replays : Nat := 0
  /-- Value of NEXT_RX for which a REPLAY_REQ was last sent, and CCLK_NOW then (R363). -/
  asked : Option (Nat × Nat) := none
  /-- VC whose count the next frame carries (R359). -/
  nextCred : Nat := 0
  /-- Link training has ended and LINK_INFO is being sent (R357). -/
  trained : Bool := false
  /-- The link state was kept: RESUME = 1 in the next LINK_INFO (R368). -/
  resume : Bool := false
  /-- Frames are held and the hold timer runs (R367). -/
  holding : Bool := false
  /-- The port has been UP since it last lost its held state. -/
  wasUp : Bool := false
  /-- Credit overruns, by CCLK_NOW, within the last 1 ms (R361). -/
  overruns : List Nat := []
  /-- Receive buffers occupied by requests that wait, in credits, by arrival number (R394). -/
  held : List (Nat × Nat) := []
  /-- Lanes found failed in the receive direction, and in the transmit direction (R351, R352). -/
  rxBad : Nat := 0
  txBad : Nat := 0
  /-- Physical lanes of the logical lanes in the transmit direction, as LANE_MAP gives them for the other. -/
  txMap : Nat := 0xFFFFFFFF76543210
  deriving DecidableEq, Repr

/-- A forwarded request that awaits its response (R32, R127): the port and tag used, the message as it came,
and whether the transaction is still open: an ended one stays while its message is held on its port (R371). -/
structure Fwd where
  port : Nat
  tag : Nat
  work : Work
  live : Bool
  deriving DecidableEq, Repr

/-- A CXL.io memory read of a migration that awaits its completion (R91): `dst` is the pool address of the line to which
its data go, `pitch` and `seq` name the fault entry. -/
structure IoReq where
  port : Nat
  tag : Nat
  addr : Nat
  dst : Nat
  pitch : Nat
  seq : Nat
  deriving DecidableEq, Repr

/-- An HDM decoder (R380). -/
structure Decoder where
  base : Nat := 0
  pitch : Nat := 0
  cls : Nat := 0
  prio : Nat := 0
  valid : Bool := false
  deriving DecidableEq, Repr

/-- A host port (R372 to R376). -/
structure HostPort where
  /-- Key set in use, with the sets that hold keys (R375). -/
  keySet : Nat := 0
  keys : Nat := 0
  /-- BIConflicts that wait for earlier responses (R115). -/
  conflicts : List Nat := []
  deriving DecidableEq, Repr

/-- Links and ports. -/
structure PortSt where
  links : SMap Link
  hosts : SMap HostPort
  decoders : SMap Decoder
  fwds : List Fwd
  /-- Tags of the device as requester not yet to be used again: port, tag, and CCLK_NOW from which the 8 µs run
  (R128, R371). -/
  coolTags : List (Nat × Nat × Nat)
  nextTag : Nat
  ios : List IoReq
  /-- Primary and ALT switch ports by board (R379). -/
  routes : SMap Nat
  /-- Requests held for a port in RETRAIN (R32, R369). -/
  retrainWait : List Work
  deriving DecidableEq, Repr

end Sys2Proof.Machine
end

