-- ==== Sys2Proof/Config.lean ====
section
/-! DEFINITION. What the manual leaves open: fixed words whose bytes it does not state, and the free values.
Every constant is opaque; nothing in the model can evaluate one. -/

namespace Sys2Proof.Config

/-- The 64 data bytes and 8 check bytes of NW_WORD (R175, R195): the manual fixes its distances only. -/
opaque nwWord : Nat

/-- The 64 data bytes and 8 check bytes of POISON_WORD (R175, R195). -/
opaque poisonWord : Nat

/-- A free line: the `n`-th time a line's value is not determined by the manual. -/
opaque freeLine : Nat → Line

/-- A free number of at most `w` bits: the `n`-th value that the manual leaves open. -/
opaque freeBits : (w : Nat) → Nat → Nat

/-- A free choice of the implementation. -/
opaque freeBool : Nat → Bool

/-- Free bytes of an output whose content the manual leaves open. -/
opaque freeBytes : Nat → Nat → List Byte

/-- Where in the scratch area the parameter block of a descriptor is copied: a line of the area, modulo 4,096
(R204). -/
opaque paramLine : Nat

/-- A free number for each element of a result: the draw and the place of the element. -/
opaque freeElem : Nat → Nat → Nat

/-- STEP_TICKS of COMP_ALL_REDUCE, whose body holds none (R430). -/
opaque compStepTicks : Nat

end Sys2Proof.Config
end

