-- ==== Sys2Proof/Machine/Rs.lean ====
section
/-! DEFINITION. The Reed–Solomon (72,64) codeword over GF(2^8) and its decoder (R171, R172).
A stored word is a number of 72 bytes: data bytes 0 to 63, then check bytes 0 to 7 (R195). -/

namespace Sys2Proof.Machine

/-- Multiplication by the root α of x^8 + x^4 + x^3 + x^2 + 1 (R171). -/
def gfDouble (a : Nat) : Nat := if 0x80 ≤ a then (2 * a) ^^^ 0x11D else 2 * a

/-- The product in GF(2^8). -/
def gfMul (a b : Nat) : Nat :=
  ((List.range 8).foldl (fun (acc : Nat × Nat) i =>
    (if b.testBit i then acc.1 ^^^ acc.2 else acc.1, gfDouble acc.2)) (0, a)).1

/-- α to the power `n`. -/
def gfExp (n : Nat) : Nat := (List.range (n % 255)).foldl (fun a _ => gfDouble a) 1

/-- The inverse in GF(2^8): the 254th power; 0 gives 0. -/
def gfInv (a : Nat) : Nat :=
  let a2 := gfMul a a
  let a3 := gfMul a2 a
  let a6 := gfMul a3 a3
  let a12 := gfMul a6 a6
  let a15 := gfMul a12 a3
  let a30 := gfMul a15 a15
  let a60 := gfMul a30 a30
  let a120 := gfMul a60 a60
  let a126 := gfMul a120 a6
  let a127 := gfMul a126 a
  gfMul a127 a127

/-- Byte `p` of a stored word in the layout of R195. -/
def wordByte (w p : Nat) : Nat := (w >>> (8 * p)) % 256

/-- The byte of a stored word that is the coefficient of x^i: check byte i for i < 8, data byte i − 8
from there on (R171). -/
def coefByte (w i : Nat) : Nat := if i < 8 then wordByte w (64 + i) else wordByte w (i - 8)

/-- The word whose only non-zero byte is the coefficient of x^i. -/
def coefWord (i v : Nat) : Nat := if i < 8 then v <<< (8 * (64 + i)) else v <<< (8 * (i - 8))

/-- Syndrome j: the value of the word's polynomial at α^j. -/
def syndrome (w j : Nat) : Nat :=
  let x := gfExp j
  (List.range 72).foldl (fun acc n => gfMul acc x ^^^ coefByte w (71 - n)) 0

/-- The eight syndromes. -/
def syndromes (w : Nat) : List Nat := (List.range 8).map (syndrome w)

/-- The generator g(x) = (x − α^0) … (x − α^7), lowest coefficient first (R171). -/
def rsGenerator : List Nat :=
  (List.range 8).foldl (fun g j =>
    let x := gfExp j
    List.zipWith (fun a b => a ^^^ b) (0 :: g) ((g.map (gfMul x)) ++ [0])) [1]

/-- The check bytes of a line: the remainder of data(x) · x^8 by g(x), lowest coefficient first. -/
def rsCheck (data : Nat) : List Nat :=
  (List.range 64).foldl (fun (r : List Nat) n =>
    let top := wordByte data (63 - n) ^^^ r.getD 7 0
    List.zipWith (fun a g => a ^^^ gfMul top g) (0 :: r.take 7) (rsGenerator.take 8))
    (List.replicate 8 0)

/-- The stored word of a line (R171). -/
def rsEncode (data : Line) : Nat :=
  data.toNat + ((rsCheck data.toNat).zipIdx.foldl (fun acc p => acc + (p.1 <<< (8 * (64 + p.2)))) 0)

/-- The number of bytes in which two words differ. -/
def byteDistance (a b : Nat) : Nat :=
  ((List.range 72).filter fun p => wordByte a p != wordByte b p).length

/-- The number of non-zero bytes of an error pattern. -/
def errWeight (e : Nat) : Nat := byteDistance e 0

/-- The value of a polynomial, lowest coefficient first. -/
def polyEval (p : List Nat) (x : Nat) : Nat := p.foldr (fun c acc => gfMul acc x ^^^ c) 0

/-- The error locator by the Berlekamp–Massey recursion: (Λ, B, L, m, b) after each syndrome. -/
def bmStep (syn : List Nat) (st : List Nat × List Nat × Nat × Nat × Nat) (n : Nat) :
    List Nat × List Nat × Nat × Nat × Nat :=
  let (lam, b, l, m, bd) := st
  let d := (List.range (l + 1)).foldl (fun acc i => acc ^^^ gfMul (lam.getD i 0) (syn.getD (n - i) 0)) 0
  if d = 0 then (lam, b, l, m + 1, bd)
  else
    let c := gfMul d (gfInv bd)
    let shifted := List.replicate m 0 ++ b.map (gfMul c)
    let len := max lam.length shifted.length
    let lam' := (List.range len).map fun i => lam.getD i 0 ^^^ shifted.getD i 0
    if 2 * l ≤ n then (lam', lam, n + 1 - l, 1, d) else (lam', b, l, m + 1, bd)

/-- The error pattern of weight at most `t` whose syndromes are those of `w`, where there is one. -/
def rsErrors (t w : Nat) : Option Nat :=
  let syn := syndromes w
  if syn.all (· == 0) then some 0
  else
    let (lam, _, l, _, _) := (List.range 8).foldl (bmStep syn) ([1], [1], 0, 1, 1)
    if t < l then none
    else
      let places := (List.range 72).filter fun i => polyEval lam (gfExp (255 - i)) == 0
      if places.length ≠ l then none
      else
        let omega := (List.range 8).map fun n =>
          (List.range (n + 1)).foldl (fun acc i => acc ^^^ gfMul (lam.getD i 0) (syn.getD (n - i) 0)) 0
        let deriv (x : Nat) := (List.range lam.length).foldl (fun acc i =>
          if i % 2 = 1 then acc ^^^ gfMul (lam.getD i 0) ((List.range (i - 1)).foldl (fun a _ => gfMul a x) 1)
          else acc) 0
        let e := places.foldl (fun acc i =>
          let xi := gfExp (255 - i)
          let v := gfMul (gfExp i) (gfMul (polyEval omega xi) (gfInv (deriv xi)))
          acc ^^^ coefWord i v) 0
        if syndromes e = syn then some e else none

/-- How many bad bytes each ECC_MODE corrects (R172). -/
def eccRadius (mode : Nat) : Nat := if mode = 0 then 4 else if mode = 1 then 2 else 0

/-- What a slot holds: the never-written word, the poisoned word, or the codeword of a line (R175, R176). -/
inductive SlotKind where
  | neverWritten
  | poisoned
  | codeword
  deriving DecidableEq, Repr

/-- What the decoder makes of a stored word (R172, R176). -/
inductive WordRead where
  | good (data : Line)
  | corrected (data : Line)
  | neverWritten
  | poisoned
  | uncorrectable
  deriving DecidableEq, Repr

/-- The word that a slot stores before errors. -/
def slotWord (kind : SlotKind) (data : Line) : Nat :=
  match kind with
  | .neverWritten => Config.nwWord
  | .poisoned => Config.poisonWord
  | .codeword => rsEncode data

/-- The data bytes of a stored word. -/
def wordData (w : Nat) : Line := BitVec.ofNat 512 w

/-- Decoding of a word that is neither never-written nor poisoned (R172). -/
def decodeWord (mode w : Nat) : WordRead :=
  match rsErrors (eccRadius mode) w with
  | none => .uncorrectable
  | some e => if e = 0 then .good (wordData w) else .corrected (wordData (w ^^^ e))

/-- The classification of R176 of a slot whose word carries the error pattern `err`.  The first three
cases state what the distances of R175 and R176 say whatever the bytes of the two words are. -/
def readWord (mode : Nat) (kind : SlotKind) (data : Line) (err : Nat) : WordRead :=
  let w := errWeight err
  match kind with
  | .neverWritten => if w ≤ 4 then .neverWritten else classify
  | .poisoned => if w ≤ 4 then .poisoned else classify
  | .codeword =>
    if err = 0 then .good data
    else if w ≤ eccRadius mode ∧ w ≤ 3 then .corrected data
    else if w ≤ 3 then .uncorrectable
    else classify
where
  /-- The three steps of R176 on the stored word. -/
  classify : WordRead :=
    let word := slotWord kind data ^^^ err
    if byteDistance word Config.nwWord ≤ 4 then .neverWritten
    else if byteDistance word Config.poisonWord ≤ 4 then .poisoned
    else decodeWord mode word

end Sys2Proof.Machine
end

