-- ==== Sys2Proof/Machine/StateMem.lean ====
section
/-! DEFINITION. Pieces of the state: stacked memory and the Sward. -/

namespace Sys2Proof.Machine

/-- Stacked memory: 16 stacks of 2^30 slots (R167 to R170).  Slot `k` of stack `s` is slot number
s · 2^30 + k; the data byte `b` of its codeword is the byte at slot · 64 + b. -/
structure MemSt where
  /-- Data bytes of codewords; an unlisted byte reads 0, and slots that hold no codeword list none. -/
  bytes : List Host.Cell
  /-- What each slot holds; unlisted slots are never-written (R175). -/
  kinds : SMap SlotKind
  /-- The error pattern of the stored word of a slot; unlisted is none (R172, R179). -/
  errs : SMap Nat
  /-- Where a retired slot has been relocated to (R184). -/
  reloc : SMap Nat
  /-- Withdrawn pages in the order in which they were taken, by page number (R184). -/
  withdrawn : List Nat
  /-- Slots of withdrawn pages given to relocated lines. -/
  used : SMap Bool
  /-- Slots of a stack that has returned from a fence and waits for REBUILD (R500), by stack: the protected
  slots already rewritten. -/
  stale : List Nat
  fresh : SMap Bool
  /-- Slots at which a protected line lies beside a stripe-mate: the stripes (R186). -/
  exposed : SMap Bool
  /-- Next slot that SCRUB reads, by stack (R178). -/
  scrub : SMap Nat
  deriving DecidableEq, Repr

/-- A staged copy of a region on a Bivouac (R190): the lines below `mark` are present, and `pages` are the pages of the
upper Sward that it takes. -/
structure Staged where
  region : Nat
  biv : Nat
  mark : Nat
  pages : List Nat
  deriving DecidableEq, Repr

/-- The Sward (R188, R189): Bivouac b's byte i is byte b · 4 MiB + i. -/
structure SwardSt where
  bytes : List Host.Cell
  /-- Written flags by line number over all Bivouacs; unlisted is clear. -/
  written : SMap Bool
  staged : List Staged
  deriving DecidableEq, Repr

end Sys2Proof.Machine
end

