-- ==== Sys2Proof/Machine/StateRegion.lean ====
section
/-! DEFINITION. Pieces of the state: region descriptors and what runs over them. -/

namespace Sys2Proof.Machine

/-- STATE of a region descriptor (R38). -/
inductive RegState where
  | free
  | live
  | handover
  | clearing
  | damaged
  deriving DecidableEq, Repr

/-- A region descriptor (R38), held under its index; the default is a FREE one. -/
structure Region where
  basePage : Nat := 0
  pages : Nat := 0
  owner : Nat := 0
  /-- RIGHTS: 1 read-only, 3 read-write. -/
  rights : Nat := 0
  /-- PLACEMENT: 0 STACKED, 1 SWARD, 2 STAGED. -/
  placement : Nat := 0
  protect : Bool := false
  factored : Bool := false
  overflow : Bool := false
  peerPos : Nat := 0
  state : RegState := .free
  isAlias : Bool := false
  /-- PARENT of an alias; the target pitch while in HANDOVER. -/
  parent : Nat := 0
  stageFirst : Nat := 0
  stageCount : Nat := 0
  peerBase : Nat := 0
  peerPages : Nat := 0
  peerIndex : Nat := 0
  /-- A lodged descriptor, owned by no pitch (R48). -/
  lodged : Bool := false
  /-- The last hand-over that ended: old owner, target, outcome code of R58. -/
  outcome : Option (Nat × Nat × Nat) := none
  deriving DecidableEq, Repr

/-- A region whose pages are being cleared (R62): the local lines not yet cleared are those from `next` on,
and the peer's report is still owed. -/
structure Clearing where
  index : Nat
  next : Nat
  peerOwed : Bool
  deriving DecidableEq, Repr

/-- A hand-over accepted and not yet complete (R55). -/
structure Accepting where
  index : Nat
  target : Nat
  deriving DecidableEq, Repr

/-- A region message kept for a peer until a port to it is in service (R62). -/
structure RegMsg where
  peerPos : Nat
  /-- 0 destroy, 1 report of the end of clearing. -/
  kind : Nat
  index : Nat
  originPos : Nat
  originIndex : Nat
  deriving DecidableEq, Repr

/-- Regions (R38 to R62). -/
structure RegionSt where
  table : SMap Region
  clearing : List Clearing
  accepting : List Accepting
  msgs : List RegMsg
  deriving DecidableEq, Repr

end Sys2Proof.Machine
end

