-- ==== Sys2Proof/Machine/StateService.lean ====
section
/-! DEFINITION. Pieces of the state: the image store and the Kettle cores, and the service procedures. -/

namespace Sys2Proof.Machine

/-- The two halves of an image class (R412). -/
structure Halves where
  active : List Byte := []
  inactive : List Byte := []
  /-- The inactive half has run since the last reset (R413). -/
  ran : Bool := false
  deriving DecidableEq, Repr

/-- An image transfer over a mailbox in progress (R413). -/
structure ImageXfer where
  cls : Nat
  port : Nat
  data : List Byte
  deriving DecidableEq, Repr

/-- The image store and the Kettle cores (R407 to R416).  What the cores' firmware holds beyond these is not
described by the manual. -/
structure KettleSt where
  /-- Halves by class. -/
  images : SMap Halves
  xfer : Option ImageXfer
  /-- The class whose transferred image Ember checks (R410). -/
  checking : Option Nat
  /-- The management core that is taking over (R414). -/
  takeover : Option Nat
  /-- The management core relieved by the takeover, and whether it reloads. -/
  relieved : Option (Nat × Bool)
  /-- A COLL activation waits for running collectives (R414). -/
  draining : Bool
  /-- The collective cores load the image of an activation. -/
  switching : Bool
  /-- Watchdog expiries of the last 10 s: core and CCLK_NOW (R416). -/
  expiries : List (Nat × Nat)
  deriving DecidableEq, Repr

/-- A Sward move of a Bivouac replacement in progress (R495, R496): the cluster that leaves, the logical Bivouac,
the spare, and whether the old cluster has failed. -/
structure BivMove where
  old : Nat
  logical : Nat
  spare : Nat
  failed : Bool
  deriving DecidableEq, Repr

/-- The service procedures (R492 to R506); the present procedure's phase and unit stand in PROC_STATE and PROC_UNIT. -/
structure ProcSt where
  moves : List BivMove
  /-- Stacks that recalibrate: steps of the pass done (R501). -/
  recal : SMap Nat
  /-- The unit of the present procedure has failed (R494). -/
  failed : Bool
  deriving DecidableEq, Repr

end Sys2Proof.Machine
end

