-- ==== Sys2Proof/Machine/StateWork.lean ====
section
/-! DEFINITION. Pieces of the state: command rings, descriptors on their way, translation, faults and
invalidations. -/

namespace Sys2Proof.Machine

/-- A command ring (R233, R234, R265). -/
structure Ring where
  base : Nat := 0
  compl : Nat := 0
  /-- LOG2_SLOTS. -/
  log2 : Nat := 0
  enable : Bool := false
  tail : Nat := 0
  fetched : Nat := 0
  dispatched : Nat := 0
  floor : Nat := 0
  deriving DecidableEq, Repr

/-- A virtual range of a descriptor: an operand, its code, or its operand table (R244, R245). -/
structure VRange where
  va : Nat
  len : Nat
  read : Bool := true
  write : Bool := false
  stage : Bool := false
  deriving DecidableEq, Repr

/-- An extent of a translation record (R76): `bytes` is its length, `target` its pool or host address. -/
structure Extent where
  va : Nat
  bytes : Nat
  host : Bool
  port : Nat
  write : Bool
  target : Nat
  deriving DecidableEq, Repr

/-- An unresolved fault of a parked descriptor (R82, R85, R89): `slot` is the fault sequence of the entry it is
attached to, none in fault-wait. -/
structure FaultRef where
  va : Nat
  write : Bool
  cause : Nat
  level : Nat
  entry : Nat
  addr : Nat
  time : Nat
  slot : Option Nat
  deriving DecidableEq, Repr

/-- Where a descriptor stands (R35). -/
inductive DescPhase where
  /-- Its walk is in progress (R76). -/
  | walking
  /-- Parked on a fault or in fault-wait (R82, R89). -/
  | parked
  /-- Translated and not dispatched. -/
  | ready
  /-- Handed to its unit, whole or in part. -/
  | dispatched
  /-- Started by its unit (R250). -/
  | running
  /-- Its status is decided and its record is not yet written. -/
  | decided
  /-- Its record is written; FLOOR has not passed it. -/
  | done
  deriving DecidableEq, Repr

/-- How a descriptor completes: STATUS, DETAIL and RESULT (R251). -/
structure DescOut where
  status : Nat
  detail : Nat := 0
  result : Nat := 0
  deriving DecidableEq, Repr

/-- A partition of a RUN_KERNEL descriptor (R249): its index and logical Bivouac. -/
structure Part where
  idx : Nat
  biv : Nat
  /-- Dispatch order, which orders the window of its Bivouac (R250). -/
  order : Nat
  started : Bool := false
  done : Bool := false
  deriving DecidableEq, Repr

/-- A descriptor that the device has fetched (R35, R76, R241). -/
structure Desc where
  id : DescId
  /-- Its 16 words. -/
  words : List Word
  /-- PRIORITY after the floor (R242). -/
  prio : Nat
  phase : DescPhase
  /-- The operand table is still to be read (R245). -/
  needTable : Bool
  /-- Ranges still to be walked; the first may have been walked in part, from `at`. -/
  todo : List VRange
  /-- The operand ranges, all of them. -/
  operands : List VRange
  record : List Extent
  fault : Option FaultRef
  /-- Held and walked again for an invalidation (R93). -/
  rewalk : Bool
  /-- Campfire count at which it became eligible (R248). -/
  eligible : Option Nat
  unit : Option UnitId
  /-- Dispatch order, which orders the descriptors of a unit (R250). -/
  order : Nat
  parts : List Part
  start : Option Nat
  outcome : Option DescOut
  /-- END_TIME once its record is written. -/
  ended : Nat
  deriving DecidableEq, Repr

/-- An entry of a fault ring as the device keeps it (R85, R87, R88, R90): what it was written with, and how far its
action has come. -/
structure FaultEnt where
  pitch : Nat
  seq : Nat
  va : Nat
  cause : Nat
  /-- ENTRY and ENTRY_ADDR. -/
  entry : Nat
  addr : Nat
  /-- The descriptor that raised it. -/
  raiser : DescId
  waiters : Nat
  /-- The device has read its action. -/
  acted : Bool
  /-- The action has completed, and whether it failed. -/
  finished : Bool
  failed : Bool
  /-- DONE has been set in the entry; its slot is freed in order. -/
  closed : Bool
  deriving DecidableEq, Repr

/-- A migration whose page is being read (R91): the fault entry, the faulting page, where its leaf lies and what it held,
the destination frame, and the class that pays. -/
structure Migration where
  pitch : Nat
  seq : Nat
  va : Nat
  addr : Nat
  entry : Nat
  frame : Nat
  bclass : Nat
  deriving DecidableEq, Repr

/-- An invalidation taken or queued (R93, R95): for a ring descriptor or for the dictionary path. -/
structure Inval where
  pitch : Nat
  va : Nat
  pages : Nat
  owner : Option DescId
  /-- Steps 1 and 2 have begun. -/
  taken : Bool
  deriving DecidableEq, Repr

/-- Work: rings, descriptors and translation. -/
structure WorkSt where
  /-- Rings by 16 · pitch + ring. -/
  rings : SMap Ring
  descs : List Desc
  nextOrder : Nat
  /-- The translation cache (R80): valid entries by pitch, level and index path. -/
  xcache : SMap Word
  faults : List FaultEnt
  migrations : List Migration
  invals : List Inval
  deriving DecidableEq, Repr

end Sys2Proof.Machine
end

