-- ==== Sys2Proof/Machine/State.lean ====
section
/-! DEFINITION. The state of the Fardan: every register, buffer, queue and mode that the manual gives the
device, the queue of waiting commands, and the state after reset. -/

namespace Sys2Proof.Machine

/-- A programming of a fuse (R465). -/
inductive Burn where
  /-- Key k is revoked. -/
  | revoke (k : Nat)
  /-- SVN_FLOOR of a class is raised. -/
  | floor (cls v : Nat)
  deriving DecidableEq, Repr

/-- On-chip fuses (R463, R465): they survive power loss. -/
structure Fuses where
  serial : Nat
  dateCode : Nat
  lifecycle : Nat
  deviceCert : List Byte
  /-- Public keys by number: 97 bytes each (R465). -/
  keys : SMap (List Byte)
  /-- KEY_STATE: 0 ABSENT, 1 PRESENT, 2 REVOKED. -/
  keyState : SMap Nat
  /-- SVN_FLOOR by class. -/
  svnFloor : SMap Nat
  /-- What the writes of the command in progress have begun to program, oldest first; empty between commands. -/
  burning : List Burn
  deriving DecidableEq, Repr

/-- The state of the block. -/
structure State where
  /-- Commands that wait, first in first out. -/
  pending : List Instr
  power : PowerSt
  camp : CampSt
  fuses : Fuses
  /-- Every dictionary entry that is no DOMAIN, no STR and no value computed at the read (R438). -/
  regs : SMap Nat
  dict : DictSt
  log : LogSt
  trace : TraceSt
  stop : StopSt
  jtag : JtagSt
  mem : MemSt
  sward : SwardSt
  region : RegionSt
  work : WorkSt
  biv : BivSt
  eng : EngineSt
  kettle : KettleSt
  proc : ProcSt
  dir : DirSt
  trail : TrailSt
  meter : MeterSt
  stile : StileSt
  port : PortSt
  /-- What has left the device, newest first: the model's record of its outputs. -/
  sent : List Out
  /-- The MODEL's own counter with which free values are drawn. -/
  freeCount : Nat
  deriving DecidableEq, Repr

/-- Why the machine stops.  No meaning of this model raises a fault: the manual gives every operation and
event of the table an effect, and R7 says that "undefined" never means that the device hangs. -/
inductive Fault where
  /-- Raised by nobody; the type needs a name.  Safe: a state in which it arose would have no successor. -/
  | none
  deriving DecidableEq, Repr

/-- Why a command has no meaning. -/
inductive Refusal where
  /-- Raised by the arm of a command whose meaning has not been written, with its mnemonic.  Safe: the run
  stops where the device goes on. -/
  | notModelled (mnemonic : String)
  deriving DecidableEq, Repr

/-! ### The state after reset (R447, R471, R474) -/

/-- Power and reset after the internal reset of a power-on reset has ended. -/
def PowerSt.init : PowerSt :=
  { phase := .running, resetN := true, cause := 0, lossAt := 0, railsOut := 0, railHold := false, tripHold := false,
    sensorHot := false, warm := false, kept := 0, thermTripN := true, emberUp := false, dutyChange := 0,
    trained := 0, calQueue := [], refreshMgmt := 0, refreshes := 0 }

/-- Time at the end of the internal reset: every count starts from 0 (R471). -/
def CampSt.init : CampSt :=
  { cclk := 0, count := 0, half := false, correction := 0, holdTicks := 0, offset := none,
    countSet := false, good := 0, starting := false, best := 0, lastMarker := 0, driving := false,
    switching := false, exchanges := [] }

/-- Fuses of a part that carries nothing but its class: no key and no certificate. -/
def Fuses.init : Fuses :=
  { serial := 0, dateCode := 0, lifecycle := 1, deviceCert := [], keys := [], keyState := [], svnFloor := [], burning := [] }

/-- The dictionary server after reset. -/
def DictSt.init : DictSt :=
  { replies := [], transfers := [], snapshots := [], armed := [], slots := [], sram := [], txq := [], held := [],
    macPending := none, resetPending := none }

/-- Stacked memory with nothing listed. -/
def MemSt.init : MemSt :=
  { bytes := [], kinds := [], errs := [], reloc := [], withdrawn := [], used := [],
    stale := [], fresh := [], exposed := [], scrub := [] }

/-- The Sward after reset: every written flag is clear (R189). -/
def SwardSt.init : SwardSt := { bytes := [], written := [], staged := [] }

/-- No region descriptor is in use. -/
def RegionSt.init : RegionSt := { table := [], clearing := [], accepting := [], msgs := [] }

/-- No ring is configured and no descriptor is in the device. -/
def WorkSt.init : WorkSt := { rings := [], descs := [], nextOrder := 0, xcache := [], faults := [], migrations := [], invals := [] }

/-- The directory after reset: every way is FREE (R103). -/
def DirSt.init : DirSt :=
  { entries := [], queued := [], lookups := [], hold := [], trans := [], cooling := [], trackers := [], recent := [],
    nextAge := 0, naked := [], allocated := [], freed := [], viewReads := [], recalling := [], fenceWalks := [] }

/-- The image store and the cores after reset: the store is clear and every core is gated (R407, R412). -/
def KettleSt.init : KettleSt :=
  { images := [], xfer := none, checking := none, takeover := none, relieved := none, draining := false, switching := false,
    expiries := [] }

/-- Ports after reset. -/
def PortSt.init : PortSt :=
  { links := [], hosts := [], decoders := [], fwds := [], coolTags := [], nextTag := 0, ios := [], routes := [],
    retrainWait := [] }

/-- Entries that show live conditions at the end of a reset: REFCLK seen, the PLL locked, every rail in range. -/
def liveRegs : SMap Nat := [(E.clkRefclkPresent, 1), (E.clkPllState, 2), (E.powRailStatus, 0x7FF)]

/-- The machine right after reset: power has come up, RESET_N has been released with every strap at 0, and the
internal reset has ended (R471, R474, R480 steps 1 to 3).  Ember has not yet run. -/
def State.reset : State :=
  { pending := [], power := .init, camp := .init, fuses := .init, regs := liveRegs, dict := .init,
    log := { queue := [], ring := [] },
    trace := { buffer := [], dropped := 0, dropAt := 0, superframe := 0, samples := [] },
    stop := { latched := false, stopIn := true, halted := false, frozen := false },
    jtag := { ir := .idcode, boundary := [], driven := false, highZ := false },
    mem := .init, sward := .init, region := .init, work := .init, biv := { bivs := [] },
    eng := { views := [], segs := [], tables := [], indices := [], snaps := [], gens := [], groups := [], colls := [] },
    kettle := .init, proc := { moves := [], recal := [], failed := false },
    dir := .init,
    trail := { queue := [], nextId := 0, gather := [], byStack := [] },
    meter := { meters := [], waiting := [] },
    stile := { locks := [], dfltBroken := false, acquired := 0, released := 0, expired := 0, broken := 0 },
    port := .init, sent := [], freeCount := 0 }

end Sys2Proof.Machine
end

