-- ==== Sys2Proof/Machine/Ops.lean ====
section
/-! DEFINITION. The named operations over registers, counts, time, the fault log and the trace, which every
other operation of the model goes through. -/

namespace Sys2Proof.Machine

/-! ### What any command leaves alone (R463, R465, R473) -/

/-- Program one fuse: a revocation is for good, and a floor only rises (R465). -/
def Fuses.burn (f : Fuses) : Burn → Fuses
  | .revoke k => { f with keyState := SMap.set (fun _ => 0) f.keyState k 2 }
  | .floor c v =>
    { f with svnFloor := SMap.set (fun _ => 0) f.svnFloor c (max (SMap.get (fun _ => 0) f.svnFloor c) v) }

/-- The fuses with everything programmed that has been begun. -/
def Fuses.programmed (f : Fuses) : Fuses := { f.burning.foldl Fuses.burn f with burning := [] }

/-- KEY_STATE of a key (R465). -/
def Fuses.keyAt (f : Fuses) (k : Nat) : Nat := SMap.get (fun _ => 0) f.programmed.keyState k

/-- SVN_FLOOR of a class (R465). -/
def Fuses.floorAt (f : Fuses) (c : Nat) : Nat := SMap.get (fun _ => 0) f.programmed.svnFloor c

/-- Begin to program a fuse. -/
def State.burn (s : State) (b : Burn) : State := { s with fuses := { s.fuses with burning := s.fuses.burning ++ [b] } }

/-- A command's view of the machine: it sees neither the commands that wait behind it nor what has left the device. -/
def State.front (s : State) : State := { s with pending := [], sent := [], fuses := s.fuses.programmed }

/-- Close a command that took `s` to `t`: the queue stands, what left the device is recorded, and of the fuses only those
change that the command programmed (R465). -/
def State.close (s t : State) : State :=
  { t with
    pending := s.pending
    sent := t.sent ++ s.sent
    fuses := { s.fuses.programmed with burning := t.fuses.burning }.programmed }

/-- A command of the power supply, of RESET_N or of the TAP. -/
def State.runPin (s : State) (f : State → State) : Host.Outcome State Fault Refusal := .next (s.close (f s.front))

/-- Any other command: it moves neither the level of RESET_N nor the TAP (R471, R473, R533). -/
def State.run (s : State) (f : State → State) : Host.Outcome State Fault Refusal :=
  s.runPin fun s =>
    let t := f s
    { t with jtag := s.jtag, power := { t.power with resetN := s.power.resetN } }

/-! ### Registers (R438, R447) -/

/-- The value a dictionary entry holds. -/
def State.reg (s : State) (k : Nat) : Nat := SMap.get entryDflt s.regs k

/-- Set the value of a dictionary entry. -/
def State.setReg (s : State) (k v : Nat) : State := { s with regs := SMap.set entryDflt s.regs k v }

/-- Set several entries, in order. -/
def State.setRegs (s : State) (kvs : List (Nat × Nat)) : State :=
  kvs.foldl (fun s p => s.setReg p.1 p.2) s

/-- Add `n` to a 48-bit saturating count (R517). -/
def State.bumpBy (s : State) (k n : Nat) : State := s.setReg k (min countMax (s.reg k + n))

/-- Add one to a 48-bit saturating count (R517). -/
def State.bump (s : State) (k : Nat) : State := s.bumpBy k 1

/-- A write that the entry's own rules refuse: counted in WRITES_IGNORED (R443). -/
def State.ignoreWrite (s : State) : State := s.bump E.mgmtWritesIgnored

/-- Record an output. -/
def State.emit (s : State) (o : Out) : State := { s with sent := o :: s.sent }

/-- Record outputs, the first of the list leaving first. -/
def State.emitAll (s : State) (os : List Out) : State := os.foldl State.emit s

/-- Draw a free value's number. -/
def State.drawFree (s : State) : Nat × State := (s.freeCount, { s with freeCount := s.freeCount + 1 })

/-! ### Time (R254, R469, R489) -/

/-- The Campfire count of the present tick. -/
def State.now (s : State) : Nat := s.camp.count

/-- CCLK_NOW (R489). -/
def State.cclk (s : State) : Nat := s.camp.cclk

/-- CCLK in `n` microseconds. -/
def usCclk (n : Nat) : Nat := n * 1600

/-- CCLK in `n` milliseconds. -/
def msCclk (n : Nat) : Nat := n * 1600000

/-- The device runs: power is on and the internal reset has ended (R471). -/
def State.running (s : State) : Bool := s.power.phase == .running

/-- The core domains are on (R482). -/
def State.coreOn (s : State) : Bool := s.running && s.reg E.rstCoreState == 2

/-- DEVICE_NUMBER = BOARD_NUMBER · 8 + BOARD_POS (R26). -/
def State.deviceNumber (s : State) : Nat := s.reg E.idBoardNumber * 8 + s.reg E.idBoardPos

/-! ### Unit words (R479, R492) -/

/-- The kind code of a unit. -/
def kindCode : UnitKind → Nat
  | .bivouac => 1
  | .stack => 2
  | .utxon => 3
  | .host => 4
  | .kettle => 5
  | .slice => 6
  | .bracken => 7
  | .clover => 8
  | .tinder => 9
  | .heather => 10

/-- The kind of a code, where there is one. -/
def kindOfCode (n : Nat) : Option UnitKind :=
  [UnitKind.bivouac, .stack, .utxon, .host, .kettle, .slice, .bracken, .clover, .tinder, .heather][n - 1]?
    |>.filter fun _ => decide (1 ≤ n)

/-- How many units of a kind there are (R479). -/
def kindNumber : UnitKind → Nat
  | .bivouac => 528
  | .stack => 16
  | .utxon => 24
  | .host => 4
  | .kettle => 8
  | .slice => 33
  | .bracken => 32
  | .clover => 32
  | .tinder => 16
  | .heather => 64

/-- The unit word of R492. -/
def unitWord (k : UnitKind) (u : Nat) : Nat := kindCode k * 2 ^ 24 + u

/-- The key of a unit's STATE entry (R479). -/
def kindState (k : UnitKind) (u : Nat) : Nat :=
  match k with
  | .bivouac => E.bivState u
  | .stack => E.stackState u
  | .utxon => E.utxonState u
  | .host => E.hostState u
  | .kettle => E.coreState u
  | .slice => E.sliceState u
  | .bracken => E.brackenState u
  | .clover => E.cloverState u
  | .tinder => E.tinderState u
  | .heather => E.heatherState u

/-- The code of FENCED in a unit's STATE entry; a slice has none and reads FAILED (R504). -/
def kindFenced : UnitKind → Nat
  | .bivouac => 4
  | .stack => 4
  | .utxon => 6
  | .host => 4
  | .kettle => 5
  | .slice => 3
  | .bracken | .clover | .tinder | .heather => 2

/-- The code of FAILED in a unit's STATE entry, where it has one. -/
def kindFailed : UnitKind → Option Nat
  | .bivouac => some 5
  | .stack => some 5
  | .utxon => none
  | .host => none
  | .kettle => some 4
  | .slice => some 3
  | .bracken | .clover | .tinder | .heather => some 3

/-- A unit is being fenced by the FM's procedure: PROC_STATE is FENCING, DRAINING or ACTING (R492, R493). -/
def State.fencing (s : State) (k : UnitKind) (u : Nat) : Bool :=
  inRange (s.reg E.procProcState) 1 3 && s.reg E.procProcUnit == unitWord k u

/-! ### Trace and stop (R525 to R530) -/

/-- The trace buffer holds 64 KiB of 32-byte records (R526). -/
def traceCapacity : Nat := 2048

/-- Latch the stop trigger with its cause (R528); later events do not change STOP_CAUSE. -/
def State.latchStop (s : State) (cause : Nat) : State :=
  if s.stop.latched then s
  else { s with stop := { s.stop with latched := true } }.setReg E.stopStopCause cause

/-- Put a record into the trace buffer, or drop it (R526). -/
def State.pushRecord (s : State) (r : TraceRec) : State :=
  if s.trace.buffer.length < traceCapacity then
    { s with trace := { s.trace with buffer := s.trace.buffer ++ [r] } }
  else if s.trace.dropAt = s.cclk + 1 then s
  else { s with trace := { s.trace with dropAt := s.cclk + 1, dropped := min 65535 (s.trace.dropped + 1) } }.bump E.traceTraceDrops

/-- A trace event (R525): TYPE, STATUS, LAYER_ID, OPERATOR_ID, PITCH, RING, UNIT, SEQ and DATA. -/
structure TraceEv where
  type : Nat
  status : Nat := 0
  layer : Nat := 0
  operator : Nat := 0
  pitch : Nat := 0xFFF
  ring : Nat := 0
  unit : Nat := 0
  seq : Nat := 0
  data : Nat := 0

/-- The four words of a record at the present count. -/
def TraceEv.record (e : TraceEv) (now : Nat) : TraceRec :=
  [packWord [(0, now % 2 ^ 48), (48, e.type), (56, e.status)],
   packWord [(0, e.layer), (16, e.operator), (32, e.pitch), (44, e.ring)],
   packWord [(0, e.unit % 2 ^ 32), (32, e.seq % 2 ^ 32)],
   BitVec.ofNat 64 e.data]

/-- A record matches STOP_MATCH: a field of zero matches any value (R528). -/
def matchesStop (m : Nat) (e : TraceEv) : Bool :=
  (bits m 7 0 == 0 || bits m 7 0 == e.type) && (bits m 31 16 == 0 || bits m 31 16 == e.layer) &&
    (bits m 47 32 == 0 || bits m 47 32 == e.operator)

/-- Generate a trace record where R526 asks for one; a generated record may latch the stop (R528). -/
def State.traceEvent (s : State) (e : TraceEv) : State :=
  let on := s.reg E.traceLanternEnable == 1 && bitOf (s.reg E.traceTraceTypes) e.type && !s.stop.frozen &&
    (e.type == 5 || e.type == 7 || s.reg E.traceTracePitch == 0xFFFF || s.reg E.traceTracePitch == e.pitch)
  if on then
    let s := s.pushRecord (e.record s.now)
    if bitOf (s.reg E.stopStopTriggers) 1 && matchesStop (s.reg E.stopStopMatch) e then s.latchStop 3 else s
  else s

/-! ### Fault log (R520 to R522) -/

/-- Direct an event that arose at a Campfire count to the fault log: it waits in the queue of 64, or is counted as
lost (R520). -/
def State.logEventAt (s : State) (time code severity pitch unit detail : Nat) : State :=
  if s.log.queue.length < 64 then
    let e : LogEvent := { time, code, severity, pitch, unit, detail }
    { s with log := { s.log with queue := s.log.queue ++ [e] } }
  else s.bump E.logLogOverwrites

/-- Direct an event that arises now to the fault log (R520). -/
def State.logEvent (s : State) (code severity pitch unit detail : Nat) : State :=
  s.logEventAt s.now code severity pitch unit detail

/-! ### Writes that take effect when repeated (R465, R477) -/

/-- The state after a write of an entry that must be written twice, and whether the same role wrote the same value to
it within the preceding 1 s (R465, R477). -/
def State.armTwice (s : State) (role : Role) (key v : Nat) : State × Bool :=
  let fresh := s.dict.armed.filter fun a => decide (s.cclk ≤ a.time + msCclk 1000)
  let same := fun (a : Armed) => a.role == role && a.key == key && a.value == v
  let armed := fresh.filter (fun a => !same a) ++ [{ role, key, value := v, time := s.cclk }]
  ({ s with dict := { s.dict with armed } }, fresh.any same)

end Sys2Proof.Machine
end

