-- ==== Sys2Proof/Machine/Rights.lean ====
section
/-! DEFINITION. Rights and service of dictionary entries (R438 to R446): which role may read or write an entry,
which entries the present server serves, and the frame of every write. -/

namespace Sys2Proof.Machine

/-- Where the two rights bits of a role stand in ACCESS (R449). -/
def accShift : Role → Nat
  | .bm => 0
  | .fm => 2
  | .hd => 4
  | .po _ => 6

/-- ACCESS of an entry (R449): subindex 0 of an index with entries is read by every role; 0 for an entry that does
not exist. -/
def accessOf? (idx sub : Nat) : Nat :=
  if sub = 0 then (if rowsOf idx = [] then 0 else 0x55)
  else (entryRow idx sub).elim 0 ERow.acc

/-- The PO column of a pitch's index applies to that pitch only (R441). -/
def poReach (role : Role) (idx : Nat) : Bool :=
  match role with
  | .po p => !(decide (0x4000 ≤ idx) && decide (idx < 0x5000)) || idx == 0x4000 + p
  | _ => true

/-- The role may read the entry (R441). -/
def mayRead (role : Role) (idx sub : Nat) : Bool :=
  poReach role idx && bitOf (accessOf? idx sub) (accShift role)

/-- The role may write the entry (R441). -/
def mayWrite (role : Role) (idx sub : Nat) : Bool :=
  poReach role idx && bitOf (accessOf? idx sub) ((accShift role) + 1)

/-- The entry exists (R438). -/
def entryExists (idx sub : Nat) : Bool :=
  if sub = 0 then rowsOf idx != [] else (entryRow idx sub).isSome

/-- Indices of which Ember serves every entry (R444, R481). -/
def emberIndex (idx : Nat) : Bool :=
  idx == 0x1000 || idx == 0x1100 || (decide (0x1200 ≤ idx) && decide (idx ≤ 0x1203)) ||
    (decide (0x7810 ≤ idx) && decide (idx < 0x7810 + 6)) || idx == 0x8F00 || idx == 0x2000

/-- Ember serves the entry (R444, R481); subindex 0 of the indices it serves too. -/
def emberServes (idx sub : Nat) : Bool :=
  emberIndex idx ||
    (idx == 0x7800 && (sub == 0 || (decide (2 ≤ sub) && decide (sub ≤ 7)))) ||
    (idx == 0x2100 && decide (sub ≤ 0x0A)) ||
    (decide (0x6400 ≤ idx) && decide (idx < 0x6440) && idx % 16 == 0 && decide (sub ≤ 3))

/-- A management core serves the dictionary (R444). -/
def State.mgmtServes (s : State) : Bool := s.reg E.mgmtDictServer == 1 || s.reg E.mgmtDictServer == 2

/-- The dictionary answers at all: Ember has booted (R480 step 4). -/
def State.dictUp (s : State) : Bool := s.running && s.power.emberUp

/-- The present server serves the entry (R444, R446). -/
def State.servesEntry (s : State) (idx sub : Nat) : Bool :=
  s.dictUp && (s.mgmtServes || (s.reg E.mgmtDictServer == 0 && emberServes idx sub))

/-- A write of an entry by a role, taken outside any request: not performed where the entry is not served, a
violation without the right (R442), and otherwise what `f` does. -/
def State.asWriter (s : State) (role : Role) (key : Nat) (f : State → State) : State :=
  if s.servesEntry (key / 256) (key % 256) then
    if mayWrite role (key / 256) (key % 256) then f s else s.bump E.violDictDenied
  else s

/-- A write is performed when its condition holds, and is otherwise ignored and counted (R443). -/
def State.writeWhen (s : State) (c : Bool) (f : State → State) : State :=
  if c then f s else s.ignoreWrite

end Sys2Proof.Machine
end

