-- ==== Sys2Proof/Machine/Ports.lean ====
section
/-! DEFINITION. Ports: which are in service, agent and source numbers (R101, R108, R133), sending messages with
credits and frames (R354 to R364), routing by device number (R31, R32, R369) and the region that covers a line
(R36, R39). -/

namespace Sys2Proof.Machine

/-! ### Service of ports -/

/-- A port carries traffic: its STATE reads UP (R366, R380), and a host port is not INSECURE (R375). -/
def State.portUp (s : State) : Port → Bool
  | .host n => decide (n < 4) && s.reg (E.hostState n) == 2 && s.reg (E.hostIdeState n) != 2
  | .utxon n => decide (n < 24) && s.reg (E.utxonState n) == 2

/-- A port is in service for new traffic: it is UP and is not being fenced (R366, R502). -/
def State.portServes (s : State) (p : Port) : Bool :=
  s.portUp p && match p with
    | .host n => !s.fencing .host n
    | .utxon n => !s.fencing .utxon n

/-- The partner type of a Utxon port: 1 FARDAN, 2 ACCELERATOR, 3 SWITCH (R357). -/
def State.partnerType (s : State) (n : Nat) : Nat := s.reg (E.utxonPartnerType n)

/-- The partner of the port is a Fardan. -/
def State.fromFardan (s : State) : Port → Bool
  | .host _ => false
  | .utxon n => s.partnerType n == 1

/-- The agent number written for a port; 0xFF none (R132). -/
def State.portAgent (s : State) : Port → Nat
  | .host n => s.reg (E.dirHostAgent n)
  | .utxon n => s.reg (E.dirUtxonAgent n)

/-- The port's partner is a caching agent: a host or an accelerator with an agent number (R101). -/
def State.caching (s : State) (p : Port) : Bool :=
  decide (s.portAgent p < 64) &&
    match p with
    | .host _ => true
    | .utxon n => s.partnerType n == 2

/-- The source number of traffic on a port (R108). -/
def State.sourceOf (s : State) (p : Port) : Nat :=
  if s.caching p then s.portAgent p
  else match p with
    | .host n => 64 + n
    | .utxon n => 68 + n

/-- The source number of the device's own requesters (R108). -/
def internalSource : Nat := 92

/-- The key of a port's NC_CONVERT count (R132). -/
def ncKey : Port → Nat
  | .host n => E.dirNcConvert n
  | .utxon n => E.dirNcConvert (n + 4)

/-- The port on which an agent is snooped: the lowest-numbered in-service Utxon port that names it, else the
lowest-numbered in-service host port (R133). -/
def State.agentPort (s : State) (a : Nat) : Option Port :=
  match (List.range 24).find? fun n => s.portServes (.utxon n) && s.reg (E.dirUtxonAgent n) == a with
  | some n => some (.utxon n)
  | none => ((List.range 4).find? fun n => s.portServes (.host n) && s.reg (E.dirHostAgent n) == a).map .host

/-- The agents configured on at least one port: AGENT_PRESENT (R132). -/
def State.agentPresent (s : State) : Word :=
  BitVec.ofNat 64 ((List.range 64).foldl (fun acc a =>
    if (List.range 24).any (fun n => s.reg (E.dirUtxonAgent n) == a) ||
        (List.range 4).any (fun n => s.reg (E.dirHostAgent n) == a)
    then acc + 2 ^ a else acc) 0)

/-! ### Sending messages -/

/-- The opcode carries line data (R111). -/
def carriesData (op : Nat) : Bool :=
  [0x05, 0x06, 0x07, 0x34, 0x35, 0x36, 0x38, 0x39, 0x3A].contains op

/-- The opcode carries a 48 B operand block (R146): atomics and Stile operations. -/
def isAtomic (op : Nat) : Bool := decide (0x10 ≤ op) && decide (op ≤ 0x1F) && op != 0x1B

/-- A message that the device sends in compact form (R356). -/
def isCompact (op : Nat) : Bool := op == 0x38 || op == 0x39 || op == 0x3A

/-- Bytes of a message (R111, R146, R356): an ACK that answers an atomic carries its result block. -/
def msgBytes (op : Nat) (result : Bool) : Nat :=
  if isCompact op then 68
  else if op == 0x06 then 88
  else if carriesData op then 80
  else if isAtomic op then 64
  else if op == 0x3C && result then 32
  else 16

/-- The ACK carries a result block: its result words were set by an atomic, which is marked by `width` 4. -/
def OutMsg.result (m : OutMsg) : Bool := m.msg.req.width == 4

/-- Credits a message uses (R359). -/
def OutMsg.credits (m : OutMsg) : Nat := cdiv (msgBytes m.msg.opcode m.result) 16

/-- The link of a Utxon port. -/
def State.link (s : State) (n : Nat) : Link := SMap.get (fun _ => {}) s.port.links n

/-- Set the link of a Utxon port. -/
def State.setLink (s : State) (n : Nat) (l : Link) : State :=
  { s with port := { s.port with links := SMap.set (fun _ => {}) s.port.links n l } }

/-- The credit book of a VC: 0 REQ, 1 SNP, 2 RSP. -/
def Link.book (l : Link) : Nat → VcBook
  | 0 => l.req
  | 1 => l.snp
  | _ => l.rsp

/-- Set the credit book of a VC. -/
def Link.setBook (l : Link) (vc : Nat) (b : VcBook) : Link :=
  match vc with
  | 0 => { l with req := b }
  | 1 => { l with snp := b }
  | _ => { l with rsp := b }

/-- The last SEQ received in order (R354). -/
def Link.ackSeq (l : Link) : Nat := (l.nextRx + 4095) % 4096

/-- Bytes of a frame: an 8 B header, the body and a 4 B CRC (R354). -/
def Frame.bytes (f : Frame) : Nat :=
  12 + sumBy (fun m => msgBytes m.msg.opcode m.result) f.msgs

/-- The replay buffer has room for one more frame (R364). -/
def Link.roomy (l : Link) : Bool :=
  decide (l.replay.length < 2047) && decide (sumBy Frame.bytes l.replay + 540 ≤ 262144)

/-- The VC and the count that the next frame of a port reports, and the link after it (R354, R359): the VCs take turns,
so that each is reported once in every three frames. -/
def Link.report (l : Link) : Nat × Nat × Link :=
  let vc := l.nextCred % 3
  let b := l.book vc
  (vc, b.freed % 65536, { l.setBook vc { b with reported := b.freed } with nextCred := (vc + 1) % 3, unacked := 0 })

/-- Put a sequenced frame on the link; it acknowledges what was received (R354, R364). -/
def State.putFrame (s : State) (n : Nat) (f : Frame) : State :=
  let (vc, total, l) := (s.link n).report
  ((s.setLink n l).bump (E.utxonFramesTx n)).emit (.frame n f l.ackSeq vc total)

/-- Put an unsequenced frame on the link (R355). -/
def State.putControl (s : State) (n ftype body : Nat) : State :=
  let (vc, total, l) := (s.link n).report
  ((s.setLink n l).bump (E.utxonFramesTx n)).emit (.control n ftype l.ackSeq vc total body)

/-- Send a message in a frame of its own: it takes the next SEQ and its credits (R354, R359, R364). -/
def State.sendFrame (s : State) (n vc : Nat) (m : OutMsg) : State :=
  let l := s.link n
  let f : Frame := { seq := l.nextTx, vc, compact := isCompact m.msg.opcode, msgs := [m] }
  let b := l.book vc
  let c := m.credits
  let l := { l with nextTx := (l.nextTx + 1) % 4096, replay := l.replay ++ [f] }
  (s.setLink n (l.setBook vc { b with sendHeld := b.sendHeld - c, sent := (b.sent + c) % 2 ^ 32 })).putFrame n f

/-- Send what waits in the egress buffer of a Utxon port while its VC has the credits and the replay buffer has
room; a message waits behind earlier ones of its VC (R359, R364). -/
def State.pump (s : State) (n : Nat) : State :=
  if s.portUp (.utxon n) then
    let r := (s.link n).egress.foldl (fun (acc : State × List (Nat × OutMsg)) e =>
      let l := acc.1.link n
      if acc.2.any (fun x => x.1 == e.1) || !l.roomy || decide ((l.book e.1).sendHeld < e.2.credits) then
        (acc.1, acc.2 ++ [e])
      else (acc.1.sendFrame n e.1 e.2, acc.2)) (s, [])
    r.1.setLink n { r.1.link n with egress := r.2 }
  else s

/-- Hand a message to a port: a host port sends it if it is up, and otherwise it is discarded (R374); a Utxon
port queues it and sends what its credits allow. -/
def State.sendMsg (s : State) (p : Port) (vc : Nat) (m : OutMsg) : State :=
  match p with
  | .host n => if s.portUp p then s.emit (.host n m) else s
  | .utxon n =>
    let st := s.reg (E.utxonState n)
    if st = 2 ∨ st = 3 then
      let l := s.link n
      (s.setLink n { l with egress := l.egress ++ [(vc, m)] }).pump n
    else s

/-- Credits of a received request that are freed once the request leaves its port's receive buffer (R359,
R394). -/
def State.freeHeld (s : State) (p : Port) (age : Nat) : State :=
  match p with
  | .host _ => s
  | .utxon n =>
    let l := s.link n
    match l.held.find? (fun h => h.1 == age) with
    | none => s
    | some h =>
      let b := l.req
      s.setLink n { l with
        held := l.held.filter (fun x => x.1 != age)
        req := { b with rxHeld := b.rxHeld - h.2, freed := (b.freed + h.2) % 2 ^ 32 } }

/-! ### Regions over the local map (R36, R39) -/

/-- The descriptor at an index. -/
def State.regionAt (s : State) (i : Nat) : Region := SMap.get (fun _ => {}) s.region.table i

/-- Set the descriptor at an index. -/
def State.setRegion (s : State) (i : Nat) (r : Region) : State :=
  { s with region := { s.region with table := SMap.set (fun _ => {}) s.region.table i r } }

/-- A region is mapped while LIVE, HANDOVER or DAMAGED (R39). -/
def Region.mapped (r : Region) : Bool := r.state == .live || r.state == .handover || r.state == .damaged

/-- The mapped region, aliases apart, that covers a page of the local map. -/
def State.coverOf (s : State) (page : Nat) : Option (Nat × Region) :=
  s.region.table.find? fun p =>
    p.2.mapped && !p.2.isAlias && decide (p.2.basePage ≤ page) && decide (page < p.2.basePage + p.2.pages)

/-- What a local offset names (R36, R458). -/
inductive Target where
  | stacked
  | view
  | sward
  | unmapped
  | slots
  | doorbells
  | stile
  deriving DecidableEq, Repr

/-- The decode of a local offset (R36, R458); other offsets of the dictionary window are unmapped. -/
def targetOf (off : Nat) : Target :=
  if off < 0x10000000000 then .stacked
  else if off < 0x20000000000 then .view
  else if off < 0x20080000000 then .sward
  else if 0x3F000000000 ≤ off ∧ off < 0x3F000400000 then .slots
  else if 0x3F400000000 ≤ off ∧ off < 0x3F401000000 then .doorbells
  else if 0x3FC00000000 ≤ off ∧ off < 0x3FC00400000 then .stile
  else .unmapped

/-! ### Routing (R31, R32, R369, R509) -/

/-- The port that carries traffic to the peer at a board position: the lowest-numbered in-service port whose
partner reports it (R31). -/
def State.peerPort (s : State) (pos : Nat) : Option Nat :=
  (List.range 24).find? fun n => s.portServes (.utxon n) && s.partnerType n == 1 &&
    s.reg (E.utxonPartnerDevice n) == s.reg E.idBoardNumber * 8 + pos

/-- The lowest port to the peer at a position that is in RETRAIN. -/
def State.peerRetrain (s : State) (pos : Nat) : Option Nat :=
  (List.range 24).find? fun n => s.reg (E.utxonState n) == 3 && s.partnerType n == 1 &&
    s.reg (E.utxonPartnerDevice n) == s.reg E.idBoardNumber * 8 + pos

/-- Where a pool address goes (R32). -/
inductive Route where
  | own
  | via (port : Nat)
  | held (port : Nat)
  | linkLost
  | unroutable
  deriving DecidableEq, Repr

/-- The routing entry of a board: primary and ALT port (R379). -/
def State.routeEntry (s : State) (i : Nat) : Nat := SMap.get (fun _ => 0xFF) s.port.routes i

/-- Routing by device number (R32).  A request that a peer forwarded is not forwarded again within the board. -/
def State.routeOf (s : State) (addr : Nat) (peer : Bool) : Route :=
  let dev := bits addr 51 42
  if dev = s.deviceNumber then .own
  else if dev / 8 = s.reg E.idBoardNumber then
    let pos := dev % 8
    if bitOf (s.reg E.fencePeerFence) pos then .linkLost
    else if peer then .unroutable
    else match s.peerPort pos with
      | some n => .via n
      | none =>
        match s.peerRetrain pos with
        | some n => .held n
        | none => if bitOf (s.reg E.idKnownPeers) pos then .linkLost else .unroutable
  else
    let a := s.routeEntry (2 * (dev / 8))
    let b := s.routeEntry (2 * (dev / 8) + 1)
    if a = 0xFF ∧ b = 0xFF then .unroutable
    else if s.portServes (.utxon a) then .via a
    else if s.portServes (.utxon b) then .via b
    else if a < 24 ∧ s.reg (E.utxonState a) = 3 then .held a
    else if b < 24 ∧ s.reg (E.utxonState b) = 3 then .held b
    else .linkLost

/-! ### Responses -/

/-- A response on a port (R111): opcode, TAG, PRIORITY, AGENT, LOAD_LEVEL, STATUS, data and result block. -/
def mkRsp (r : Reply) (load status : Nat) (data : Line) (result : Option (Word × Word)) : OutMsg :=
  { msg := { opcode := r.opcode, status, load,
             resLo := (result.getD (0, 0)).1, resHi := (result.getD (0, 0)).2,
             req := { port := r.port, decoder := 0, addr := 0, tag := r.tag, prio := r.prio, data,
                      width := if result.isSome then 4 else 0 } },
    agent := r.agent }

/-- Send a response to a request (R112). -/
def State.respond (s : State) (r : Reply) (load status : Nat) (data : Line) (result : Option (Word × Word)) :
    State :=
  s.sendMsg r.port 2 (mkRsp r load status data result)

/-- The response that a request expects when no copy is granted: DATA_NC for reads and UPGRADE, ACK otherwise. -/
def plainRsp (op : Nat) : Nat := if op = 1 ∨ op = 2 ∨ op = 3 ∨ op = 4 then 0x3A else 0x3C

/-- The reply that answers a request without granting a copy. -/
def plainReply (s : State) (op : Nat) (r : Req) (prio : Nat) (c : Colour) : Reply :=
  { opcode := plainRsp op, port := r.port, tag := r.tag,
    agent := if s.caching r.port then s.portAgent r.port else 0, prio, colour := c }

/-- C of LOAD_LEVEL (R398). -/
def colourLoad : Colour → Nat
  | .green => 0
  | .yellow => 8
  | .released => 12

/-- Answer a request with no line slot used, with zero data or a zero result: a silent violation (R61) or a
status of its own. -/
def State.answerPlain (s : State) (op : Nat) (r : Req) (prio : Nat) (c : Colour) (status : Nat) : State :=
  s.respond (plainReply s op r prio c) (colourLoad c) status 0 (if isAtomic op then some (0, 0) else none)

/-- A silent violation: its FM-only counter rises, a read returns zero and a write is ignored (R61). -/
def State.violation (s : State) (key : Nat) (op : Nat) (r : Req) : State :=
  (s.bump key).answerPlain op r r.prio .green 0

end Sys2Proof.Machine
end

