-- ==== Sys2Proof/Machine/Stile.lean ====
section
/-! DEFINITION. The Stile unit: locks with leases, their settle, and every request to the Stile window (R151 to
R162). -/

namespace Sys2Proof.Machine

/-- What a lock that the table does not list is: FREE (R154, R158). -/
def StileSt.dflt (t : StileSt) (_ : Nat) : Lock := { broken := t.dfltBroken }

/-- Lock `k`. -/
def State.lock (s : State) (k : Nat) : Lock := SMap.get s.stile.dflt s.stile.locks k

/-- Set lock `k`. -/
def State.setLock (s : State) (k : Nat) (l : Lock) : State :=
  { s with stile := { s.stile with locks := SMap.set s.stile.dflt s.stile.locks k l } }

/-- Locks in HELD (R163). -/
def State.locksHeld (s : State) : Nat := (s.stile.locks.filter fun p => p.2.held).length

/-- Ticks of the settle (R162). -/
def State.settleTicks (s : State) : Nat := s.reg E.stileStileSettle * 800

/-- The lock freed with BROKEN = 1, its settle ending at `e` (R162). -/
def Lock.broke (l : Lock) (e : Nat) : Lock :=
  { l with held := false, broken := true, pitch := 0, source := 0, tag := 0, leaseEnd := e }

/-- The expiry check made before every operation on a lock (R156); a settle that has ended leaves LEASE_END 0. -/
def State.checkExpiry (s : State) (k : Nat) : State :=
  let l := s.lock k
  if l.held ∧ l.leaseEnd ≤ s.now then
    let s := (s.setLock k (l.broke (if l.leaseEnd + s.settleTicks ≤ s.now then 0 else l.leaseEnd + s.settleTicks))).bump
      E.stileExpiries
    { s with stile := { s.stile with expired := (s.stile.expired + 1) % 2 ^ 32 } }
  else if ¬ l.held ∧ l.leaseEnd ≠ 0 ∧ l.leaseEnd ≤ s.now then s.setLock k { l with leaseEnd := 0 }
  else s

/-- Break a HELD lock: FREE with BROKEN = 1, its settle starts, RESET_BREAKS increments (R158); a lock that is
not HELD stays as it is. -/
def State.breakLock (s : State) (k : Nat) : State :=
  let l := s.lock k
  if l.held then
    let s := (s.setLock k (l.broke (if s.settleTicks = 0 then 0 else s.now + s.settleTicks))).bump E.stileResetBreaks
    { s with stile := { s.stile with broken := (s.stile.broken + 1) % 2 ^ 32 } }
  else s

/-- Break every lock that a pitch holds (R65, R66). -/
def State.breakPitchLocks (s : State) (p : Nat) : State :=
  (s.stile.locks.filter fun e => e.2.held && e.2.pitch == p).foldl (fun s e => (s.checkExpiry e.1).breakLock e.1) s

/-- The pitch may operate the lock (R152). -/
def State.mayOperate (s : State) (p k : Nat) : Bool :=
  decide (s.reg (E.pitchStileBase p) ≤ k) && decide (k < s.reg (E.pitchStileBase p) + s.reg (E.pitchStileCount p))

/-- The lease a request asks for, in µs (R157). -/
def State.leaseUs (s : State) (l : Nat) : Nat :=
  if l = 0 then s.reg E.stileDefaultLease else min l (s.reg E.stileLeaseMax)

/-- The requester is the holder (R154). -/
def Lock.heldBy (l : Lock) (pitch src tag : Nat) : Bool :=
  l.held && l.pitch == pitch && l.source == src && l.tag == tag

/-- The result block of a Stile operation (R155). -/
def stileResult (code : Nat) (l : Lock) (self : Bool) : Word × Word :=
  (packWord [(0, code), (4, b2n l.broken), (5, b2n self), (32, l.generation)], BitVec.ofNat 64 l.leaseEnd)

/-- A Stile operation by its opcode on lock `k`, after the checks (R156, R157, R162): the state and the result
block. -/
def State.stileOp (s : State) (op k pitch src tag : Nat) (arg : Nat) : State × (Word × Word) :=
  let s := s.checkExpiry k
  let l := s.lock k
  let me := l.heldBy pitch src tag
  let ticks := s.leaseUs (arg % 2 ^ 32) * 800
  match op with
  | 0x1C =>
    if ¬ l.held ∧ l.leaseEnd = 0 then
      let l' := { l with held := true, pitch, source := src, tag, leaseEnd := s.now + ticks,
                         generation := (l.generation + 1) % 2 ^ 32, leaseTicks := ticks }
      let s := (s.setLock k l').bump E.stileAcquires
      ({ s with stile := { s.stile with acquired := (s.stile.acquired + 1) % 2 ^ 32 } }, stileResult 0 l' true)
    else (s.bump E.stileBusyResults, stileResult 1 l me)
  | 0x1D =>
    if me then
      let l' := { l with leaseEnd := s.now + ticks, leaseTicks := ticks }
      (s.setLock k l', stileResult 0 l' true)
    else (s, stileResult 2 l false)
  | 0x1E =>
    if me then
      let l' := { l with held := false, pitch := 0, source := 0, tag := 0, leaseEnd := 0,
                         broken := l.broken && !arg.testBit 32 }
      let s := s.setLock k l'
      ({ s with stile := { s.stile with released := (s.stile.released + 1) % 2 ^ 32 } }, stileResult 0 l' false)
    else (s, stileResult 2 l false)
  | _ => (s, stileResult (if l.held then 4 else 3) l me)

/-- The 32 B record of a lock (R154). -/
def lockRecord (l : Lock) : List Word :=
  [packWord [(0, b2n l.held), (2, b2n l.broken), (16, l.pitch), (28, l.source), (35, l.tag)],
   BitVec.ofNat 64 l.leaseEnd, BitVec.ofNat 64 l.generation, BitVec.ofNat 64 l.leaseTicks]

/-- Serve a request to the Stile window (R151 to R153, R157): the state, and the data, result block and status
kind of the answer. -/
def State.stileServe (s : State) (op : Nat) (r : Req) (src prio : Nat) (c : Colour) : State :=
  let k := bits r.addr 21 6
  let rep := plainReply s op r prio c
  if ¬ s.mayOperate r.pitch k then
    (s.bump E.violStileRange).respond rep (colourLoad c) 0 0 (if isAtomic op then some (0, 0) else none)
  else if op = 1 ∨ op = 2 ∨ op = 3 then
    let s := s.checkExpiry k
    s.respond rep (colourLoad c) 0 (lineOfWords (lockRecord (s.lock k))) none
  else if op = 4 ∨ op = 8 then s.respond { rep with opcode := 0x3C } (colourLoad c) 0 0 none
  else if op = 5 ∨ op = 6 ∨ op = 7 then (s.bump E.stileStileErrors).respond rep (colourLoad c) 0 0 none
  else if 0x1C ≤ op then
    if r.offset ≠ 0 ∨ r.width ≠ 0 then
      (s.bump E.stileStileErrors).respond rep (colourLoad c) 0 0 (some (0, 0))
    else
      let (s, res) := s.stileOp op k r.pitch src r.holderTag r.opLo.toNat
      s.respond rep (colourLoad c) 0 0 (some res)
  else (s.bump E.stileStileErrors).respond rep (colourLoad c) 0 0 (some (0, 0))

/-- Move every LEASE_END and settle end by the difference by which the count moves other than one per tick
(R156). -/
def State.shiftLeases (s : State) (d : Int) : State :=
  { s with stile := { s.stile with
      locks := s.stile.locks.map fun p =>
        (p.1, if p.2.leaseEnd = 0 then p.2 else { p.2 with leaseEnd := (p.2.leaseEnd + d).toNat }) } }

/-- The locks after a warm reset: every one FREE with BROKEN = 1, keeping its GENERATION (R158). -/
def StileSt.afterWarm (t : StileSt) : StileSt :=
  { locks := t.locks.foldl (fun m p =>
      SMap.set (fun _ => ({ broken := true } : Lock)) m p.1 { broken := true, generation := p.2.generation }) []
    dfltBroken := true, acquired := 0, released := 0, expired := 0, broken := 0 }

/-- The locks after a cold reset (R158). -/
def StileSt.afterCold : StileSt :=
  { locks := [], dfltBroken := false, acquired := 0, released := 0, expired := 0, broken := 0 }

end Sys2Proof.Machine
end

