-- ==== Sys2Proof/Machine/Doorbell.lean ====
section
/-! DEFINITION. Command rings by number, and the doorbell window (R234 to R236). -/

namespace Sys2Proof.Machine

/-- Ring `r` of pitch `p`. -/
def State.ring (s : State) (p r : Nat) : Ring := SMap.get (fun _ => {}) s.work.rings (16 * p + r)

/-- Set a ring. -/
def State.setRing (s : State) (p r : Nat) (x : Ring) : State :=
  { s with work := { s.work with rings := SMap.set (fun _ => {}) s.work.rings (16 * p + r) x } }

/-- A doorbell write of value `t` to ring `r` of pitch `p`. -/
def State.ringDoorbell (s : State) (p r t : Nat) : State :=
  let x := s.ring p r
  let n := seqSub 32 t x.tail
  if t = x.tail then s
  else if x.enable ∧ n ≤ 2 ^ x.log2 - seqSub 32 x.tail x.floor then s.setRing p r { x with tail := t % 2 ^ 32 }
  else s.bump (E.pitchDoorbellDrops p)

/-- A request to the doorbell of a ring, once admitted: checked under R59 with the doorbell's pitch; a store of bytes 0
to 7 rings it, a load returns TAIL, an atomic is not performed (R149), and any other request changes nothing. -/
def State.doorbellServe (s : State) (op : Nat) (r : Req) (prio slice : Nat) (c : Colour) : State :=
  let p := bits r.addr 23 12
  let ring := bits r.addr 9 6
  let st := s.reg (E.pitchState p)
  let rep := plainReply s op r prio c
  let refused := bits r.addr 11 10 ≠ 0
  if refused then (s.bump E.violUnmappedRange).answerPlain op r prio c 0
  else if st = 0 ∨ st = 4 then (s.bump E.violNoPitch).answerPlain op r prio c 0
  else if ¬ bitOf (s.reg (E.pitchBudgetClasses p)) r.bclass then (s.bump E.violBudgetClass).answerPlain op r prio c 0
  else if op = 1 ∨ op = 2 ∨ op = 3 then
    s.respond rep (colourLoad c) 0 (placeBytes 0 4 (s.ring p ring).tail) none
  else if op = 6 ∧ r.mask = 0xFF then
    (s.ringDoorbell p ring (takeBytes r.data 0 4)).respond rep (colourLoad c) 0 0 none
  else if isAtomic op then (s.bump (E.sliceProtocolErrors slice)).respond rep (colourLoad c) 0 0 (some (0, 0))
  else s.respond { rep with opcode := 0x3C } (colourLoad c) 0 0 none

end Sys2Proof.Machine
end

