-- ==== Sys2Proof/Machine/Flags.lean ====
section
/-! DEFINITION. The floating-point exception flags of the Pegs' fflags (R201). -/

namespace Sys2Proof.Machine

/-- The exception flags NV, DZ, OF, UF, NX as bits 4 to 0, as fflags holds them. -/
abbrev FFlags := Nat

/-- NX: the result is not exact. -/
def ffNx : FFlags := 1

/-- UF, which comes with NX. -/
def ffUf : FFlags := 3

/-- OF, which comes with NX. -/
def ffOf : FFlags := 5

/-- DZ: a finite value is divided by zero. -/
def ffDz : FFlags := 8

/-- NV: an invalid operation. -/
def ffNv : FFlags := 16

/-- The flag of rounding a result that neither overflows nor is exact. -/
def roundFlag (inexact tiny : Bool) : FFlags := if inexact then (if tiny then ffUf else ffNx) else 0

/-- NV for operands: a signalling NaN, or an invalid operation. -/
def nvFlag (b : Bool) : FFlags := if b then ffNv else 0

end Sys2Proof.Machine
end

