-- ==== Sys2Proof/Machine/Float.lean ====
section
/-! DEFINITION. Binary floating point: exact values, one rounding, and the operations that the atomics, the
Pegs, the engines and the collectives share (R148, R217 and the chapters that name FP32, FP64, BF16 and FP16). -/

namespace Sys2Proof.Machine

/-- A binary format: precision with the hidden bit, and exponent bits. -/
structure Fmt where
  p : Nat
  w : Nat
  deriving DecidableEq, Repr

/-- FP32. -/
def fp32 : Fmt := ⟨24, 8⟩

/-- FP64. -/
def fp64 : Fmt := ⟨53, 11⟩

/-- BF16. -/
def bf16 : Fmt := ⟨8, 8⟩

/-- FP16. -/
def fp16 : Fmt := ⟨11, 5⟩

/-- Rounding modes, in the coding of RISC-V's frm. -/
inductive RoundMode where
  | rne
  | rtz
  | rdn
  | rup
  | rmm
  deriving DecidableEq, Repr

/-- An exact value: (−1)^neg · m · 2^e, an infinity, or a NaN. -/
inductive Fv where
  | nan
  | inf (neg : Bool)
  | fin (neg : Bool) (m : Nat) (e : Int)
  deriving DecidableEq, Repr

/-- Width of a format in bits. -/
def Fmt.bits (f : Fmt) : Nat := f.p + f.w

/-- The encoding of +∞. -/
def Fmt.infBits (f : Fmt) : Nat := (2 ^ f.w - 1) * 2 ^ (f.p - 1)

/-- The sign bit's weight. -/
def Fmt.signBit (f : Fmt) : Nat := 2 ^ (f.p + f.w - 1)

/-- The canonical quiet NaN. -/
def Fmt.qnan (f : Fmt) : Nat := f.infBits + 2 ^ (f.p - 2)

/-- The exponent of the least unit: the weight of the last bit of a subnormal. -/
def Fmt.qmin (f : Fmt) : Int := 3 - (2 ^ (f.w - 1) : Nat) - (f.p : Nat)

/-- The value that an encoding stands for. -/
def Fmt.decode (f : Fmt) (x : Nat) : Fv :=
  let x := x % 2 ^ f.bits
  let neg := decide (f.signBit ≤ x)
  let a := x % f.signBit
  let ex := a / 2 ^ (f.p - 1)
  let fr := a % 2 ^ (f.p - 1)
  if ex = 2 ^ f.w - 1 then (if fr = 0 then .inf neg else .nan)
  else if ex = 0 then .fin neg fr f.qmin
  else .fin neg (fr + 2 ^ (f.p - 1)) (f.qmin + (ex - 1 : Nat))

/-- The encoding is a signalling NaN. -/
def Fmt.isSnan (f : Fmt) (x : Nat) : Bool :=
  f.decode x == .nan && !(x % 2 ^ f.bits).testBit (f.p - 2)

/-- Whether a magnitude between `n` and `n + 1` is rounded up: `rem` out of `2^d`, with a sticky part below. -/
def roundUp (rm : RoundMode) (neg : Bool) (n rem d : Nat) (sticky : Bool) : Bool :=
  let inexact := decide (rem ≠ 0) || sticky
  let half := if d = 0 then 0 else 2 ^ (d - 1)
  let above := decide (d ≠ 0) && (decide (half < rem) || (decide (rem = half) && sticky))
  let tie := decide (d ≠ 0) && decide (rem = half) && !sticky
  match rm with
  | .rne => above || (tie && n % 2 == 1)
  | .rmm => above || tie
  | .rtz => false
  | .rdn => neg && inexact
  | .rup => !neg && inexact

/-- A magnitude `m · 2^e` brought to the unit `2^q`: the integer part, the rest and its width. -/
def toUnit (m : Nat) (e q : Int) : Nat × Nat × Nat :=
  if q ≤ e then (m <<< (e - q).toNat, 0, 0)
  else
    let d := (q - e).toNat
    (m >>> d, m % 2 ^ d, d)

/-- Round (−1)^neg · m · 2^e, with a non-zero part below when `sticky`, to a format: the encoding and the flags
OF, UF and NX.  Tininess is detected after rounding. -/
def Fmt.round (f : Fmt) (rm : RoundMode) (neg : Bool) (m : Nat) (e : Int) (sticky : Bool) : Nat × FFlags :=
  let sg := if neg then f.signBit else 0
  if m = 0 ∧ ¬ sticky then (sg, 0)
  else
    let top : Int := e + (m.log2 : Nat)
    let q0 : Int := top - (f.p - 1 : Nat)
    let q := max q0 f.qmin
    let (n, rem, d) := toUnit m e q
    let n' := if roundUp rm neg n rem d sticky then n + 1 else n
    let mag := (q - f.qmin).toNat * 2 ^ (f.p - 1) + n'
    let inexact := decide (rem ≠ 0) || sticky
    if f.infBits ≤ mag then
      let toInf := match rm with
        | .rne | .rmm => true
        | .rtz => false
        | .rdn => neg
        | .rup => !neg
      (sg + (if toInf then f.infBits else f.infBits - 1), ffOf)
    else
      let tiny := decide (m = 0) ||
        (let (n0, r0, d0) := toUnit m e q0
         let n1 := if roundUp rm neg n0 r0 d0 sticky then n0 + 1 else n0
         decide (q0 + (if 2 ^ f.p ≤ n1 then 1 else 0) < f.qmin))
      (sg + mag, roundFlag inexact tiny)

/-- Encode an exact value, rounding once. -/
def Fmt.encode (f : Fmt) (rm : RoundMode) (v : Fv) : Nat × FFlags :=
  match v with
  | .nan => (f.qnan, 0)
  | .inf neg => ((if neg then f.signBit else 0) + f.infBits, 0)
  | .fin neg m e => f.round rm neg m e false

/-- The sign of an exact sum of zero: − only when both addends are −0, or when rounding down with unlike signs. -/
def zeroSign (rm : RoundMode) (a b : Bool) : Bool := (a && b) || (decide (rm = .rdn) && (a || b))

/-- A signed exact integer over 2^e. -/
def signedMant (neg : Bool) (m : Nat) : Int := if neg then -(m : Int) else m

/-- The exact sum of two finite values, with the sign of a zero sum. -/
def finSum (rm : RoundMode) (na : Bool) (ma : Nat) (ea : Int) (nb : Bool) (mb : Nat) (eb : Int) : Fv :=
  let e := min ea eb
  let v := signedMant na ma * (2 ^ (ea - e).toNat : Nat) + signedMant nb mb * (2 ^ (eb - e).toNat : Nat)
  if v = 0 then .fin (if ma = 0 ∧ mb = 0 then zeroSign rm na nb else decide (rm = .rdn)) 0 e
  else .fin (decide (v < 0)) v.natAbs e

/-- Exact addition: NaN and opposite infinities give NaN. -/
def Fv.add (rm : RoundMode) (a b : Fv) : Fv :=
  match a, b with
  | .nan, _ | _, .nan => .nan
  | .inf x, .inf y => if x = y then .inf x else .nan
  | .inf x, _ => .inf x
  | _, .inf y => .inf y
  | .fin na ma ea, .fin nb mb eb => finSum rm na ma ea nb mb eb

/-- Negation. -/
def Fv.neg : Fv → Fv
  | .nan => .nan
  | .inf x => .inf (!x)
  | .fin n m e => .fin (!n) m e

/-- Magnitude. -/
def Fv.abs : Fv → Fv
  | .nan => .nan
  | .inf _ => .inf false
  | .fin _ m e => .fin false m e

/-- Exact multiplication: zero times infinity gives NaN. -/
def Fv.mul (a b : Fv) : Fv :=
  match a, b with
  | .nan, _ | _, .nan => .nan
  | .inf x, .inf y => .inf (x != y)
  | .inf x, .fin n m _ => if m = 0 then .nan else .inf (x != n)
  | .fin n m _, .inf y => if m = 0 then .nan else .inf (n != y)
  | .fin na ma ea, .fin nb mb eb => .fin (na != nb) (ma * mb) (ea + eb)

/-- Zero. -/
def Fv.isZero : Fv → Bool
  | .fin _ m _ => m == 0
  | _ => false

/-- Not a NaN and not an infinity. -/
def Fv.finite : Fv → Bool
  | .fin _ _ _ => true
  | _ => false

/-- The sign. -/
def Fv.sign : Fv → Bool
  | .nan => false
  | .inf n => n
  | .fin n _ _ => n

/-- Invalid operation of a sum. -/
def addInvalid (a b : Fv) : Bool :=
  match a, b with
  | .inf x, .inf y => x != y
  | _, _ => false

/-- Invalid operation of a product. -/
def mulInvalid (a b : Fv) : Bool :=
  match a, b with
  | .inf _, .fin _ m _ => m == 0
  | .fin _ m _, .inf _ => m == 0
  | _, _ => false

/-- Sum of encodings, rounded once. -/
def Fmt.add (f : Fmt) (rm : RoundMode) (a b : Nat) : Nat × FFlags :=
  let x := f.decode a
  let y := f.decode b
  let r := f.encode rm (x.add rm y)
  (r.1, r.2 ||| nvFlag (f.isSnan a || f.isSnan b || addInvalid x y))

/-- Product of encodings, rounded once. -/
def Fmt.mul (f : Fmt) (rm : RoundMode) (a b : Nat) : Nat × FFlags :=
  let x := f.decode a
  let y := f.decode b
  let r := f.encode rm (x.mul y)
  (r.1, r.2 ||| nvFlag (f.isSnan a || f.isSnan b || mulInvalid x y))

/-- a · b + c, rounded once, with the signs of the product and the addend as given. -/
def Fmt.fma (f : Fmt) (rm : RoundMode) (negProd negAdd : Bool) (a b c : Nat) : Nat × FFlags :=
  let x := f.decode a
  let y := f.decode b
  let z := if negAdd then (f.decode c).neg else f.decode c
  let pr := if negProd then (x.mul y).neg else x.mul y
  let r := f.encode rm (pr.add rm z)
  (r.1, r.2 ||| nvFlag (f.isSnan a || f.isSnan b || f.isSnan c || mulInvalid x y || addInvalid pr z))

/-- Quotient of encodings, rounded once. -/
def Fmt.div (f : Fmt) (rm : RoundMode) (a b : Nat) : Nat × FFlags :=
  let x := f.decode a
  let y := f.decode b
  let sn := nvFlag (f.isSnan a || f.isSnan b)
  let sg := fun (n : Bool) => if n then f.signBit else 0
  match x, y with
  | .nan, _ | _, .nan => (f.qnan, sn)
  | .inf _, .inf _ => (f.qnan, ffNv)
  | .inf n, .fin n' _ _ => (sg (n != n') + f.infBits, 0)
  | .fin n _ _, .inf n' => (sg (n != n'), 0)
  | .fin na ma ea, .fin nb mb eb =>
    if mb = 0 then (if ma = 0 then (f.qnan, ffNv) else (sg (na != nb) + f.infBits, ffDz))
    else
      let sh := 2 * f.p + 4 + mb.log2
      let qn := (ma <<< sh) / mb
      f.round rm (na != nb) qn (ea - eb - (sh : Nat)) (decide ((ma <<< sh) % mb ≠ 0))

/-- The integer square root by bisection on its bits. -/
def isqrt (n : Nat) : Nat :=
  (List.range (n.log2 / 2 + 1)).foldr (fun i r => if (r + 2 ^ i) * (r + 2 ^ i) ≤ n then r + 2 ^ i else r) 0

/-- Square root of an encoding, rounded once. -/
def Fmt.sqrt (f : Fmt) (rm : RoundMode) (a : Nat) : Nat × FFlags :=
  match f.decode a with
  | .nan => (f.qnan, nvFlag (f.isSnan a))
  | .inf n => if n then (f.qnan, ffNv) else (f.infBits, 0)
  | .fin n m e =>
    if m = 0 then (if n then f.signBit else 0, 0)
    else if n then (f.qnan, ffNv)
    else
      let sh := 2 * (f.p + 4) + (if e % 2 = 0 then 0 else 1)
      let x := m <<< sh
      let r := isqrt x
      f.round rm false r ((e - (sh : Nat)) / 2) (decide (r * r ≠ x))

/-- The order of two values: less, equal, greater, or none with a NaN. -/
def Fv.cmp (a b : Fv) : Option Ordering :=
  match a, b with
  | .nan, _ | _, .nan => none
  | .inf x, .inf y => some (if x = y then .eq else if x then .lt else .gt)
  | .inf x, _ => some (if x then .lt else .gt)
  | _, .inf y => some (if y then .gt else .lt)
  | .fin na ma ea, .fin nb mb eb =>
    let e := min ea eb
    some (compare (signedMant na ma * (2 ^ (ea - e).toNat : Nat)) (signedMant nb mb * (2 ^ (eb - e).toNat : Nat)))

/-- a < b, false with a NaN. -/
def Fv.lt (a b : Fv) : Bool := a.cmp b == some .lt

/-- a ≤ b, false with a NaN. -/
def Fv.le (a b : Fv) : Bool := a.cmp b == some .lt || a.cmp b == some .eq

/-- a = b, false with a NaN. -/
def Fv.eq (a b : Fv) : Bool := a.cmp b == some .eq

/-- The integer that a value rounds to. -/
def Fv.toInt (rm : RoundMode) (v : Fv) : Option (Int × Bool) :=
  match v with
  | .fin n m e =>
    let (q, rem, d) := toUnit m e 0
    let q' := if roundUp rm n q rem d false then q + 1 else q
    some (signedMant n q', decide (rem ≠ 0))
  | _ => none

/-- An integer as a value. -/
def Fv.ofInt (i : Int) : Fv := .fin (decide (i < 0)) i.natAbs 0

/-- Convert between formats, rounding once. -/
def convertFmt (src dst : Fmt) (rm : RoundMode) (x : Nat) : Nat × FFlags :=
  let r := dst.encode rm (src.decode x)
  (r.1, r.2 ||| nvFlag (src.isSnan x))

/-- FADD of R148: FP32 sum, round to nearest even, NaN 0x7FC0_0000. -/
def fadd32 (a b : Nat) : Nat := (fp32.add .rne a b).1

/-- FP32 product, round to nearest even. -/
def fmul32 (a b : Nat) : Nat := (fp32.mul .rne a b).1

end Sys2Proof.Machine
end

