-- ==== Sys2Proof/Machine/Memory.lean ====
section
/-! DEFINITION. Stacked memory: where a line lies, how its word is read and written, the Groundsheet, degraded
service and relocation (R167 to R187, R554), and the Sward (R188, R189). -/

namespace Sys2Proof.Machine

/-! ### Where a line lies -/

/-- Lines of stacked memory: 2^34 (R36). -/
def stackedLines : Nat := 2 ^ 34

/-- Slots of a stack (R167). -/
def stackSlots : Nat := 2 ^ 30

/-- The slot number of index `k` of stack `st`. -/
def slotOf (st k : Nat) : Nat := st * stackSlots + k

/-- First protected line: GROUNDSHEET_BASE ÷ 64. -/
def State.protBase (s : State) : Nat := s.reg E.eccGroundsheetBase / 64

/-- Protected lines: 15/16 of the lines from GROUNDSHEET_BASE on (R168). -/
def State.protLines (s : State) : Nat := (stackedLines - s.protBase) / 16 * 15

/-- The home of a line: unprotected on a stack and index (R167), or position `j` of stripe `t` (R169), or
without backing (R168). -/
inductive Home where
  | plain (st k : Nat)
  | prot (t j st k : Nat)
  | none
  deriving DecidableEq, Repr

/-- The stack of position `j` of stripe `t`; its parity line is on stack t mod 16 (R169). -/
def stripeStack (t j : Nat) : Nat := (t % 16 + 1 + j) % 16

/-- The index that the 16 lines of stripe `t` share (R169). -/
def State.stripeIndex (s : State) (t : Nat) : Nat := s.protBase / 16 + t

/-- Where line `ln` lies (R167, R169). -/
def State.home (s : State) (ln : Nat) : Home :=
  if ln < s.protBase then .plain (ln % 16) (ln / 16)
  else
    let lp := ln - s.protBase
    if lp < s.protLines then
      .prot (lp / 15) (lp % 15) (stripeStack (lp / 15) (lp % 15)) (s.stripeIndex (lp / 15))
    else .none

/-- Channel of index `k` within its stack (R170). -/
def channelOf (k : Nat) : Nat := bits k 4 0

/-- The bank that index `k` selects: channel, pseudo-channel and bank address (R170). -/
def bankOf (k : Nat) : Nat := bits k 5 0 + 64 * bits k 16 11

/-- STATE of a stack. -/
def State.stackState (s : State) (st : Nat) : Nat := s.reg (E.stackState st)

/-- The unit that holds index `k` of stack `st` is retired (R183). -/
def State.unitRetired (s : State) (st k : Nat) : Bool :=
  s.stackState st == 5 || bitOf (s.reg (E.stackRetiredChannels st)) (channelOf k)

/-- A protected slot of a stack that came back from a fence and waits for REBUILD (R500). -/
def State.slotStale (s : State) (st k : Nat) : Bool :=
  s.mem.stale.contains st && decide (s.protBase / 16 ≤ k) &&
    !SMap.get (fun _ => false) s.mem.fresh (slotOf st k)

/-- How a slot can be reached: at a physical slot, lost with its unit, on a fenced stack or stale, or on a
stack that does not serve yet (R183, R484, R500). -/
inductive Place where
  | here (slot : Nat)
  | lost
  | fenced
  | offline
  deriving DecidableEq, Repr

/-- The place of index `k` of stack `st`; a relocated slot is found at its new place (R184). -/
def State.place (s : State) (st k : Nat) : Place :=
  if s.unitRetired st k then
    match SMap.get (fun _ => 0) s.mem.reloc (slotOf st k) with
    | 0 => .lost
    | p + 1 => if s.stackState (p / stackSlots) = 3 then .here p else .fenced
  else match s.stackState st with
    | 3 => if s.slotStale st k then .fenced else .here (slotOf st k)
    | 4 => .fenced
    | _ => .offline

/-! ### Words of slots -/

/-- The kind of a slot's word. -/
def State.slotKind (s : State) (slot : Nat) : SlotKind := SMap.get (fun _ => .neverWritten) s.mem.kinds slot

/-- The data bytes stored for a slot. -/
def State.slotData (s : State) (slot : Nat) : Line :=
  lineOfBytes ((List.range 64).map fun b => SMap.get (fun _ => 0) s.mem.bytes (slot * 64 + b))

/-- The error pattern of a slot's stored word. -/
def State.slotErr (s : State) (slot : Nat) : Nat := SMap.get (fun _ => 0) s.mem.errs slot

/-- Store 64 data bytes at a slot. -/
def storeBytes (m : List Host.Cell) (slot : Nat) (d : Line) : List Host.Cell :=
  (List.range 64).foldl (fun m b => SMap.set (fun _ => 0) m (slot * 64 + b) (lineByte d b)) m

/-- Store a word at a slot. -/
def State.setSlot (s : State) (slot : Nat) (kind : SlotKind) (d : Line) (err : Nat) : State :=
  { s with mem := { s.mem with
      bytes := storeBytes s.mem.bytes slot (if kind = .codeword then d else 0)
      kinds := SMap.set (fun _ => SlotKind.neverWritten) s.mem.kinds slot kind
      errs := SMap.set (fun _ => 0) s.mem.errs slot err } }

/-- Read the word of a slot with the errors `err` of this access (R172, R176). -/
def State.readSlot (s : State) (slot err : Nat) : WordRead :=
  readWord (s.reg E.eccEccMode) (s.slotKind slot) (s.slotData slot) (s.slotErr slot ^^^ err)

/-- Count what a read of a slot found, on its stack and channel (R172, R173, R176). -/
def State.noteRead (s : State) (slot : Nat) (r : WordRead) : State :=
  let st := slot / stackSlots
  let ch := channelOf (slot % stackSlots)
  match r with
  | .good _ => s
  | .corrected _ => (s.bump (E.stackCorrected st)).bump (E.stackChCorrected st ch)
  | .neverWritten => s.bump (E.stackNeverWrittenReads st)
  | .poisoned => s.bump (E.stackPoisonReads st)
  | .uncorrectable => (s.bump (E.stackUncorrected st)).bump (E.stackChUncorrected st ch)

/-- Count what a read of a stripe-mate found: corrections and uncorrectable words only. -/
def State.noteMate (s : State) (slot : Nat) (r : WordRead) : State :=
  match r with
  | .corrected _ | .uncorrectable => s.noteRead slot r
  | _ => s

/-- The pool address of a local line. -/
def State.poolLine (s : State) (ln : Nat) : Nat := s.deviceNumber * 2 ^ 42 + ln * 64

/-- Report a line whose data are lost (R522, code UNCORRECTED). -/
def State.logUncorrected (s : State) (ln : Nat) : State :=
  s.logEvent 0x000D 2 0xFFF 0 (s.poolLine ln)

/-! ### Stripes (R554) -/

/-- The contribution of a word to its stripe's parity: its data, or zero where it reads as never-written or
poisoned; none where it cannot be read. -/
def WordRead.contribution : WordRead → Option Line
  | .good d => some d
  | .corrected d => some d
  | .neverWritten => some 0
  | .poisoned => some 0
  | .uncorrectable => Option.none

/-- The data of a word where it holds any. -/
def WordRead.data? : WordRead → Option Line
  | .good d => some d
  | .corrected d => some d
  | _ => Option.none

/-- Read position `j` of stripe `t` as a stripe-mate: what its word holds, none where its slot cannot be
reached. -/
def State.readMate (s : State) (t j : Nat) : State × Option WordRead :=
  match s.place (stripeStack t j) (s.stripeIndex t) with
  | .here slot =>
    let r := s.readSlot slot 0
    (s.noteMate slot r, some r)
  | _ => (s, Option.none)

/-- Read the positions of stripe `t` other than `j`: each position with what was found. -/
def State.readMates (s : State) (t j : Nat) : State × List (Nat × Option WordRead) :=
  ((List.range 15).filter (· != j)).foldl (fun acc i =>
    let r := acc.1.readMate t i
    (r.1, acc.2 ++ [(i, r.2)])) (s, [])

/-- The parity word of stripe `t` (R554): never-written stands for zero, and a poisoned word is handled as
uncorrectable (R180); none where it cannot be read. -/
def State.readParity (s : State) (t : Nat) : State × Option Line × Bool :=
  match s.place (t % 16) (s.stripeIndex t) with
  | .here slot =>
    let r := s.readSlot slot 0
    let s := s.noteMate slot r
    match r with
    | .good d | .corrected d => (s, some d, true)
    | .neverWritten => (s, some 0, true)
    | .poisoned | .uncorrectable => (s, Option.none, true)
  | _ => (s, Option.none, false)

/-- The XOR of the contributions of mates, with the positions whose contribution cannot be had. -/
def mateSum (ms : List (Nat × Option WordRead)) : Line × List Nat :=
  ms.foldl (fun acc m =>
    match m.2 with
    | Option.none => (acc.1, acc.2 ++ [m.1])
    | some r => match r.contribution with
      | some d => (acc.1 ^^^ d, acc.2)
      | Option.none => (acc.1, acc.2 ++ [m.1])) (0, [])

/-- Write the parity of stripe `t` where its slot can be reached. -/
def State.writeParity (s : State) (t : Nat) (d : Line) : State :=
  match s.place (t % 16) (s.stripeIndex t) with
  | .here slot => s.setSlot slot .codeword d 0
  | _ => s

/-- Store POISON_WORD at the positions of a stripe whose data cannot be recovered, and report each (R180). -/
def State.poisonMates (s : State) (t : Nat) (js : List Nat) : State :=
  js.foldl (fun s j =>
    match s.place (stripeStack t j) (s.stripeIndex t) with
    | .here slot => ((s.setSlot slot .poisoned 0 0).bump (E.stackUncorrected (slot / stackSlots))).logUncorrected
        (s.protBase + 15 * t + j)
    | _ => s) s

/-- A relocated protected line is a member of the stripe of its new place too (R184): that stripe's parity
follows a change of the word from contribution `old` to `new`. -/
def State.fixSecondStripe (s : State) (slot t : Nat) (old new : Line) : State :=
  let k := slot % stackSlots
  if s.protBase / 16 ≤ k ∧ k - s.protBase / 16 ≠ t then
    let t' := k - s.protBase / 16
    match s.readParity t' with
    | (s, some p, true) => s.writeParity t' (p ^^^ old ^^^ new)
    | (s, _, _) => s
  else s

/-! ### Lines -/

/-- The outcome of an access to a line: the state, whether it has data (a read) or was performed (a write), the
data, and the line slots used by stack (R382). -/
structure MemRes where
  s : State
  ok : Bool
  data : Line
  cost : List (Nat × Nat)

/-- One slot on each of the stacks of stripe `t` other than `st`. -/
def otherStacks (st : Nat) : List (Nat × Nat) := ((List.range 16).filter (· != st)).map fun x => (x, 1)

/-- A degraded read of position `j` of stripe `t` (R183): the parity XOR the contributions of the others. -/
def State.degradedRead (s : State) (t j : Nat) : MemRes :=
  let st := stripeStack t j
  let (s, p, _) := s.readParity t
  let (s, ms) := s.readMates t j
  let (sum, bad) := mateSum ms
  let s := s.bump E.eccDegradedReads
  match p, bad with
  | some d, [] => ⟨s, true, d ^^^ sum, otherStacks st⟩
  | _, _ => ⟨s, false, 0, otherStacks st⟩

/-- Reconstruction of an uncorrectable protected line (R173): a second uncorrectable line, or one that is
never-written or poisoned, leaves the read with STATUS POISON; otherwise the line is written back. -/
def State.reconstruct (s : State) (slot t j : Nat) : MemRes :=
  let st := stripeStack t j
  let (s, ms) := s.readMates t j
  let ps := match s.place (t % 16) (s.stripeIndex t) with
    | .here q => let r := s.readSlot q 0; (s.noteMate q r, r.data?)
    | _ => (s, Option.none)
  let s := ps.1
  let ds := ms.map fun m => m.2.bind WordRead.data?
  match ps.2, ds.all Option.isSome with
  | some p, true =>
    let d := ds.foldl (fun acc x => acc ^^^ x.getD 0) p
    ⟨(s.setSlot slot .codeword d 0).bump E.eccRebuiltLines, true, d, otherStacks st ++ [(st, 1)]⟩
  | _, _ => ⟨s, false, 0, otherStacks st⟩

/-- Read a line through the ECC path, with the errors `err` that the access meets (R172 to R176, R183). -/
def State.readLine (s : State) (ln err : Nat) : MemRes :=
  match s.home ln with
  | .none => ⟨s, false, 0, []⟩
  | .plain st k =>
    match s.place st k with
    | .here slot =>
      let r := s.readSlot slot err
      let s := s.noteRead slot r
      let cost := [(slot / stackSlots, 1)]
      match r with
      | .good d | .corrected d => ⟨s, true, d, cost⟩
      | .uncorrectable => ⟨s.logUncorrected ln, false, 0, cost⟩
      | .neverWritten | .poisoned => ⟨s, false, 0, cost⟩
    | _ => ⟨s, false, 0, []⟩
  | .prot t j st k =>
    match s.place st k with
    | .here slot =>
      let r := s.readSlot slot err
      let s := s.noteRead slot r
      let cost := [(slot / stackSlots, 1)]
      match r with
      | .good d | .corrected d => ⟨s, true, d, cost⟩
      | .neverWritten | .poisoned => ⟨s, false, 0, cost⟩
      | .uncorrectable =>
        let m := s.reconstruct slot t j
        ⟨m.s, m.ok, m.data, cost ++ m.cost⟩
    | .lost | .fenced => s.degradedRead t j
    | .offline => ⟨s, false, 0, []⟩

/-- The error pattern that an armed check-path test stores with a whole-line write of the line, and the state
with the test disarmed (R179). -/
def State.takeTest (s : State) (ln : Nat) (whole : Bool) : State × Nat :=
  if whole ∧ s.reg E.eccTestArm = 1 ∧ s.reg E.eccTestLine / 64 = ln then
    let m := s.reg E.eccTestDataMask + 2 ^ 64 * s.reg E.eccTestCheckMask
    (s.setReg E.eccTestArm 0,
      (List.range 72).foldl (fun acc p => if m.testBit p then acc + (0xFF <<< (8 * p)) else acc) 0)
  else (s, 0)

/-- A write to an unprotected line whose slot is at `slot` (R174); a narrow one answers with the old data. -/
def State.writePlain (s : State) (ln slot : Nat) (whole : Bool) (f : Line → Line) (err : Nat) : MemRes :=
  let st := slot / stackSlots
  if whole then
    let (s, e) := s.takeTest ln true
    ⟨s.setSlot slot .codeword (f 0) e, true, 0, [(st, 1)]⟩
  else
    let s := s.bump (E.stackRmwCount st)
    let r := s.readSlot slot err
    let s := s.noteRead slot r
    match r with
    | .good d | .corrected d => ⟨s.setSlot slot .codeword (f d) 0, true, d, [(st, 2)]⟩
    | .uncorrectable => ⟨s.logUncorrected ln, false, 0, [(st, 2)]⟩
    | .neverWritten | .poisoned => ⟨s, false, 0, [(st, 2)]⟩

/-- Count what the read before a protected write found; a whole-line write over a word without data counts
nothing. -/
def State.noteProt (s : State) (slot : Nat) (whole : Bool) (r : WordRead) : State :=
  match r with
  | .neverWritten | .poisoned => if whole then s else s.noteRead slot r
  | _ => s.noteRead slot r

/-- Store the new word of a protected line, with the errors of an armed test, and its stripe's parity (R179,
R180). -/
def State.storeProt (s : State) (ln slot t : Nat) (whole : Bool) (new parity : Line) : State :=
  ((s.takeTest ln whole).1.setSlot slot .codeword new (s.takeTest ln whole).2).writeParity t parity

/-- A protected write whose parity is computed from the 15 lines: those that cannot be read are lost (R180). -/
def State.writeByLines (s : State) (ln t j slot : Nat) (whole : Bool) (old new : Line)
    (cost : List (Nat × Nat)) : MemRes :=
  let (s, ms) := s.readMates t j
  let (sum, bad) := mateSum ms
  let cost := cost ++ (otherStacks (slot / stackSlots)).filter (fun x => x.1 != t % 16)
  if bad ≠ [] ∧ ¬ whole then ⟨s, false, 0, cost⟩
  else ⟨(s.poisonMates t bad).storeProt ln slot t whole new (sum ^^^ new), true, old,
    cost ++ bad.map fun b => (stripeStack t b, 1)⟩

/-- A protected write whose parity `p` follows from the old data and the new (R180). -/
def State.writeByDelta (s : State) (ln t slot : Nat) (whole : Bool) (old new p : Line)
    (cost : List (Nat × Nat)) : MemRes :=
  ⟨(s.storeProt ln slot t whole new (p ^^^ old ^^^ new)).fixSecondStripe slot t old new, true, old, cost⟩

/-- A protected write over an uncorrectable word: its old data come from the parity and the other 14 lines, or
are lost with those that cannot be read (R180). -/
def State.writeOverLost (s : State) (ln t j slot : Nat) (whole : Bool) (f : Line → Line) (p : Line)
    (cost : List (Nat × Nat)) : MemRes :=
  let (s, ms) := s.readMates t j
  let (sum, bad) := mateSum ms
  let cost := cost ++ (otherStacks (slot / stackSlots)).filter (fun x => x.1 != t % 16)
  match bad with
  | [] => s.writeByDelta ln t slot whole (p ^^^ sum) (f (p ^^^ sum)) p cost
  | _ :: _ =>
    if whole then ⟨(s.poisonMates t bad).storeProt ln slot t whole (f 0) (sum ^^^ f 0), true, 0,
      cost ++ bad.map fun b => (stripeStack t b, 1)⟩
    else ⟨s, false, 0, cost⟩

/-- A protected write whose parity slot is retired: the data alone are stored, at one slot (R183). -/
def State.writeNoParity (s : State) (ln slot : Nat) (whole : Bool) (f : Line → Line) (r : WordRead)
    (cost : List (Nat × Nat)) : MemRes :=
  if whole then ⟨(s.takeTest ln true).1.setSlot slot .codeword (f 0) (s.takeTest ln true).2, true, 0, cost⟩
  else match r.data? with
    | some d => ⟨s.setSlot slot .codeword (f d) 0, true, d, cost⟩
    | Option.none => ⟨s, false, 0, cost⟩

/-- A write to position `j` of stripe `t`, whose data slot is at `slot` (R180). -/
def State.writeProt (s : State) (ln t j slot : Nat) (whole : Bool) (f : Line → Line) (err : Nat) : MemRes :=
  let st := slot / stackSlots
  let s := if whole then s else s.bump (E.stackRmwCount st)
  let r := s.readSlot slot err
  let (s, par, reachable) := (s.noteProt slot whole r).readParity t
  let cost := if reachable then [(st, 2), (t % 16, 2)] else [(st, 1)]
  if ¬ reachable then s.writeNoParity ln slot whole f r cost
  else
    match r, par with
    | .neverWritten, some p | .poisoned, some p =>
      if whole then s.writeByDelta ln t slot whole 0 (f 0) p cost else ⟨s, false, 0, cost⟩
    | .neverWritten, Option.none | .poisoned, Option.none | .uncorrectable, Option.none =>
      if whole then s.writeByLines ln t j slot whole 0 (f 0) cost else ⟨s, false, 0, cost⟩
    | .good d, some p | .corrected d, some p => s.writeByDelta ln t slot whole d (f d) p cost
    | .good d, Option.none | .corrected d, Option.none => s.writeByLines ln t j slot whole d (f d) cost
    | .uncorrectable, some p => s.writeOverLost ln t j slot whole f p cost

/-- A degraded write to position `j` of stripe `t`, whose slot holds nothing (R183). -/
def State.degradedWrite (s : State) (t j : Nat) (whole : Bool) (f : Line → Line) : MemRes :=
  let st := stripeStack t j
  let (s, par, reachable) := s.readParity t
  let (s, ms) := s.readMates t j
  let (sum, bad) := mateSum ms
  let cost := otherStacks st
  if ¬ reachable then ⟨s, false, 0, cost⟩
  else if whole then
    ⟨(s.poisonMates t bad).writeParity t (sum ^^^ f 0), true, 0, cost⟩
  else match par, bad with
    | some p, [] => ⟨s.writeParity t (sum ^^^ f (p ^^^ sum)), true, p ^^^ sum, cost⟩
    | _, _ => ⟨s, false, 0, cost⟩

/-- A stack that a write needs does not serve yet (R484). -/
def State.writeOffline (s : State) (ln : Nat) : Bool :=
  match s.home ln with
  | .plain st k => s.place st k == .offline
  | .prot t _ st k => s.place st k == .offline || s.place (t % 16) k == .offline
  | .none => true

/-- Write a line through the ECC path: `whole` replaces the line by `f 0`, and a narrow write replaces the old
data `d` by `f d` and answers with `d` (R174, R180, R183, R484). -/
def State.updateLine (s : State) (ln : Nat) (whole : Bool) (f : Line → Line) (err : Nat) : MemRes :=
  if s.writeOffline ln then ⟨s, false, 0, []⟩
  else match s.home ln with
    | .none => ⟨s, false, 0, []⟩
    | .plain st k =>
      match s.place st k with
      | .here slot => s.writePlain ln slot whole f err
      | _ => ⟨s, false, 0, []⟩
    | .prot t j st k =>
      match s.place st k with
      | .here slot => s.writeProt ln t j slot whole f err
      | .lost | .fenced => s.degradedWrite t j whole f
      | .offline => ⟨s, false, 0, []⟩

/-- Write the masked bytes of a line (R174). -/
def State.writeLine (s : State) (ln : Nat) (mask : Mask) (data : Line) (err : Nat) : MemRes :=
  s.updateLine ln (decide (mask = fullMask)) (mergeLine mask data) err

/-- A write of this form would end with STATUS POISON before it reaches a controller: its slot cannot take it
(R183, R484, R497, R500). -/
def State.writeRefused (s : State) (ln : Nat) : Bool :=
  s.writeOffline ln ||
    match s.home ln with
    | .none => true
    | .plain st k => match s.place st k with
      | .here _ => false
      | _ => true
    | .prot t _ st k => match s.place st k with
      | .here _ => false
      | _ => match s.place (t % 16) k with
        | .here _ => false
        | _ => true

/-- A read of this form ends with STATUS POISON at once (R183, R484, R500). -/
def State.readRefused (s : State) (ln : Nat) : Bool :=
  match s.home ln with
  | .none => true
  | .plain st k => match s.place st k with
    | .here _ => false
    | _ => true
  | .prot _ _ st k => s.place st k == .offline

/-- Store a word that holds no data at a line, never-written or poisoned, and take the line's contribution out
of its parity (R126, R180, R554). -/
def State.blankLine (s : State) (ln : Nat) (kind : SlotKind) : MemRes :=
  match s.home ln with
  | .none => ⟨s, false, 0, []⟩
  | .plain st k =>
    match s.place st k with
    | .here slot => ⟨s.setSlot slot kind 0 0, true, 0, [(slot / stackSlots, 1)]⟩
    | _ => ⟨s, false, 0, []⟩
  | .prot t j st k =>
    match s.place st k with
    | .here slot =>
      let r := s.readSlot slot 0
      let s := s.noteMate slot r
      let (s, par, reachable) := s.readParity t
      let cost := if reachable then [(slot / stackSlots, 2), (t % 16, 2)] else [(slot / stackSlots, 1)]
      if ¬ reachable then ⟨s.setSlot slot kind 0 0, true, 0, cost⟩
      else match r.contribution, par with
        | some d, some p =>
          ⟨((s.setSlot slot kind 0 0).writeParity t (p ^^^ d)).fixSecondStripe slot t d 0, true, 0, cost⟩
        | _, _ =>
          let (s, ms) := s.readMates t j
          let (sum, bad) := mateSum ms
          ⟨((s.poisonMates t bad).setSlot slot kind 0 0).writeParity t sum, true, 0,
            cost ++ (otherStacks (slot / stackSlots)).filter (fun x => x.1 != t % 16)⟩
    | .lost | .fenced =>
      let (s, ms) := s.readMates t j
      let (sum, bad) := mateSum ms
      ⟨(s.poisonMates t bad).writeParity t sum, true, 0, otherStacks st⟩
    | .offline => ⟨s, false, 0, []⟩

/-- A full-stripe write: parity from the 15 new lines, without reading (R181). -/
def State.writeStripe (s : State) (t : Nat) (ds : List Line) : State :=
  let s := (ds.zipIdx).foldl (fun s p =>
    match s.place (stripeStack t p.2) (s.stripeIndex t) with
    | .here slot =>
      let (s, e) := s.takeTest (s.protBase + 15 * t + p.2) true
      s.setSlot slot .codeword p.1 e
    | _ => s) s
  (s.writeParity t (ds.foldl (· ^^^ ·) 0)).bump E.eccFullStripeWrites

/-! ### The Sward (R188, R189) -/

/-- Lines of one Bivouac's Sward: 4 MiB. -/
def swardLines : Nat := 65536

/-- The Sward line number of line `i` of logical Bivouac `b`. -/
def swardLine (b i : Nat) : Nat := b * swardLines + i

/-- The bytes of a Sward line. -/
def State.swardData (s : State) (sl : Nat) : Line :=
  lineOfBytes ((List.range 64).map fun b => SMap.get (fun _ => 0) s.sward.bytes (sl * 64 + b))

/-- The written flag of a Sward line. -/
def State.swardWritten (s : State) (sl : Nat) : Bool := SMap.get (fun _ => false) s.sward.written sl

/-- A logical Bivouac that no cluster serves (R497). -/
def State.bivUnserved (s : State) (b : Nat) : Bool :=
  !(List.range 528).any fun n => s.reg (E.bivLogical n) == b

/-- Read a Sward line: poison while its flag is clear (R189) or its Bivouac is unserved (R497). -/
def State.swardRead (s : State) (sl : Nat) : State × Option Line :=
  if s.bivUnserved (sl / swardLines) then (s, Option.none)
  else if s.swardWritten sl then (s, some (s.swardData sl))
  else (s.bump E.swardSwardNwReads, Option.none)

/-- Write the masked bytes of a Sward line; a narrow write to a line whose flag is clear is discarded (R189). -/
def State.swardWrite (s : State) (sl : Nat) (mask : Mask) (d : Line) : State × Bool :=
  if s.bivUnserved (sl / swardLines) then (s, false)
  else if mask = fullMask then
    ({ s with sward := { s.sward with
        bytes := storeBytes s.sward.bytes sl d
        written := SMap.set (fun _ => false) s.sward.written sl true } }, true)
  else if s.swardWritten sl then
    ({ s with sward := { s.sward with bytes := storeBytes s.sward.bytes sl (mergeLine mask d (s.swardData sl)) } },
      true)
  else (s, false)

/-- Clear the written flags of `n` Sward lines from `sl` (R189). -/
def State.swardClear (s : State) (sl n : Nat) : State :=
  { s with sward := { s.sward with
      written := SMap.keep (fun k => !(decide (sl ≤ k) && decide (k < sl + n))) s.sward.written
      bytes := SMap.keep (fun k => !(decide (sl * 64 ≤ k) && decide (k < (sl + n) * 64))) s.sward.bytes } }

end Sys2Proof.Machine
end

