-- ==== Sys2Proof/Machine/Trail.lean ====
section
/-! DEFINITION. The stack controllers: Trail budgets, charges, precedence, and the issue of an access (R381 to
R390, R398, R399), with the atomics performed there (R146 to R149). -/

namespace Sys2Proof.Machine

/-! ### Budgets (R383, R385, R386) -/

/-- Channels of a stack that are retired; all 32 with the whole stack. -/
def State.retiredChannels (s : State) (st : Nat) : Nat :=
  if s.stackState st = 5 then 32
  else ((List.range 32).filter fun c => bitOf (s.reg (E.stackRetiredChannels st)) c).length

/-- Slots of a period (R381, R383). -/
def State.periodSlots (s : State) (st : Nat) : Nat := 43680 * (32 - s.retiredChannels st) / 32

/-- Slots that refresh takes (R383, R501): doubled on a hot stack and while a re-training pass runs. -/
def State.refreshSlots (s : State) (st : Nat) : Nat :=
  let n := if s.reg (E.stackRefreshInterval st) = 1950 ∨ bitOf (s.reg E.procRecalActive) st then 9216 else 4608
  n * (32 - s.retiredChannels st) / 32

/-- LIMIT(s) of R385. -/
def State.trailLimit (s : State) (st : Nat) : Nat := 34464 * (32 - s.retiredChannels st) / 32

/-- The sum of RESERVED_SLOTS over pitches with SERVING = 1. -/
def State.reservedSum (s : State) : Nat :=
  sumBy (fun p => p.2) (s.regs.filter fun e =>
    decide (0x4000 ≤ e.1 / 256) && decide (e.1 / 256 < 0x5000) && e.1 % 256 == 0x35 &&
      s.reg (E.pitchServing (e.1 / 256 - 0x4000)) == 1)

/-- CLASS_SLOTS of class `k` on a stack. -/
def State.classSlots (s : State) (k st : Nat) : Nat := s.reg (E.clsClassSlots k st)

/-- The sum of CLASS_SLOTS over the classes on a stack. -/
def State.classSum (s : State) (st : Nat) : Nat := sumBy (fun k => s.classSlots k st) (List.range 32)

/-- The left side of R385 on a stack. -/
def State.trailLeft (s : State) (st : Nat) : Nat :=
  s.reservedSum + s.classSum st + 4096 + 64 + s.reg E.eccRebuildSlots

/-- OVERCOMMIT of a stack: the excess of R386. -/
def State.overcommit (s : State) (st : Nat) : Nat := s.trailLeft st - s.trailLimit st

/-- HEADROOM of a stack (R404). -/
def State.headroom (s : State) (st : Nat) : Nat := s.trailLimit st - s.trailLeft st

/-- The limit of class `k` on a stack this period; an overcommitted stack scales it (R386). -/
def State.classLimit (s : State) (k st : Nat) : Nat :=
  let e := s.overcommit st
  let c := s.classSum st
  if e = 0 ∨ c = 0 then s.classSlots k st else s.classSlots k st * (c - e) / c

/-- A budget write is accepted when R385 holds afterwards on every serving stack, or when it does not raise the
left side on a stack that R386 governs (R385, R386).  `s'` is the state with the write done. -/
def State.budgetFits (s s' : State) : Bool :=
  (List.range 16).all fun st =>
    s.stackState st != 3 ||
      (if s.overcommit st = 0 then decide (s'.trailLeft st ≤ s'.trailLimit st)
       else decide (s'.trailLeft st ≤ s.trailLeft st))

/-! ### The books of a period (R390) -/

/-- The Trail of a stack in the present period. -/
def State.trailOf (s : State) (st : Nat) : TrailStack := SMap.get (fun _ => {}) s.trail.byStack st

/-- Set the Trail of a stack. -/
def State.setTrail (s : State) (st : Nat) (t : TrailStack) : State :=
  { s with trail := { s.trail with byStack := SMap.set (fun _ => {}) s.trail.byStack st t } }

/-- Start a period on a stack: refresh and carried slots are taken first (R383, R390). -/
def State.startPeriod (s : State) (st carried : Nat) (book : List Nat) : State :=
  s.setTrail st { refresh := s.refreshSlots st, carried, slots := s.periodSlots st, book }

/-- Slots that the period has left on a stack. -/
def TrailStack.left (t : TrailStack) : Nat :=
  t.slots - (t.refresh + t.carried + t.reserve + t.cls + t.overrun + t.system + t.borrowed)

/-- The charges of R384. -/
inductive Charge where
  | reserve (pitch : Nat)
  | cls (k : Nat)
  | overrun (k : Nat)
  | borrowed (k : Nat)
  /-- System activities: 0 CLEAR, 1 SCRUB, 2 REBUILD, 3 DIRECTORY. -/
  | system (a : Nat)
  deriving DecidableEq, Repr

/-- Charge `n` slots on a stack (R382, R390): what does not fit the period is carried into the next. -/
def State.charge (s : State) (c : Charge) (st n : Nat) : State :=
  let t := s.trailOf st
  let now := min n t.left
  let t := { t with carryOut := t.carryOut + (n - now) }
  match c with
  | .reserve p =>
    (s.setTrail st { t with reserve := t.reserve + now,
                            usedReserve := SMap.upd (fun _ => 0) t.usedReserve p (· + n) }).bumpBy
      (E.pitchReserveUsed p) n
  | .cls k =>
    (s.setTrail st { t with cls := t.cls + now, usedClass := SMap.upd (fun _ => 0) t.usedClass k (· + n) }).bumpBy
      (E.clsUsed k) n
  | .overrun k => (s.setTrail st { t with overrun := t.overrun + now }).bumpBy (E.clsOverruns k) n
  | .borrowed k => (s.setTrail st { t with borrowed := t.borrowed + now }).bumpBy (E.clsBorrowed k) n
  | .system a =>
    (s.setTrail st { t with system := t.system + now,
                            usedSys := SMap.upd (fun _ => 0) t.usedSys a (· + n) }).bumpBy
      (E.trailSSystemUsed st) n

/-- Charge the whole cost of an access, stack by stack. -/
def State.chargeAll (s : State) (c : Charge) (cost : List (Nat × Nat)) : State :=
  cost.foldl (fun s x => s.charge c x.1 x.2) s

/-- Slots that a class has left on a stack. -/
def State.classLeft (s : State) (k st : Nat) : Bool :=
  decide (SMap.get (fun _ => 0) (s.trailOf st).usedClass k < s.classLimit k st)

/-- Slots that a pitch's RESERVE has left on a stack. -/
def State.reserveLeft (s : State) (p st : Nat) : Bool :=
  decide (SMap.get (fun _ => 0) (s.trailOf st).usedReserve p < s.reg (E.pitchReservedSlots p))

/-! ### Precedence (R387 to R389) -/

/-- The stack and index at which a line's access waits: its data slot, or the parity slot that orders its
stripe while the data slot is lost (R180). -/
def State.accessHome (s : State) (ln : Nat) : Nat × Nat :=
  match s.home ln with
  | .none => (0, 0)
  | .plain st k => match s.place st k with
    | .here slot => (slot / stackSlots, slot % stackSlots)
    | _ => (st, k)
  | .prot t _ st k => match s.place st k with
    | .here slot => (slot / stackSlots, slot % stackSlots)
    | _ => (t % 16, k)

/-- The charge that an access takes when it issues now, and its place in the precedence of R387; none while it
may not issue. -/
def State.chargeOf (s : State) (a : Access) (st : Nat) : Option (Nat × Charge) :=
  let k := a.req.bclass
  if a.directory then some (3, .system 3)
  else if a.reserve ∧ s.reserveLeft a.req.pitch st then some (1, .reserve a.req.pitch)
  else if a.aged then some (2, if s.classLeft k st then .cls k else .overrun k)
  else if s.classLeft k st then some (3, .cls k)
  else if a.free then some (3, .overrun k)
  else some (4, .borrowed k)

/-- The order of two candidates: step of R387, then age for steps 1 and 2, then PRIORITY and age. -/
def issueKey (step : Nat) (a : Access) : Nat :=
  step * 2 ^ 66 + (if step ≤ 2 then 0 else a.prio * 2 ^ 64) + a.id % 2 ^ 64

/-- The access that the controller of a stack issues next to a bank: accesses to one line keep their order. -/
def State.nextIssue (s : State) (st bank : Nat) : Option (Access × Charge) :=
  let q := s.trail.queue
  let cand := q.filterMap fun a =>
    let h := s.accessHome a.line
    if h.1 = st ∧ bankOf h.2 = bank ∧ (q.find? fun b => b.line == a.line) = some a then
      (s.chargeOf a st).map fun c => (a, c)
    else none
  (argMin (fun x => issueKey x.2.1 x.1) cand).map fun x => (x.1, x.2.2)

/-! ### Atomics (R147, R148) -/

/-- The signed reading of an operand of `w` bits. -/
def smaller (w a b : Nat) : Bool := decide (sgn w a < sgn w b)

/-- The new value of an atomic on an operand of `w` bits (R147). -/
def atomicNew (op w old x cmp : Nat) : Nat :=
  match op with
  | 0x10 => x
  | 0x11 => if old = cmp then x else old
  | 0x12 => (old + x) % 2 ^ w
  | 0x13 => old &&& x
  | 0x14 => old ||| x
  | 0x15 => old ^^^ x
  | 0x16 => if smaller w old x then x else old
  | 0x17 => if smaller w old x then old else x
  | 0x18 => max old x
  | 0x19 => min old x
  | 0x1A => fadd32 old x
  | _ => old

/-- Bytes of an atomic's operand (R146). -/
def atomicBytes (r : Req) : Nat := 4 * 2 ^ r.width

/-- An atomic that its opcode allows: width and alignment (R146, R147, R149). -/
def atomicLegal (op : Nat) (r : Req) : Bool :=
  let wOk := if op = 0x11 then decide (r.width ≤ 2) else if op = 0x1A then r.width == 0 else decide (r.width ≤ 1)
  decide (0x10 ≤ op) && decide (op ≤ 0x1A) && wOk && decide (r.offset % atomicBytes r = 0) && decide (r.offset < 64)

/-- The operand of an atomic, and its comparand. -/
def atomicOperand (r : Req) : Nat := (r.opLo.toNat + 2 ^ 64 * r.opHi.toNat) % 2 ^ (8 * atomicBytes r)

/-- The comparand of a CAS. -/
def atomicCompare (r : Req) : Nat := (r.cmpLo.toNat + 2 ^ 64 * r.cmpHi.toNat) % 2 ^ (8 * atomicBytes r)

/-- A line after an atomic. -/
def atomicLine (op : Nat) (r : Req) (d : Line) : Line :=
  let n := atomicBytes r
  let old := takeBytes d r.offset n
  mergeLine (rangeMask r.offset n) (placeBytes r.offset n (atomicNew op (8 * n) old (atomicOperand r) (atomicCompare r))) d

/-- The result block of an atomic: the old value (R146). -/
def atomicResult (r : Req) (d : Line) : Word × Word :=
  let old := takeBytes d r.offset (atomicBytes r)
  (BitVec.ofNat 64 old, BitVec.ofNat 64 (old / 2 ^ 64))

/-! ### Issue (R382, R387, R398) -/

/-- LOAD_LEVEL of a response whose access drew charge `c` on a stack (R398). -/
def State.loadLevel (s : State) (c : Charge) (st prio : Nat) (col : Colour) : Nat :=
  let b := match c with
    | .reserve _ => 0
    | .cls k =>
      if s.classSlots k st = 0 then 15
      else min 15 (15 * SMap.get (fun _ => 0) (s.trailOf st).usedClass k / s.classSlots k st)
    | .overrun _ | .borrowed _ => 15
    | .system _ => 0
  max b (max (min 15 (s.reg (E.trailSQueueDelay st prio) / 80)) (colourLoad col))

/-- Perform an access at its line: the outcome and the result block of an atomic. -/
def State.performAccess (s : State) (a : Access) (err : Nat) : MemRes × Option (Word × Word) :=
  match a.kind with
  | .read => (s.readLine a.line err, none)
  | .write mask data => (s.writeLine a.line mask data err, none)
  | .poison => (s.blankLine a.line .poisoned, none)
  | .atomic op =>
    let m := s.updateLine a.line false (atomicLine op a.req) err
    (m, some (if m.ok then atomicResult a.req m.data else (0, 0)))

/-- Answer an access that has been performed. -/
def State.answerAccess (s : State) (a : Access) (m : MemRes) (res : Option (Word × Word)) (load : Nat) : State :=
  match a.reply with
  | none => s
  | some r =>
    let d := match a.kind with
      | .read => if m.ok then m.data else 0
      | _ => 0
    s.respond r load (if m.ok then 0 else 1) d res

/-- Take an access out of its controller's queue. -/
def State.dropAccess (s : State) (id : Nat) : State :=
  { s with trail := { s.trail with queue := s.trail.queue.filter (fun a => a.id != id) } }

/-- Perform an access under a charge, charge its slots and answer it; other reads of the line that wait before
any write of it are served by the same access (R382). -/
def State.runAccess (s : State) (a : Access) (c : Charge) (err : Nat) : State :=
  let st := (s.accessHome a.line).1
  let s := s.dropAccess a.id
  let s := match a.reserve, c with
    | true, .reserve _ => s
    | true, _ => s.bump (E.pitchReserveMisses a.req.pitch)
    | false, _ => s
  let (m, res) := s.performAccess a err
  let s := m.s.chargeAll c m.cost
  let s := s.answerAccess a m res (s.loadLevel c st a.prio (a.reply.elim .green Reply.colour))
  match a.kind with
  | .read =>
    let same := (s.trail.queue.filter fun b => b.line == a.line).takeWhile fun b => b.kind == .read
    same.foldl (fun s b =>
      (s.dropAccess b.id).answerAccess b m none (colourLoad (b.reply.elim .green Reply.colour))) s
  | _ => s

/-- Perform at once, in order, every access that waits for a line: the write buffer forwards to what follows
(R102), and an engine's access within one step follows them. -/
def State.drainLine (s : State) (ln : Nat) : State :=
  (s.trail.queue.filter fun a => a.line == ln).foldl (fun s a =>
    if (s.trail.queue.any fun b => b.id == a.id) then
      match s.chargeOf a (s.accessHome ln).1 with
      | some (_, c) => s.runAccess a c 0
      | none => s
    else s) s

/-- Perform one by one the whole-line writes of a stripe that its parity controller holds (R181). -/
def State.flushGather (s : State) (t : Nat) : State :=
  let held : List (Nat × Nat × Access) := s.trail.gather.filter fun g => g.1 == t
  let s := { s with trail := { s.trail with gather := s.trail.gather.filter fun g => g.1 != t } }
  held.foldl (fun s g =>
    match s.chargeOf g.2.2 (s.accessHome g.2.2.line).1 with
    | some (_, c) => s.runAccess g.2.2 c 0
    | none => s) s

/-- Everything that waits to be written to a line is written: held full-stripe writes, then queued accesses. -/
def State.settleLine (s : State) (ln : Nat) : State :=
  let s := match s.home ln with
    | .prot t _ _ _ => if s.trail.gather.any (fun g => g.1 == t) then s.flushGather t else s
    | _ => s
  s.drainLine ln

/-- Put an access into the controller's queue. -/
def State.enqueueAccess (s : State) (a : Access) : State :=
  { s with trail := { s.trail with
      queue := s.trail.queue ++ [{ a with id := s.trail.nextId, arrived := s.cclk }]
      nextId := s.trail.nextId + 1 } }

/-- An access for a request. -/
def accessOf (w : Work) (kind : AccKind) (reply : Option Reply) : Access :=
  { id := 0, line := w.line, kind, req := w.req, prio := w.prio, reserve := w.reserve, free := false,
    directory := false, arrived := 0, aged := false, reply }

/-- The line data of a held full-stripe write. -/
def heldLine (a : Access) : Line :=
  match a.kind with
  | .write _ d => d
  | _ => 0

/-- Hold a whole-line write of a protected line at its stripe's controller; the fifteenth completes the stripe
(R181).  A second write of a held line first releases what is held. -/
def State.gatherWrite (s : State) (a : Access) (t j : Nat) : State :=
  let s := if s.trail.gather.any (fun g => g.1 == t && g.2.1 == j) then s.flushGather t else s
  let s := s.dropAccess a.id
  let s := { s with trail := { s.trail with gather := s.trail.gather ++ [(t, j, a)] } }
  let held : List (Nat × Nat × Access) := s.trail.gather.filter fun g => g.1 == t
  if held.length = 15 then
    let ds := (List.range 15).map fun i =>
      ((held.find? fun g => g.2.1 == i).map fun g => heldLine g.2.2).getD 0
    let s := { s with trail := { s.trail with gather := s.trail.gather.filter fun g => g.1 != t } }
    let c := (s.chargeOf a (s.accessHome a.line).1).elim (Charge.cls a.req.bclass) (fun x => x.2)
    (s.writeStripe t ds).chargeAll c ((List.range 16).map fun x => (x, 1))
  else s

/-- CONTROLLER_ISSUE: the controller of a stack issues the first waiting access for a bank (R387), with the
errors `err` that it meets.  Nothing issues once the period has no slot left. -/
def State.opControllerIssue (s : State) (st bank err : Nat) : State :=
  if (s.trailOf st).left = 0 then s
  else match s.nextIssue st bank with
    | none => s
    | some (a, c) =>
      match s.home a.line, a.kind with
      | .prot t j dst k, .write mask _ =>
        let up := (List.range 16).all fun x => match s.place x k with
          | .here _ => true
          | _ => false
        if mask = fullMask ∧ up ∧ s.place dst k = .here (slotOf dst k) ∧ a.reply = none
        then s.gatherWrite a t j
        else (if s.trail.gather.any (fun g => g.1 == t) then s.flushGather t else s).runAccess a c err
      | .prot t _ _ _, _ =>
        (if s.trail.gather.any (fun g => g.1 == t) then s.flushGather t else s).runAccess a c err
      | _, _ => s.runAccess a c err

/-! ### Period boundary (R390, R399) -/

/-- The running average of R399, rounded toward zero. -/
def averageStep (avg sample shift : Nat) : Nat :=
  if avg ≤ sample then avg + (sample - avg) / 2 ^ shift else avg - (avg - sample) / 2 ^ shift

/-- REQUEST_AGED: a request has waited 2,048 CCLK at the controller of a stack (R389). -/
def State.opRequestAged (s : State) (st id : Nat) : State :=
  let age := fun (a : Access) => if a.id = id ∧ (s.accessHome a.line).1 = st then { a with aged := true } else a
  { s with trail := { s.trail with queue := s.trail.queue.map age } }

/-- The samples of a stack's queue at a priority: how many wait, and the delay of the oldest in ns (R399). -/
def State.queueSample (s : State) (st prio : Nat) : Nat × Nat :=
  let q := s.trail.queue.filter fun a => (s.accessHome a.line).1 == st && a.prio == prio
  (q.length, (q.map fun a => (s.cclk - a.arrived) * 5 / 8).foldl max 0)

/-- Sample a stack's queues (R399). -/
def State.sampleQueues (s : State) (st : Nat) : State :=
  (List.range 4).foldl (fun s p =>
    let (n, d) := s.queueSample st p
    let s := s.setReg (E.trailSQueueDepth st p) (min n 65535)
    let s := s.setReg (E.trailSQueueDelay st p) (averageStep (s.reg (E.trailSQueueDelay st p)) d (s.reg E.trailSampleShift))
    if p = 0 then s.setReg (E.trailSDelayPeak st) (max (s.reg (E.trailSDelayPeak st)) d) else s) s

/-- Close a stack's period: the slots nobody took are IDLE, the book is kept, and the next period starts with
the carried slots (R390). -/
def State.closePeriod (s : State) (st : Nat) : State :=
  if s.stackState st = 3 then
    let t := s.trailOf st
    let idle := t.left
    let book := [t.slots, t.refresh, t.carried, t.reserve, t.cls, t.overrun, t.system, t.borrowed, idle]
    let s := (s.bumpBy (E.trailSIdleSlots st) idle).bumpBy (E.trailSCarried st) t.carryOut
    let s := s.sampleQueues st
    s.startPeriod st (min t.carryOut (s.periodSlots st - s.refreshSlots st)) book
  else s

/-- PERIOD_BOUNDARY on all stacks (R381, R390, R399). -/
def State.opPeriodBoundary (s : State) : State :=
  ((List.range 16).foldl State.closePeriod s).bump E.trailPeriods

end Sys2Proof.Machine
end

