-- ==== Sys2Proof/Machine/Ingress.lean ====
section
/-! DEFINITION. Admission of agent requests: decoders, the agent fence, pitch lookup and metering, routing by
device number, the checks of the local map, and entry into the lanes (R32, R59, R61, R101, R107, R373, R391 to
R396, R508). -/

namespace Sys2Proof.Machine

/-! ### Home slice and lane (R105) -/

/-- The home logical slice of a line (R105). -/
def homeSlice (ln : Nat) : Nat :=
  let b := ln * 64
  bits b 10 6 ^^^ bits b 15 11 ^^^ bits b 20 16 ^^^ bits b 25 21 ^^^ bits b 30 26 ^^^ bits b 35 31 ^^^ bits b 39 36

/-- The lane of a line within its slice (R105). -/
def homeLane (ln : Nat) : Nat :=
  let b := ln * 64
  bits b 19 16 ^^^ bits b 23 20 ^^^ bits b 27 24 ^^^ bits b 31 28 ^^^ bits b 35 32 ^^^ bits b 39 36

/-- The set of a line (R105). -/
def homeSet (ln : Nat) : Nat := bits (ln * 64) 29 11

/-- The physical slice that serves a logical slice with entries (R104, R134). -/
def State.ownSlice (s : State) (l : Nat) : Option Nat :=
  (List.range 33).find? fun q => s.reg (E.sliceLogical q) == l &&
    (s.reg (E.sliceState q) == 1 || s.reg (E.sliceState q) == 2)

/-- The physical slice that orders a logical slice: its own, or the lowest-numbered serving one, which serves it
without entries (R488, R504). -/
def State.servingSlice (s : State) (l : Nat) : Option Nat :=
  match s.ownSlice l with
  | some q => some q
  | none => (List.range 33).find? fun q => s.reg (E.sliceState q) == 1

/-- The physical slice whose counts a logical slice's events raise. -/
def State.countSlice (s : State) (l : Nat) : Nat := (s.servingSlice l).getD l

/-! ### Requests -/

/-- The opcode is a store under R145: WR_LINE, WR_PARTIAL or an atomic 0x10 to 0x1A. -/
def isStore (op : Nat) : Bool := op == 5 || op == 6 || (decide (0x10 ≤ op) && decide (op ≤ 0x1A))

/-- The bytes L of a request that its meter counts (R393). -/
def meterBytes (op : Nat) : Nat :=
  if op = 5 then 80 else if op = 6 then 88 else if isAtomic op then 64 else 16

/-- A request on a host port carries the decoder's address, pitch, class and priority (R373); none where the
decoder is not valid. -/
def State.hostMap (s : State) (r : Req) : Option Req :=
  match r.port with
  | .utxon _ => some r
  | .host n =>
    let d : Decoder := SMap.get (fun _ => {}) s.port.decoders (8 * n + r.decoder % 8)
    if d.valid then some { r with addr := d.base + r.addr, pitch := d.pitch, bclass := d.cls, prio := d.prio }
    else none

/-- A meter of a pitch: URGENT, or BULK (R392). -/
def meterKey (pitch : Nat) (urgent : Bool) : Nat := 2 * pitch + (if urgent then 0 else 1)

/-- The meter at a key. -/
def State.meterAt (s : State) (k : Nat) : Meter := SMap.get (fun _ => {}) s.meter.meters k

/-- Set the meter at a key. -/
def State.setMeter (s : State) (k : Nat) (m : Meter) : State :=
  { s with meter := { s.meter with meters := SMap.set (fun _ => {}) s.meter.meters k m } }

/-- The buckets of a meter after one CCLK: CIR ÷ 1,600 and PIR ÷ 1,600 bytes in units of 1/1,024 B, the part
below one unit carried (R392). -/
def Meter.refill (m : Meter) : Meter :=
  let c := m.cir * 16 + m.remC
  let p := m.pir * 16 + m.remP
  { m with tc := min (m.cbs * 1024) (m.tc + c / 25), remC := c % 25
           tp := min (m.pbs * 1024) (m.tp + p / 25), remP := p % 25 }

/-- The colour of a request of `n` bytes, none for red, and the meter after it (R392). -/
def Meter.colour (m : Meter) (n : Nat) : Option Colour × Meter :=
  if m.pir = 0 then (some .green, m)
  else if m.tp < n * 1024 then (none, m)
  else if m.tc < n * 1024 then (some .yellow, { m with tp := m.tp - n * 1024 })
  else (some .green, { m with tc := m.tc - n * 1024, tp := m.tp - n * 1024 })

/-! ### After the meter: routing and the local map -/

/-! ### NAK and reissue (R111, R120, R121, R145) -/

/-- A NAK updates the starvation tracker of its source (R121). -/
def State.trackNak (s : State) (w : Work) : State :=
  let l := homeSlice w.line
  let ts := s.dir.trackers
  let ts' := match ts.find? fun t => t.slice == l && t.src == w.src with
    | none => ts ++ [{ slice := l, src := w.src, line := w.line, count := 1 }]
    | some t =>
      if t.line = w.line then ts.map fun x => if x = t then { x with count := min 16 (x.count + 1) } else x
      else ts
  { s with dir := { s.dir with trackers := ts' } }

/-- Send a NAK and track it (R111, R120, R121, R398). -/
def State.sendNak (s : State) (w : Work) (retry : Nat) : State :=
  ((s.bump (E.sliceNaks (s.countSlice (homeSlice w.line)))).sendMsg w.req.port 2
    { msg := { opcode := 0x3D, retryAfter := retry, load := colourLoad w.colour,
               req := { port := w.req.port, addr := 0, tag := w.req.tag, prio := w.prio } },
      agent := if w.caching then w.src else 0 }).trackNak w

/-- A NAKed store is one of the port and source of a request (R145). -/
def sameStream (w : Work) (x : Port × Nat × Nat × Nat) : Bool := x.1 == w.req.port && x.2.1 == w.src

/-- The stores of a request's port and source that were NAKed and not yet reissued, by tag and RETRY_AFTER. -/
def State.nakedOf (s : State) (w : Work) : List (Nat × Nat) := (s.dir.naked.filter (sameStream w)).map fun x => x.2.2

/-- Set the NAKed stores of a request's port and source. -/
def State.setNaked (s : State) (w : Work) (l : List (Nat × Nat)) : State :=
  { s with dir := { s.dir with
      naked := (s.dir.naked.filter fun x => !sameStream w x) ++ l.map fun x => (w.req.port, w.src, x) } }

/-- Put a work item into its lane's input queue (R107).  A store whose source has stores to reissue on this port enters
only as a reissue, which it is by its tag (R120); any other is a later store, and is NAKed too (R145). -/
def State.enterLane (s : State) (w : Work) : State :=
  let enter := fun (s : State) => { s with dir := { s.dir with queued := s.dir.queued ++ [w] } }
  if ¬ isStore w.op then enter s
  else match s.nakedOf w with
    | [] => enter s
    | l@(x :: _) =>
      if l.any fun y => y.1 == w.req.tag then
        enter (s.setNaked w ((l.dropWhile fun y => y.1 != w.req.tag).drop 1))
      else (s.sendNak w x.2).setNaked w (l ++ [(w.req.tag, x.2)])

/-- The requests that wait before a full priority-0 queue of their lane, and occupy their port's receive buffer
(R107). -/
def State.beforeLane (s : State) : List Work :=
  s.dir.queued.filter fun w => w.laneQ == 0 &&
    decide (16 ≤ (s.dir.queued.takeWhile (· != w)).countP fun x => x.laneQ == 0 &&
      homeSlice x.line == homeSlice w.line && homeLane x.line == homeLane w.line)

/-- A port's receive buffer is held back by a request that waits for its meter or before its lane (R107, R394). -/
def State.portHeldBack (s : State) (p : Port) : Bool :=
  (s.meter.waiting ++ s.beforeLane).any fun x => x.req.port == p

/-- The state of a pitch: 0 FREE, 1 ACTIVE, 2 DORMANT, 3 QUIESCING, 4 REVOKING (R63). -/
def State.pitchState (s : State) (p : Nat) : Nat := s.reg (E.pitchState p)

/-- The violation that the checks of R59 find for a request to the local map, by the key of its counter. -/
def State.agentViolation (s : State) (r : Req) : Option Nat :=
  let off := bits r.addr 41 0
  match targetOf off with
  | .unmapped | .slots | .doorbells | .stile => some E.violUnmappedRange
  | .stacked | .view | .sward =>
    if (s.coverOf (off / 65536)).isNone then some E.violNoRegion
    else if s.pitchState r.pitch = 0 ∨ s.pitchState r.pitch = 4 then some E.violNoPitch
    else if ¬ bitOf (s.reg (E.pitchBudgetClasses r.pitch)) r.bclass then some E.violBudgetClass
    else none

/-- A cache-less source's RD_SHARED, RD_OWN and UPGRADE are taken as RD_NC and counted (R101). -/
def State.convert (s : State) (w : Work) : State × Work :=
  if ¬ w.caching ∧ (w.op = 1 ∨ w.op = 2 ∨ w.op = 4) then (s.bump (ncKey w.req.port), { w with op := 3 })
  else (s, w)

/-- A request for this device: the Stile window, or the checks of R59 and the line's home lane. -/
def State.localWork (s : State) (w : Work) : State :=
  let off := bits w.req.addr 41 0
  match targetOf off with
  | .stile => s.stileServe w.op w.req w.src w.prio w.colour
  | .doorbells => s.doorbellServe w.op w.req w.prio (s.countSlice (homeSlice (off / 64))) w.colour
  | _ =>
    match s.agentViolation w.req with
    | some k => (s.bump k).answerPlain w.op w.req w.prio w.colour 0
    | none =>
      let (s, w) := s.convert w
      s.enterLane { w with line := off / 64 }

/-- The next tag that the device uses as a requester: not one in use and not one that is still cooling (R128). -/
def State.freshTag (s : State) (port : Nat) : Nat :=
  let busy := (s.port.fwds.filter fun f => f.port == port).map Fwd.tag ++
    (s.port.coolTags.filter fun c => c.1 == port && (s.reg (E.utxonState port) == 3 || decide (s.cclk < c.2.2 + 12800))).map
      fun c => c.2.1
  ((List.range (busy.length + 1)).map fun i => (s.port.nextTag + i) % 65536).find? (fun t => !busy.contains t)
    |>.getD 0

/-- Forward a request on a port, under a tag of the device's own (R32). -/
def State.forward (s : State) (w : Work) (n : Nat) : State :=
  let tag := s.freshTag n
  let s := { s with port := { s.port with
    fwds := s.port.fwds ++ [({ port := n, tag, work := w, live := true } : Fwd)]
    nextTag := (tag + 1) % 65536 } }
  s.sendMsg (.utxon n) (if w.op = 7 then 2 else 0)
    { msg := { opcode := w.op, req := { w.req with port := .utxon n, tag } }, agent := 0 }

/-- The messages that a port holds, unacknowledged or queued, with their VCs. -/
def Link.heldMsgs (l : Link) : List (Nat × OutMsg) := (l.replay.flatMap fun f => f.msgs.map fun m => (f.vc, m)) ++ l.egress

/-- The port holds the request of a tag. -/
def Link.holdsReq (l : Link) (tag : Nat) : Bool := l.heldMsgs.any fun m => m.1 == 0 && m.2.msg.req.tag == tag

/-- Two requests come from one source on one port and go to one device. -/
def sameWay (a b : Work) : Bool :=
  a.src == b.src && a.req.port == b.req.port && bits a.req.addr 51 42 == bits b.req.addr 51 42

/-- A port other than `n` holds an unacknowledged or queued store of this source to this device, or such a store
waits already (R33, R369). -/
def State.holdsStore (s : State) (w : Work) (n : Nat) : Bool :=
  (s.port.fwds.any fun f => isStore f.work.op && sameWay f.work w && f.port != n && (s.link f.port).holdsReq f.tag) ||
  s.port.retrainWait.any (sameWay w)

/-- Route an admitted request by its device number (R32, R369). -/
def State.routeWork (s : State) (w : Work) : State :=
  match s.routeOf w.req.addr (s.fromFardan w.req.port) with
  | .own => s.localWork w
  | .via n | .held n =>
    if isStore w.op ∧ s.holdsStore w n then
      { s with port := { s.port with retrainWait := s.port.retrainWait ++ [w] } }
    else s.forward w n
  | .linkLost => s.answerPlain w.op w.req w.prio w.colour 2
  | .unroutable => (s.bump E.violUnroutable).answerPlain w.op w.req w.prio w.colour 0

/-! ### Metering (R391, R392, R394) -/

/-- A store of the same source from the same port is held in a meter queue: the key of the queue that holds the
latest one (R394). -/
def State.storeHeldIn (s : State) (w : Work) : Option Nat :=
  let hits : List (Nat × Nat) := s.meter.meters.flatMap fun e =>
    (e.2.queue.filter fun q => isStore q.work.op && q.work.src == w.src && q.work.req.port == w.req.port).map
      fun q => (e.1, q.work.age)
  (argMax (fun h => h.2) hits).map fun h => h.1

/-- The work item admitted with a colour (R391, R394). -/
def coloured (w : Work) (urgent : Bool) (c : Colour) : Work :=
  match c with
  | .green => { w with colour := .green, laneQ := w.prio, reserve := urgent }
  | c => { w with colour := c, prio := 3, laneQ := 3, reserve := false }

/-- Meter a request (R392, R394): admitted by colour, held red, behind an earlier store of its source, or
waiting in its port's receive buffer while the meter's queue is full. -/
def State.meterWork (s : State) (w : Work) : State :=
  let urgent := w.prio == 0
  let k := meterKey w.req.pitch urgent
  let m := s.meterAt k
  if s.portHeldBack w.req.port then
    { s with meter := { s.meter with waiting := s.meter.waiting ++ [w] } }
  else if 64 ≤ (m.queue.filter Metered.red).length then
    { s with meter := { s.meter with waiting := s.meter.waiting ++ [w] } }
  else
    let behind := if isStore w.op then s.storeHeldIn w else none
    match m.colour (meterBytes w.op) with
    | (none, m) =>
      (s.setMeter k { m with queue := m.queue ++ [{ work := w, red := true }] }).bump (E.pitchMeterRed w.req.pitch)
    | (some c, m) =>
      let s := s.setMeter k m
      let s := if c = .yellow then s.bump (E.pitchMeterYellow w.req.pitch) else s
      let w := coloured w urgent c
      match behind with
      | some k' => s.setMeter k' { s.meterAt k' with queue := (s.meterAt k').queue ++ [{ work := w, red := false }] }
      | none => s.routeWork w

/-- Pitch lookup and the PRIORITY_FLOOR of the pitch, then metering; requests from a Fardan partner are not
metered again and enter the lanes at priority 1 or less urgent (R391). -/
def State.admitWork (s : State) (w : Work) : State :=
  let p := max w.req.prio (s.reg (E.pitchPriorityFloor w.req.pitch))
  if s.fromFardan w.req.port then s.routeWork { w with prio := p, laneQ := max 1 p }
  else
    let p := if p = 0 ∧ (s.reg (E.pitchServing w.req.pitch) = 0 ∨ (s.meterAt (meterKey w.req.pitch true)).pir = 0)
      then 1 else p
    s.meterWork { w with prio := p, laneQ := p }

/-- Requests that wait in receive buffers are taken again, port by port in their order, once a queue has room. -/
def State.retryWaiting (s : State) : State :=
  let ws := s.meter.waiting
  ws.foldl (fun s w => s.meterWork w) { s with meter := { s.meter with waiting := [] } }

/-- The stores that waited behind a released store at the head of a queue follow it (R394). -/
def State.releaseFollowers (s : State) (k : Nat) : State :=
  let q := (s.meterAt k).queue
  let go := q.takeWhile fun x => !x.red
  let s := s.setMeter k { s.meterAt k with queue := q.drop go.length }
  go.foldl (fun s x => s.routeWork x.work) s

/-- METER_RED_RELEASE: the oldest red request of a meter is released once TP ≥ L, or once the meter is off (R392, R394). -/
def State.opMeterRelease (s : State) (pitch : Nat) (urgent : Bool) : State :=
  let k := meterKey pitch urgent
  let m := s.meterAt k
  match m.queue with
  | [] => s
  | q :: rest =>
    let n := meterBytes q.work.op
    if m.pir ≠ 0 ∧ m.tp < n * 1024 then s
    else
      let s := s.setMeter k { m with tp := m.tp - n * 1024, queue := rest }
      let s := s.routeWork (coloured q.work urgent .released)
      ((s.releaseFollowers k)).retryWaiting

/-- Every request held in a pitch's meter queues is released at once, in order, without reducing TP (R396). -/
def State.releaseMeters (s : State) (pitch : Nat) : State :=
  let qs := (s.meterAt (meterKey pitch true)).queue ++ (s.meterAt (meterKey pitch false)).queue
  let s := s.setMeter (meterKey pitch true) { s.meterAt (meterKey pitch true) with queue := [] }
  let s := s.setMeter (meterKey pitch false) { s.meterAt (meterKey pitch false) with queue := [] }
  let ordered := sortBy (fun a b => decide (a.work.age ≤ b.work.age)) qs
  (ordered.foldl (fun s q => s.routeWork (if q.red then coloured q.work false .released else q.work)) s).retryWaiting

/-! ### Arrival -/

/-- Free the receive-buffer credits of requests that wait in no receive buffer any more (R107, R359, R394). -/
def State.sweepHeld (s : State) : State :=
  (s.port.links.flatMap fun e => e.2.held.map fun h => (e.1, h.1)).foldl (fun s h =>
    if (s.meter.waiting ++ s.beforeLane).any fun w => w.age == h.2 then s else s.freeHeld (.utxon h.1) h.2) s

/-- The work item of an arriving request. -/
def State.newWork (s : State) (op : Nat) (r : Req) : Work :=
  { op, req := r, src := s.sourceOf r.port, line := 0, prio := r.prio, laneQ := r.prio, colour := .green,
    reserve := false, caching := s.caching r.port, age := s.dir.nextAge }

/-- A request from an agent under the agent fence of R508: a silent violation with cause FENCED. -/
def State.fencedSource (s : State) (src : Nat) : Bool :=
  decide (src < 64) && bitOf (s.reg E.fenceAgentFence) src

end Sys2Proof.Machine
end

