-- ==== Sys2Proof/Machine/Directory.lean ====
section
/-! DEFINITION. The Flysheet directory: lanes, lookups, transitions, snoops, NAK and hold, starvation, evictions,
deadlines (R100 to R131), and the accesses of the device's own engines (R101, R137). -/

namespace Sys2Proof.Machine

/-! ### Entries -/

/-- The entry of a line, if it has one. -/
def State.entry (s : State) (ln : Nat) : Option DirEntry := (s.dir.entries.find? fun e => e.1 == ln).map fun e => e.2

/-- An entry with no holder, which the sparse table does not list. -/
def noEntry : DirEntry := { sharers := 0, state := .i, owner := 0, resv := none, resvOn := false, used := 0 }

/-- Write an entry; one that holds no line and no reservation is FREE and leaves the table (R118, R122).  The
allocations and frees of the serving slice are counted (R513). -/
def State.putEntry (s : State) (ln : Nat) (e : DirEntry) : State :=
  let keep := e.state ≠ .i ∨ e.resv ≠ none
  let had := (s.entry ln).isSome
  let q := s.countSlice (homeSlice ln)
  let bump := fun (m : SMap Nat) => SMap.upd (fun _ => 0) m q (fun n => (n + 1) % 2 ^ 32)
  let d := s.dir
  let d := if keep ∧ ¬ had then { d with allocated := bump d.allocated }
    else if ¬ keep ∧ had then { d with freed := bump d.freed } else d
  { s with dir := { d with
      entries := SMap.set (fun _ => noEntry) d.entries ln (if keep then e else noEntry) } }

/-- The state of a line with its holders, keeping its reservation. -/
def State.setLine (s : State) (ln : Nat) (st : LineState) (sharers : Word) (owner : Nat) : State :=
  let e := (s.entry ln).getD noEntry
  s.putEntry ln { e with state := st, sharers := if st = .i then 0 else sharers, owner, used := s.dir.nextAge }

/-- The bit of an agent in SHARERS. -/
def agentBit (a : Nat) : Word := BitVec.ofNat 64 (2 ^ a % 2 ^ 64)

/-- The agents listed in a SHARERS vector. -/
def agentsOf (w : Word) : List Nat := (List.range 64).filter fun a => w.getLsbD a

/-- The transition in progress on a line. -/
def State.transOf (s : State) (ln : Nat) : Option Trans := s.dir.trans.find? fun t => t.line == ln

/-- The line is stable: no transition is in progress on it. -/
def State.stable (s : State) (ln : Nat) : Bool := (s.transOf ln).isNone

/-- Entries of a slice's set (R104, R129). -/
def State.setEntries (s : State) (ln : Nat) : List (Nat × DirEntry) :=
  s.dir.entries.filter fun e => homeSlice e.1 == homeSlice ln && homeSet e.1 == homeSet ln

/-! ### Snoops (R112, R126, R128, R133) -/

/-- A free snoop tag of a slice: the slice in [15:11], a number in [10:0] (R128). -/
def State.freeTag (s : State) (slice : Nat) : Option Nat :=
  ((List.range 2048).map fun n => slice * 2048 + n).find? fun t =>
    !(s.dir.trans.any fun x => x.tag == t) && !s.dir.cooling.contains t

/-- Send a snoop to an agent on the port of R133, if any; SNOOPS_SENT counts what is sent. -/
def State.snoopAgent (s : State) (op tag ln a prio pitch : Nat) : State :=
  match s.agentPort a with
  | none => s
  | some p =>
    (s.bump (E.agentSnoopsSent a)).sendMsg p 1
      { msg := { opcode := op, req := { port := p, addr := s.poolLine ln, tag, prio, pitch } }, agent := a }

/-- The state of a line while snoops of an opcode are outstanding. -/
def transState (op : Nat) (evict : Bool) : LineState :=
  if evict then .tEvict else if op = 0x20 then .tShare else if op = 0x22 then .tCur else .tInv

/-- Begin a transition: a tag, the snoops, and the entry in its transition state (R116). -/
def State.beginTrans (s : State) (ln op : Nat) (holders : List Nat) (w : Option Work) (fromX : Bool) : State :=
  match s.freeTag (homeSlice ln) with
  | none => s
  | some tag =>
    let t : Trans := { line := ln, tag, snoop := op, work := w, waiting := holders, data := none, keptS := false,
                       keptX := false, dirtyKept := false, poisoned := false, repeated := false, fromX }
    let e := (s.entry ln).getD noEntry
    let s := s.putEntry ln { e with state := transState op w.isNone, used := s.dir.nextAge }
    let s := { s with dir := { s.dir with trans := s.dir.trans ++ [t] } }
    holders.foldl (fun s a => s.snoopAgent op tag ln a (w.elim 0 Work.prio) (w.elim 0 fun w => w.req.pitch)) s

/-! ### NAK, hold and starvation (R119 to R122, R145) -/

/-- RETRY_AFTER of a NAK: 15 while the transition has a snoop outstanding to an agent, else 2 (R120). -/
def State.retryAfter (s : State) (ln : Nat) : Nat :=
  match s.transOf ln with
  | some t => if t.waiting = [] then 2 else 15
  | none => 2

/-- When the request of a source for its tracked line is ordered, the entry empties (R121). -/
def State.untrack (s : State) (w : Work) : State :=
  { s with dir := { s.dir with trackers := s.dir.trackers.filter fun t =>
      !(t.slice == homeSlice w.line && t.src == w.src && t.line == w.line) } }

/-- End the reservation of a line (R122): counted, and an entry that only carried it returns to FREE. -/
def State.endReservation (s : State) (ln : Nat) : State :=
  match s.entry ln with
  | none => s
  | some e =>
    (s.putEntry ln { e with resv := none, resvOn := false }).bump (E.sliceReservations (s.countSlice (homeSlice ln)))

/-- Every later store from the port and source of a NAKed store that has not been ordered is NAKed too, with the same
RETRY_AFTER (R145). -/
def State.nakLater (s : State) (w : Work) (retry : Nat) : State :=
  if isStore w.op then
    let later := s.dir.queued.filter fun x => isStore x.op && x.src == w.src && x.req.port == w.req.port &&
      decide (w.age < x.age)
    let s := { s with dir := { s.dir with queued := s.dir.queued.filter fun x => !later.contains x } }
    let s := later.foldl (fun s x => s.sendNak x retry) s
    s.setNaked w ((w :: later).map (fun x => (x.req.tag, retry)) ++ s.nakedOf w)
  else s

/-- Requests of a slice in its hold queue. -/
def State.heldOf (s : State) (slice : Nat) : List Work := s.dir.hold.filter fun w => homeSlice w.line == slice

/-- A request goes back to its lane's input queue, at the place that its age gives it (R119, R128). -/
def State.requeue (s : State) (w : Work) : State :=
  { s with dir := { s.dir with
      queued := (s.dir.queued.takeWhile fun x => x.age < w.age) ++ w :: s.dir.queued.dropWhile fun x => x.age < w.age } }

/-- A request that meets a transition or another's reservation: NAK on a Utxon port, the hold queue otherwise, or its
lane again while the hold queue is full (R119). -/
def State.turnAway (s : State) (w : Work) (retry : Nat) : State :=
  match w.req.port with
  | .utxon _ => (s.sendNak w retry).nakLater w retry
  | .host _ =>
    if 256 ≤ (s.heldOf (homeSlice w.line)).length then s.requeue w
    else
      let s := { s with dir := { s.dir with hold := s.dir.hold ++ [w] } }
      let q := s.countSlice (homeSlice w.line)
      s.setReg (E.sliceHoldPeak q) (max (s.reg (E.sliceHoldPeak q)) (s.heldOf (homeSlice w.line)).length)

/-! ### Answers -/

/-- The reply to a work item with a response opcode. -/
def replyOf (w : Work) (opcode : Nat) : Reply :=
  { opcode, port := w.req.port, tag := w.req.tag, agent := if w.caching then w.src else 0, prio := w.prio,
    colour := w.colour }

/-- The response opcode of a read (R112). -/
def dataRsp (op : Nat) : Nat := if op = 1 then 0x38 else if op = 3 then 0x3A else 0x39

/-- Answer a read from memory: the access waits at its controller; a line that no slot can give is answered with
STATUS POISON at once (R183, R484). -/
def State.readMemory (s : State) (w : Work) (opcode : Nat) : State :=
  if s.readRefused w.line then s.respond (replyOf w opcode) (colourLoad w.colour) 1 0 none
  else s.enqueueAccess (accessOf w .read (some (replyOf w opcode)))

/-- Answer with data that a snoop returned: no line slot is used (R116, R398). -/
def State.answerData (s : State) (w : Work) (opcode : Nat) (d : Line) : State :=
  s.respond (replyOf w opcode) (colourLoad w.colour) 0 d none

/-- Write modified data to memory: it never waits for a budget (R388). -/
def State.writeBack (s : State) (r : Req) (prio ln : Nat) (d : Line) (directory : Bool) : State :=
  if s.writeRefused ln then s
  else s.enqueueAccess { id := 0, line := ln, kind := .write fullMask d, req := r, prio, reserve := false, free := true,
                         directory, arrived := 0, aged := false, reply := none }

/-- Write a line as poisoned (R126). -/
def State.poisonLine (s : State) (r : Req) (prio ln : Nat) : State :=
  s.enqueueAccess { id := 0, line := ln, kind := .poison, req := r, prio, reserve := false, free := true,
                    directory := true, arrived := 0, aged := false, reply := none }

/-- An agent's write to a STAGED region drops every copy, sets the placement to STACKED and is counted (R52). -/
def State.stageDrop (s : State) (ln : Nat) : State :=
  match s.coverOf (ln / 1024) with
  | some (i, r) =>
    if r.placement = 2 then
      let s := (s.setRegion i { r with placement := 0, stageFirst := 0, stageCount := 0 }).bump (E.pitchStageDrops r.owner)
      { s with sward := { s.sward with staged := s.sward.staged.filter fun c => c.region != i } }
    else s
  | none => s

/-- Perform an ordered store, with the modified data that its snoop returned, if any (R116, R126, R137, R149,
R174). -/
def State.performStore (s : State) (w : Work) (returned : Option Line) (poisoned : Bool) : State :=
  let s := s.stageDrop w.line
  let s := if poisoned then s.poisonLine w.req w.prio w.line else s
  let fail := fun (s : State) => s.answerPlain w.op w.req w.prio w.colour 1
  let whole := w.op = 5 ∨ (w.op = 6 ∧ w.req.mask = fullMask ∧ ¬ poisoned)
  if s.writeRefused w.line then fail s
  else if whole then
    (s.enqueueAccess (accessOf w (.write fullMask w.req.data) none)).respond (replyOf w 0x3C) (colourLoad w.colour) 0 0 none
  else if poisoned then fail s
  else if w.op = 6 then
    match returned with
    | some d =>
      (s.writeBack w.req w.prio w.line (mergeLine w.req.mask w.req.data d) false).respond (replyOf w 0x3C)
        (colourLoad w.colour) 0 0 none
    | none => s.enqueueAccess (accessOf w (.write w.req.mask w.req.data) (some (replyOf w 0x3C)))
  else
    let s := match returned with
      | some d => s.writeBack w.req w.prio w.line d false
      | none => s
    s.enqueueAccess (accessOf w (.atomic w.op) (some (replyOf w 0x3C)))

/-! ### End of a transition (R118) -/

/-- The line is stable again: its reservation takes effect (R122). -/
def State.becomeStable (s : State) (ln : Nat) : State :=
  match s.entry ln with
  | some e => if e.resv.isSome then s.putEntry ln { e with resvOn := true } else s
  | none => s

/-- The final state and the response of a transition for request `w` (R116, R126). -/
def State.finishWork (s : State) (t : Trans) (w : Work) : State :=
  let bit := agentBit w.src
  let prev := (s.entry t.line).elim 0 DirEntry.owner
  let s := match t.data with
    | some d => if t.dirtyKept ∨ isStore w.op then s else s.writeBack w.req w.prio t.line d false
    | none => s
  if isStore w.op then (s.setLine t.line .i 0 0).performStore w t.data t.poisoned
  else if t.poisoned then
    let s := (s.setLine t.line .i 0 0).poisonLine w.req w.prio t.line
    s.respond (replyOf w (if w.op = 3 then 0x3A else dataRsp w.op)) (colourLoad w.colour) 1 0 none
  else match w.op with
    | 1 =>
      let sh := if t.keptS then bit ||| agentBit prev else bit
      let s := s.setLine t.line .s sh 0
      match t.data with
      | some d => s.answerData w 0x38 d
      | none => s.readMemory w 0x38
    | 3 =>
      let s := if t.keptX then s.setLine t.line .x (agentBit prev) prev
        else if t.keptS then s.setLine t.line .s (agentBit prev) 0
        else s.setLine t.line .i 0 0
      match t.data with
      | some d => s.answerData w 0x3A d
      | none => s.readMemory w 0x3A
    | op =>
      let e := (s.entry t.line).getD noEntry
      let upgrade := op = 4 ∧ ¬ t.fromX ∧ e.sharers.getLsbD (w.src % 64)
      let s := s.setLine t.line .x bit w.src
      if upgrade then s.respond (replyOf w 0x3B) (colourLoad w.colour) 0 0 none
      else match t.data with
        | some d => s.answerData w 0x39 d
        | none => s.readMemory w 0x39

/-- A transition that serves no request ends: modified data is written under the DIRECTORY charge, or the line
is poisoned, and the way becomes FREE (R129, R131, R384). -/
def State.finishRecall (s : State) (t : Trans) : State :=
  let r : Req := { port := .host 0, addr := s.poolLine t.line }
  let s := match t.data with
    | some d => s.writeBack r 0 t.line d true
    | none => s
  let s := if t.poisoned then s.poisonLine r 0 t.line else s
  s.setLine t.line .i 0 0

/-- End a transition whose last snoop has been answered or has ended; its tag cools (R118, R128). -/
def State.endTrans (s : State) (t : Trans) : State :=
  let s := { s with dir := { s.dir with
    trans := s.dir.trans.filter fun x => x.tag != t.tag
    cooling := s.dir.cooling ++ [t.tag] } }
  let s := match t.work with
    | some w => s.finishWork t w
    | none => s.finishRecall t
  s.becomeStable t.line

/-- Replace a transition, and end it when nothing is outstanding. -/
def State.stepTrans (s : State) (t : Trans) : State :=
  if t.waiting = [] then s.endTrans t
  else { s with dir := { s.dir with trans := s.dir.trans.map fun x => if x.tag = t.tag then t else x } }

/-! ### Decision (R116, R129, R130, R488, R504) -/

/-- Take a victim in a full set: the least recently ordered stable way without a reservation (R129). -/
def State.evictFor (s : State) (ln : Nat) : State :=
  let cand := (s.setEntries ln).filter fun e => e.2.resv.isNone && s.stable e.1
  match argMin (fun e => e.2.used) cand, s.freeTag (homeSlice ln) with
  | some v, some _ =>
    (s.beginTrans v.1 0x21 (agentsOf v.2.sharers) none (v.2.state == .x)).bump
      (E.sliceEvictions (s.countSlice (homeSlice ln)))
  | _, _ => s

/-- A Sward access at its bank (R137, R142, R149, R189). -/
def State.swardWork (s : State) (w : Work) : State :=
  let sl := w.line - 0x20000000000 / 64
  if isStore w.op ∧ w.op ≠ 5 ∧ w.op ≠ 6 then
    match s.swardRead sl with
    | (s, none) => s.answerPlain w.op w.req w.prio w.colour 1
    | (s, some d) =>
      let (s, _) := s.swardWrite sl fullMask (atomicLine w.op w.req d)
      s.respond (replyOf w 0x3C) (colourLoad w.colour) 0 0 (some (atomicResult w.req d))
  else if isStore w.op then
    let (s, ok) := s.swardWrite sl (if w.op = 5 then fullMask else w.req.mask) w.req.data
    s.respond (replyOf w 0x3C) (colourLoad w.colour) (if ok then 0 else 1) 0 none
  else if w.op = 8 then s.respond (replyOf w 0x3C) (colourLoad w.colour) 0 0 none
  else
    let (s, d) := s.swardRead sl
    s.respond (replyOf w 0x3A) (colourLoad w.colour) (if d.isSome then 0 else 1) (d.getD 0) none

/-- A request ordered to the factored-view window: reads wait for their Bracken (R275), a write changes nothing
and is counted (R274). -/
def State.viewWork (s : State) (w : Work) : State :=
  if isStore w.op then
    (s.bump E.viewsViewWrites).answerPlain w.op w.req w.prio w.colour 0
  else if w.op = 8 then s.respond (replyOf w 0x3C) (colourLoad w.colour) 0 0 none
  else { s with dir := { s.dir with viewReads := s.dir.viewReads ++ [w] } }

/-- The transitions of R116 for a request to a line in a stable state. -/
def State.transition (s : State) (w : Work) : State :=
  let e := (s.entry w.line).getD noEntry
  let bit := if w.caching then agentBit w.src else 0
  let mine := w.caching && e.sharers.getLsbD (w.src % 64)
  let others := (agentsOf (e.sharers &&& ~~~bit))
  match e.state, w.op with
  | _, 8 =>
    let s := match e.state with
      | .x => if e.owner = w.src ∧ w.caching then s.setLine w.line .i 0 0 else s
      | .s => if e.sharers &&& ~~~bit = 0 then s.setLine w.line .i 0 0 else s.setLine w.line .s (e.sharers &&& ~~~bit) 0
      | _ => s
    s.respond (replyOf w 0x3C) (colourLoad w.colour) 0 0 none
  | .i, 1 => (s.setLine w.line .s bit 0).readMemory w 0x38
  | .i, 3 => s.readMemory w 0x3A
  | .i, 2 | .i, 4 => (s.setLine w.line .x bit w.src).readMemory w 0x39
  | .i, _ => s.performStore w none false
  | .s, 1 => (s.setLine w.line .s (e.sharers ||| bit) 0).readMemory w 0x38
  | .s, 3 => (s.setLine w.line .s e.sharers 0).readMemory w 0x3A
  | .s, op =>
    if others = [] then
      if isStore op then (s.setLine w.line .i 0 0).performStore w none false
      else
        let s := s.setLine w.line .x bit w.src
        if op = 4 ∧ mine then s.respond (replyOf w 0x3B) (colourLoad w.colour) 0 0 none else s.readMemory w 0x39
    else s.beginTrans w.line 0x21 others (some w) false
  | .x, op =>
    if w.caching ∧ e.owner = w.src then
      if op = 1 then (s.setLine w.line .s bit 0).readMemory w 0x38
      else if op = 3 then s.readMemory w 0x3A
      else if isStore op then (s.setLine w.line .i 0 0).performStore w none false
      else s.readMemory w 0x39
    else s.beginTrans w.line (if op = 1 then 0x20 else if op = 3 then 0x22 else 0x21) [e.owner] (some w) true
  | _, _ => s

/-- The request would leave an entry for a line that has none (R129). -/
def State.needsEntry (s : State) (w : Work) : Bool :=
  (s.entry w.line).isNone && (w.op == 1 || w.op == 2 || w.op == 4)

/-- A request needs a snoop when it is ordered (R116, R128). -/
def State.needsSnoop (s : State) (w : Work) : Bool :=
  match s.entry w.line with
  | some e => (e.state == .x && w.op != 8 && !(w.caching && e.owner == w.src)) ||
      (e.state == .s && w.op != 1 && w.op != 3 && w.op != 8 &&
        e.sharers &&& ~~~(if w.caching then agentBit w.src else 0) != 0)
  | none => false

/-- Note the ordering of a request at its line's entry, for the choice of R129. -/
def State.touch (s : State) (ln : Nat) : State :=
  match s.entry ln with
  | some e => s.putEntry ln { e with used := s.dir.nextAge }
  | none => s

/-- The slice of a line recalls its entries (R131). -/
def State.sliceRecalling (s : State) (ln : Nat) : Bool :=
  match s.ownSlice (homeSlice ln) with
  | some q => s.reg (E.sliceState q) == 2
  | none => false

/-- A line ordered at a slice without entries is answered as cache-less (R488, R504). -/
def State.withoutEntries (s : State) (w : Work) : Work :=
  if (s.ownSlice (homeSlice w.line)).isNone then
    { w with caching := false, op := if w.op = 1 ∨ w.op = 2 ∨ w.op = 4 then 3 else w.op }
  else w

/-- An atomic that is refused: not performed, answered with a zero result and counted (R149). -/
def State.refuseAtomic (s : State) (w : Work) : State :=
  (s.bump (E.sliceProtocolErrors (s.countSlice (homeSlice w.line)))).respond (replyOf w 0x3C)
    (colourLoad w.colour) 0 0 (some (0, 0))

/-- The decision on an ordered request (R116): a transition or another's reservation turns it away, a full set
evicts first, and otherwise the table applies. -/
def State.decideWork (s : State) (w0 : Work) : State :=
  let w := s.withoutEntries w0
  let s := { s with dir := { s.dir with nextAge := s.dir.nextAge + 1 } }
  let s := if w.op = w0.op then s else s.bump (ncKey w.req.port)
  let view := targetOf (w.line * 64) = .view
  if isAtomic w.op ∧ (¬ atomicLegal w.op w.req ∨ view) then s.refuseAtomic w
  else match targetOf (w.line * 64) with
    | .sward => s.swardWork w
    | .view => s.viewWork w
    | _ =>
      let e := (s.entry w.line).getD noEntry
      if ¬ s.stable w.line then s.turnAway w (s.retryAfter w.line)
      else if e.resvOn ∧ e.resv ≠ some w.src then s.turnAway w 2
      else if s.needsEntry w ∧ s.sliceRecalling w.line then s.turnAway w 2
      else if s.needsEntry w ∧ 16 ≤ (s.setEntries w.line).length then (s.evictFor w.line).turnAway w 15
      else if s.needsSnoop w ∧ s.freeTag (homeSlice w.line) = none then s.requeue w
      else
        let s := (s.untrack w).touch w.line
        let s := if e.resvOn then s.endReservation w.line else s
        s.transition w

/-- Recall a line whose entry cannot be trusted: SNP_INV to every configured agent (R130). -/
def State.recallUnknown (s : State) (ln : Nat) : State :=
  (s.beginTrans ln 0x21 (agentsOf s.agentPresent) none false).bump
    (E.sliceEccUncorrected (s.countSlice (homeSlice ln)))

/-- DIRECTORY_LOOKUP_DONE: the oldest lookup of a lane ends; the check of the entry comes first (R106, R130). -/
def State.opLookupDone (s : State) (slice lane : Nat) (ecc : EntryEcc) : State :=
  match s.dir.lookups.find? fun w => homeSlice w.line == slice && homeLane w.line == lane with
  | none => s
  | some w =>
    let s := { s with dir := { s.dir with lookups := removeFirst (fun x => x.age == w.age) s.dir.lookups } }
    match ecc with
    | .good => s.decideWork w
    | .single => (s.bump (E.sliceEccCorrected (s.countSlice slice))).decideWork w
    | .double =>
      if s.stable w.line ∧ targetOf (w.line * 64) = .stacked ∧ (s.ownSlice slice).isSome then
        let s := s.recallUnknown w.line
        match s.transOf w.line with
        | some t => if t.waiting = [] then (s.endTrans t).decideWork w else s.turnAway w 15
        | none => s.turnAway w 15
      else s.decideWork w

/-! ### Lanes (R106, R107) -/

/-- The controller queue of the stack that a line needs is full (R389). -/
def State.controllerFull (s : State) (ln : Nat) : Bool :=
  targetOf (ln * 64) == .stacked &&
    decide (1024 ≤ (s.trail.queue.filter fun a => (s.accessHome a.line).1 == (s.accessHome ln).1).length)

/-- A request would be turned away now: its line is in a transition or reserved, or it needs an entry that its set or its
slice cannot give (R119, R122, R129, R131). -/
def State.wouldWait (s : State) (w0 : Work) : Bool :=
  let w := s.withoutEntries w0
  !s.stable w.line ||
  (match s.entry w.line with
    | some e => e.resvOn && e.resv != some w.src
    | none => false) ||
  (targetOf (w.line * 64) == .stacked && s.needsEntry w &&
    (s.sliceRecalling w.line || decide (16 ≤ (s.setEntries w.line).length)))

/-- A queued request may be ordered now: not within 4 CCLK of the lane's last ordering of its line, not while the
hold queue it would enter is full, not without a tag for its snoop, and not before an earlier store of its
source (R106, R107, R119, R128, R145, R389). -/
def State.orderable (s : State) (w : Work) : Bool :=
  let l := homeSlice w.line
  let soon := s.dir.recent.any fun r => r.2.1 == w.line && decide (s.cclk < r.2.2 + 4)
  let host := match w.req.port with
    | .host _ => true
    | .utxon _ => false
  let blocked := host && s.wouldWait w && decide (256 ≤ (s.heldOf l).length)
  let noTag := s.needsSnoop w && (s.freeTag l).isNone
  let earlier := isStore w.op && !host && (s.dir.queued ++ s.dir.lookups).any fun x =>
    isStore x.op && x.src == w.src && x.req.port == w.req.port && decide (x.age < w.age)
  !soon && !blocked && !noTag && !earlier && !s.controllerFull w.line

/-- The request has the reserved slot of its line (R107, R122). -/
def State.reservedSlot (s : State) (w : Work) : Bool :=
  match s.entry w.line with
  | some e => e.resv == some w.src
  | none => false

/-- The requests in a lane's queues: of priority 0 only the first 16 have entered (R107). -/
def State.laneQueue (s : State) (slice lane : Nat) : List Work :=
  let q := s.dir.queued.filter fun w => homeSlice w.line == slice && homeLane w.line == lane
  (q.filter fun w => w.laneQ == 0).take 16 ++ q.filter fun w => w.laneQ != 0

/-- LANE_ORDER: the arbiter of a lane takes the oldest request that may be ordered, from the most urgent queue
that holds one (R107). -/
def State.opLaneOrder (s : State) (slice lane : Nat) : State :=
  match s.servingSlice slice with
  | none => s
  | some _ =>
    let cand := (s.laneQueue slice lane).filter s.orderable
    match argMin (fun w => (w.laneQ * 2 + if s.reservedSlot w then 0 else 1) * 2 ^ 64 + w.age) cand with
    | none => s
    | some w =>
      State.retryWaiting { s with dir := { s.dir with
          queued := removeFirst (fun x => x.age == w.age) s.dir.queued
          lookups := s.dir.lookups ++ [w]
          recent := (slice * 16 + lane, w.line, s.cclk) ::
            s.dir.recent.filter fun r => decide (s.cclk < r.2.2 + 4) } }

/-- A held request may be released: its line is stable and not reserved for another, its slice gives entries, no victim of
its set is on the way out, and a snoop that it needs has a tag (R119, R122, R128, R129, R131). -/
def State.mayRelease (s : State) (w0 : Work) : Bool :=
  let w := s.withoutEntries w0
  let evicting := decide (16 ≤ (s.setEntries w.line).length) && (s.setEntries w.line).any fun e => e.2.state == .tEvict
  s.stable w.line &&
  (match s.entry w.line with
    | some e => !e.resvOn || e.resv == some w.src
    | none => true) &&
  !(targetOf (w.line * 64) == .stacked && s.needsEntry w && (s.sliceRecalling w.line || evicting)) &&
  !(s.needsSnoop w && (s.freeTag (homeSlice w.line)).isNone)

/-- HOLD_QUEUE_RELEASE: the slice releases its oldest held request that may go, priority 0 first (R119). -/
def State.opHoldRelease (s : State) (slice : Nat) : State :=
  match argMin (fun w => (if w.prio = 0 then 0 else 1) * 2 ^ 64 + w.age) ((s.heldOf slice).filter s.mayRelease) with
  | none => s
  | some w =>
    { s with dir := { s.dir with hold := removeFirst (fun x => x.age == w.age) s.dir.hold } }.decideWork w

/-- RESERVATION_START: a source whose tracker reached 16 reserves its line; a full set first frees a way
(R122). -/
def State.opReservationStart (s : State) (slice src : Nat) : State :=
  match s.dir.trackers.find? fun t => t.slice == slice && t.src == src && t.count == 16 with
  | none => s
  | some t =>
    match s.entry t.line with
    | some e =>
      if e.resv.isSome then s
      else s.putEntry t.line { e with resv := some src, resvOn := s.stable t.line }
    | none =>
      if 16 ≤ (s.setEntries t.line).length then
        if (s.setEntries t.line).any fun e => e.2.state == .tEvict then s else s.evictFor t.line
      else s.putEntry t.line { noEntry with resv := some src, resvOn := true, used := s.dir.nextAge }

/-- RESERVE_LIMIT_EXPIRY: the reservation of a line ends (R122). -/
def State.opReserveExpiry (s : State) (ln : Nat) : State :=
  match s.entry ln with
  | some e => if e.resvOn then s.endReservation ln else s
  | none => s

/-! ### Snoop answers (R113, R118, R123, R126) -/

/-- The answer is allowed for the snoop (R113). -/
def allowedAnswer (snoop : Nat) (k : SnpKind) : Bool :=
  match snoop, k with
  | 0x22, _ => true
  | _, .notPresent | _, .rspI | _, .rspIData => true
  | 0x20, .rspS | 0x20, .rspSData => true
  | _, _ => false

/-- The answer carries data. -/
def answerHasData : SnpKind → Bool
  | .rspIData | .rspSData | .rspKeepData => true
  | _ => false

/-- Take an agent's answer to an outstanding snoop into its transition. -/
def takeAnswer (t : Trans) (a : Nat) (k : SnpKind) (d : Line) : Trans :=
  let k := if allowedAnswer t.snoop k then k else if answerHasData k then .rspIData else .rspI
  { t with
    waiting := t.waiting.filter (· != a)
    data := if answerHasData k then some d else t.data
    keptS := t.keptS || k == .rspS || k == .rspSData
    keptX := t.keptX || k == .rspKeep || k == .rspKeepData
    dirtyKept := t.dirtyKept || k == .rspKeepData }

/-- Count what an answer shows of its agent (R113, R135). -/
def State.noteAnswer (s : State) (t : Trans) (a : Nat) (k : SnpKind) : State :=
  let s := if k = .notPresent then s.bump (E.agentNotPresents a) else s
  if allowedAnswer t.snoop k then s else s.bump (E.agentProtocolErrors a)

/-- A snoop response arrives on a port (R113, R128): it must match an outstanding snoop of its agent. -/
def State.opSnpRsp (s : State) (k : SnpKind) (r : SnpRsp) : State :=
  if ¬ (s.coreOn ∧ s.portUp r.port) then s
  else
    let a := s.portAgent r.port
    match s.dir.trans.find? fun t => t.tag == r.tag && t.waiting.contains a with
    | none => s.bump (E.sliceLateResponses (s.countSlice (r.tag / 2048 % 32)))
    | some t => (s.noteAnswer t a k).stepTrans (takeAnswer t a k r.data)

/-- SNOOP_DEADLINE_EXPIRY: the snoop is issued once more with the same tag (R126, R133). -/
def State.opDeadline (s : State) (tag : Nat) : State :=
  match s.dir.trans.find? fun t => t.tag == tag && !t.repeated with
  | none => s
  | some t =>
    let s := s.stepTrans { t with repeated := true }
    t.waiting.foldl (fun s a =>
      s.snoopAgent t.snoop t.tag t.line a (t.work.elim 0 Work.prio) (t.work.elim 0 fun w => w.req.pitch)) s

/-- An agent that has not answered: suspect, counted and logged (R126). -/
def State.suspect (s : State) (t : Trans) (a : Nat) : State :=
  let s := s.setReg E.dirAgentSuspect (s.reg E.dirAgentSuspect ||| 2 ^ a)
  (s.bump (E.agentTimeouts a)).logEvent 0x0001 (if t.fromX then 2 else 1) 0xFFF 0 (s.poolLine t.line + a * 2 ^ 52)

/-- The transition after agents ended without an answer: an owner's line is poisoned (R126). -/
def unanswered (t : Trans) (as : List Nat) : Trans :=
  { t with waiting := t.waiting.filter (fun a => !as.contains a)
           poisoned := t.poisoned || (t.fromX && t.data.isNone && as ≠ []) }

/-- SNOOP_FINAL_TIMEOUT: the snoops of a tag end without an answer (R126). -/
def State.opFinalTimeout (s : State) (tag : Nat) : State :=
  match s.dir.trans.find? fun t => t.tag == tag && t.repeated with
  | none => s
  | some t =>
    let s := t.waiting.foldl (fun s a => s.suspect t a) s
    s.stepTrans (unanswered t t.waiting)

/-- SNOOP_TAG_FREE: a tag whose transaction has ended is free again (R128). -/
def State.opTagFree (s : State) (tag : Nat) : State :=
  { s with dir := { s.dir with cooling := s.dir.cooling.filter (· != tag) } }

/-! ### Writebacks (R116, R124) -/

/-- A WB_DIRTY for a line of this device's stacked memory: the answer to an outstanding snoop of its agent, the
owner's writeback, or a stray one (R103, R116, R124). -/
def State.writebackLocal (s : State) (r : Req) (src ln : Nat) (caching : Bool) : State :=
  let ack := fun (s : State) => s.answerPlain 7 r r.prio .green 0
  let keep := if r.keep = 3 then 2 else r.keep
  let q := s.countSlice (homeSlice ln)
  let s := if r.keep = 3 then (if caching then s.bump (E.agentProtocolErrors src) else s.bump (E.sliceProtocolErrors q)) else s
  match s.dir.trans.find? fun t => t.line == ln && t.waiting.contains src with
  | some t =>
    if caching then ack (s.stepTrans (takeAnswer t src .rspIData r.data)) else ack (s.bump (E.sliceStrayWb q))
  | none =>
    match s.entry ln with
    | some e =>
      if e.state = .x ∧ e.owner = src ∧ caching then
        let s := s.writeBack r r.prio ln r.data false
        let s := match keep with
          | 0 => s.setLine ln .i 0 0
          | 1 => s.setLine ln .s (agentBit src) 0
          | _ => s.setLine ln .x (agentBit src) src
        ack s
      else ack (s.bump (E.sliceStrayWb q))
    | none => ack (s.bump (E.sliceStrayWb q))

/-- A WB_DIRTY arrives: it is never metered, NAKed or held (R124, R391, R508). -/
def State.opWriteback (s : State) (r0 : Req) : State :=
  if ¬ (s.coreOn ∧ s.portUp r0.port) then s
  else match s.hostMap r0 with
    | none => s
    | some r =>
      let w := s.newWork 7 r
      let s := { s with dir := { s.dir with nextAge := s.dir.nextAge + 1 } }
      if s.fencedSource w.src then s.violation E.violFencedSource 7 r
      else if 2 ^ 52 ≤ r.addr then s.violation E.violUnroutable 7 r
      else match s.routeOf r.addr (s.fromFardan r.port) with
        | .own =>
          let off := bits r.addr 41 0
          if targetOf off = .stile then s.stileServe 7 r w.src r.prio .green
          else if targetOf off = .doorbells ∨ targetOf off = .slots then s.answerPlain 7 r r.prio .green 0
          else match s.agentViolation r with
            | some k => s.violation k 7 r
            | none =>
              if targetOf off = .stacked then s.writebackLocal r w.src (off / 64) w.caching
              else s.violation (E.sliceStrayWb (s.countSlice (homeSlice (off / 64)))) 7 r
        | _ => s.routeWork w

/-- A BIConflict is answered once no response to the host's earlier requests for the line is owed (R115). -/
def State.responsesOwed (s : State) (p : Port) (ln : Nat) : Bool :=
  s.trail.queue.any (fun a => a.line == ln && (match a.reply with
    | some r => r.port == p
    | none => false)) ||
  s.dir.lookups.any (fun w => w.line == ln && w.req.port == p) ||
  s.dir.trans.any (fun t => t.line == ln && (match t.work with
    | some w => w.req.port == p
    | none => false))

/-! ### Accesses of the device's own engines (R101, R137, R138) -/

/-- The answer that the outside gives to a snoop of agent `a` for a line; silence stands for NOT_PRESENT. -/
def envAnswer (env : Env) (ln : Nat) : SnpAns :=
  ((env.snoops.find? fun x => x.1 == ln).map fun x => x.2).getD { kind := .notPresent }

end Sys2Proof.Machine
end

