-- ==== Sys2Proof/Machine/EngineMem.lean ====
section
/-! DEFINITION. Accesses of the device's own engines to the local map (R60, R61, R101, R136 to R138, R142): the
checks of R60, the snoops that an access causes with the answers the outside gives, and the line access itself
with its charge.  Each access is one step: what waits for its line is settled first. -/

namespace Sys2Proof.Machine

/-- The charge of an engine's access: a budget class, a system activity of R384, or none. -/
inductive EngCharge where
  | cls (k : Nat)
  | sys (a : Nat)
  | none
  deriving DecidableEq, Repr

/-- Charge an engine's slots: a class that has none left on a stack borrows (R387). -/
def State.chargeEngine (s : State) (c : EngCharge) (cost : List (Nat × Nat)) : State :=
  match c with
  | .none => s
  | .sys a => s.chargeAll (.system a) cost
  | .cls k => cost.foldl (fun s x => s.charge (if s.classLeft k x.1 then .cls k else .borrowed k) x.1 x.2) s

/-! ### Checks of R60 -/

/-- Pitch `p` owns a mapped region, or holds an alias whose parent is mapped, that covers a page and whose rights allow
the access (R54, R60). -/
def State.pitchMay (s : State) (p page : Nat) (write : Bool) : Bool :=
  s.region.table.any fun e =>
    e.2.mapped && !e.2.lodged && e.2.owner == p && decide (e.2.basePage ≤ page) &&
      decide (page < e.2.basePage + e.2.pages) && (!e.2.isAlias || (s.regionAt e.2.parent).mapped) &&
      (e.2.rights == 3 || (!write && e.2.rights == 1))

/-- The counter of the violation that an engine's access to a local offset for pitch `p` meets; `also` names a
second pitch whose regions pass as well (R59, R60, R72). -/
def State.engineViolation (s : State) (p also off : Nat) (write : Bool) : Option Nat :=
  match targetOf off with
  | .unmapped | .slots | .doorbells | .stile => some E.violUnmappedRange
  | .stacked | .view | .sward =>
    let page := off / 65536
    if (s.coverOf page).isNone then some E.violNoRegion
    else
      if s.pitchMay p page write || s.pitchMay also page write then Option.none else some E.violEngineRights

/-! ### Snoops of an engine's access -/

/-- Every outstanding snoop of a line is answered as the outside answers it, so that its transition ends. -/
def State.settleTrans (s : State) (env : Env) (ln : Nat) : State :=
  match s.transOf ln with
  | Option.none => s
  | some t =>
    let a := envAnswer env ln
    let r := t.waiting.foldl (fun (acc : State × Trans) x =>
      (acc.1.noteAnswer t x a.kind, takeAnswer acc.2 x a.kind a.data)) (s, t)
    r.1.stepTrans r.2

/-- The snoop of an owner for an engine's read: SNP_CUR, with what it leaves of the copy and the data it returns
(R116). -/
def State.engineSnoopCur (s : State) (env : Env) (ln a : Nat) : State × Option Line :=
  let s := if (s.agentPort a).isSome then s.bump (E.agentSnoopsSent a) else s
  let ans := envAnswer env ln
  let s := if ans.kind = .notPresent then s.bump (E.agentNotPresents a) else s
  let s := match ans.kind with
    | .rspKeep | .rspKeepData => s.setLine ln .x (agentBit a) a
    | .rspS | .rspSData => s.setLine ln .s (agentBit a) 0
    | _ => s.setLine ln .i 0 0
  (s, if answerHasData ans.kind then some ans.data else Option.none)

/-- The snoops of every holder for an engine's write: SNP_INV, with the modified data that an owner returns
(R116). -/
def State.engineSnoopInv (s : State) (env : Env) (ln : Nat) (e : DirEntry) : State × Option Line :=
  let as := agentsOf e.sharers
  let ans := envAnswer env ln
  let kind := if e.state = .x ∧ answerHasData ans.kind then SnpKind.rspIData else ans.kind
  let s := as.foldl (fun s a =>
    let s := if (s.agentPort a).isSome then s.bump (E.agentSnoopsSent a) else s
    let s := if kind = .notPresent then s.bump (E.agentNotPresents a) else s
    if allowedAnswer 0x21 kind then s else s.bump (E.agentProtocolErrors a)) s
  (s.setLine ln .i 0 0, if e.state = .x ∧ answerHasData ans.kind then some ans.data else Option.none)

/-! ### Lines of stacked memory -/

/-- An engine reads a line of stacked memory through the directory (R101): none is a read with STATUS POISON. -/
def State.cohRead (s : State) (env : Env) (ln : Nat) (c : EngCharge) : State × Option Line :=
  let s := s.settleTrans env ln
  let e := (s.entry ln).getD noEntry
  let (s, d) := if e.state = .x then s.engineSnoopCur env ln e.owner else (s, Option.none)
  let s := s.settleLine ln
  match d with
  | some d =>
    if (envAnswer env ln).kind = .rspKeepData then (s, some d)
    else
      let m := s.writeLine ln fullMask d 0
      (m.s.chargeEngine c m.cost, some d)
  | Option.none =>
    let m := s.readLine ln 0
    (m.s.chargeEngine c m.cost, if m.ok then some m.data else Option.none)

/-- An engine writes masked bytes of a line of stacked memory through the directory (R101): false is STATUS
POISON. -/
def State.cohWrite (s : State) (env : Env) (ln : Nat) (mask : Mask) (d : Line) (c : EngCharge) : State × Bool :=
  if mask = 0 then (s, true)
  else
    let s := s.settleTrans env ln
    let e := (s.entry ln).getD noEntry
    let (s, old) := if e.state = .s ∨ e.state = .x then s.engineSnoopInv env ln e else (s, Option.none)
    let s := s.settleLine ln
    let m := match old with
      | some o => s.writeLine ln fullMask (mergeLine mask d o) 0
      | Option.none => s.writeLine ln mask d 0
    (m.s.chargeEngine c m.cost, m.ok)

/-- An engine performs an atomic on a line of stacked memory at its stack controller (R149, R150): the state, and
the old line where the line could be read. -/
def State.cohAtomic (s : State) (env : Env) (ln op : Nat) (r : Req) (c : EngCharge) : State × Option Line :=
  let s := s.settleTrans env ln
  let e := (s.entry ln).getD noEntry
  let (s, old) := if e.state = .s ∨ e.state = .x then s.engineSnoopInv env ln e else (s, Option.none)
  let s := s.settleLine ln
  let s := match old with
    | some o => let m := s.writeLine ln fullMask o 0; m.s.chargeEngine c m.cost
    | Option.none => s
  let m := s.updateLine ln false (atomicLine op r) 0
  (m.s.chargeEngine c m.cost, if m.ok then some m.data else Option.none)

/-! ### Checked accesses to the local map (stacked memory and Sward) -/

/-- The Sward line of a local offset. -/
def swardLineOf (off : Nat) : Nat := (off - 0x20000000000) / 64

/-- How an engine's access to the pool ended. -/
inductive EngStat where
  | ok
  | poison
  | linkLost
  | timedOut
  deriving DecidableEq, Repr

/-- The result of an engine's read: the state, how it ended, and the data. -/
structure EngRes where
  s : State
  st : EngStat
  data : Line

/-- An engine acting for pitch `p` (and passing also with regions of `also`) reads a line of the local map outside
the factored-view window; a violation returns zero (R60, R61). -/
def State.localRead (s : State) (env : Env) (p also off : Nat) (c : EngCharge) : EngRes :=
  match s.engineViolation p also off false with
  | some k => ⟨s.bump k, .ok, 0⟩
  | Option.none =>
    if targetOf off = .sward then
      match s.swardRead (swardLineOf off) with
      | (s, some d) => ⟨s, .ok, d⟩
      | (s, Option.none) => ⟨s, .poison, 0⟩
    else if targetOf off = .stacked then
      match s.cohRead env (off / 64) c with
      | (s, some d) => ⟨s, .ok, d⟩
      | (s, Option.none) => ⟨s, .poison, 0⟩
    else ⟨s, .ok, 0⟩

/-- An engine writes masked bytes of a line of the local map; a violation and a write to the factored-view window
are ignored (R60, R61, R274). -/
def State.localWrite (s : State) (env : Env) (p also off : Nat) (mask : Mask) (d : Line) (c : EngCharge) :
    State × EngStat :=
  match s.engineViolation p also off true with
  | some k => (s.bump k, .ok)
  | Option.none =>
    if targetOf off = .sward then
      let r := s.swardWrite (swardLineOf off) mask d
      (r.1, if r.2 then .ok else .poison)
    else if targetOf off = .stacked then
      let r := s.cohWrite env (off / 64) mask d c
      (r.1, if r.2 then .ok else .poison)
    else (s.bump E.viewsViewWrites, .ok)

/-! ### Byte ranges -/

/-- The pieces of a byte range by line: line address, offset in the line, bytes. -/
def linePieces (addr len : Nat) : List (Nat × Nat × Nat) :=
  if len = 0 then []
  else
    let first := addr / 64
    let last := (addr + len - 1) / 64
    (List.range (last + 1 - first)).map fun i =>
      let l := first + i
      let lo := max addr (l * 64)
      let hi := min (addr + len) (l * 64 + 64)
      (l * 64, lo - l * 64, hi - lo)

/-- The bytes of a piece of a line. -/
def pieceBytes (d : Line) (off n : Nat) : List Byte := ((lineBytes d).drop off).take n

end Sys2Proof.Machine
end

