-- ==== Sys2Proof/Machine/Mx.lean ====
section
/-! DEFINITION. Element formats of R215 with their E8M0 scales: decoding, conversion from FP32 (R218), the packing of
R290, and the block sums of the Ridgepole (R213 to R217). -/

namespace Sys2Proof.Machine

/-- A small FP element format: exponent bits, mantissa bits, bias, greatest finite magnitude code. -/
structure MiniFmt where
  eb : Nat
  mb : Nat
  bias : Nat
  maxCode : Nat
  deriving DecidableEq, Repr

/-- The FP element formats of the MX codes (R215). -/
def miniFmt (code : Nat) : Option MiniFmt :=
  match code with
  | 0 => some ⟨2, 1, 1, 7⟩
  | 2 => some ⟨3, 2, 3, 31⟩
  | 3 => some ⟨2, 3, 1, 31⟩
  | 4 => some ⟨4, 3, 7, 0x7E⟩
  | 5 => some ⟨5, 2, 15, 0x7B⟩
  | _ => none

/-- Width of an element in bits (R215). -/
def elemBits (code : Nat) : Nat :=
  match code with
  | 0 | 1 => 4
  | 2 | 3 => 6
  | 4 | 5 | 6 => 8
  | 8 | 9 => 16
  | 10 => 32
  | _ => 0

/-- A code of R215 that is not reserved. -/
def knownFormat (code : Nat) : Bool := elemBits code != 0

/-- An MX format: it carries a scale byte for each block of 32. -/
def isMx (code : Nat) : Bool := decide (code < 7)

/-- The wide format of a code 8, 9 or 10. -/
def wideFmt (code : Nat) : Fmt :=
  match code with
  | 8 => bf16
  | 9 => fp16
  | _ => fp32

/-- Emax of R215. -/
def elemEmax (code : Nat) : Int :=
  match code with
  | 0 => 2
  | 2 => 4
  | 3 => 2
  | 4 => 8
  | 5 => 15
  | _ => 0

/-- Decode an element of a small FP format. -/
def MiniFmt.decode (f : MiniFmt) (x : Nat) : Fv :=
  let neg := bitOf x (f.eb + f.mb)
  let a := x % 2 ^ (f.eb + f.mb)
  let e := a / 2 ^ f.mb
  let m := a % 2 ^ f.mb
  let q : Int := 1 - (f.bias : Int) - (f.mb : Int)
  if e = 0 then .fin neg m q else .fin neg (m + 2 ^ f.mb) (q + (e - 1 : Nat))

/-- The value of an element (R215). -/
def elemValue (code x : Nat) : Fv :=
  match code with
  | 1 => let q := sgn 4 x; .fin (decide (q < 0)) q.natAbs (-2)
  | 6 => let q := sgn 8 x; .fin (decide (q < 0)) q.natAbs (-6)
  | 4 => if x % 128 = 127 then .nan else MiniFmt.decode ⟨4, 3, 7, 0x7E⟩ x
  | 5 =>
    if x % 128 = 0x7C then .inf (bitOf x 7) else if 0x7C < x % 128 then .nan else MiniFmt.decode ⟨5, 2, 15, 0x7B⟩ x
  | _ => match miniFmt code with
    | some f => f.decode x
    | none => (wideFmt code).decode x

/-- A value times 2^k. -/
def Fv.scale (v : Fv) (k : Int) : Fv :=
  match v with
  | .fin n m e => .fin n m (e + k)
  | _ => v

/-- The value of an element under its E8M0 scale byte; a scale of 0xFF makes it a NaN (R217, R275). -/
def scaledValue (code x scale : Nat) : Fv :=
  if isMx code then (if scale = 0xFF then .nan else (elemValue code x).scale ((scale : Int) - 127)) else elemValue code x

/-- Element `i` of a packed bit string of `w`-bit elements (R213). -/
def packedElem (w i : Nat) (bs : List Byte) : Nat :=
  bits (leNat ((bs.drop (w * i / 8)).take 5)) (w * i % 8 + w - 1) (w * i % 8)

/-- Elements as a packed bit string, in whole bytes (R213). -/
def packElems (w : Nat) (xs : List Nat) : List Byte :=
  leBytes ((w * xs.length + 7) / 8) (xs.foldr (fun x acc => x % 2 ^ w + 2 ^ w * acc) 0)

/-- The magnitude code nearest to m · 2^e, ties to even, saturated (R218, R290). -/
def MiniFmt.round (f : MiniFmt) (m : Nat) (e : Int) : Nat :=
  if m = 0 then 0
  else
    let emin : Int := 1 - (f.bias : Int)
    let ex := max (e + (m.log2 : Nat)) emin
    let (n, rem, d) := toUnit m e (ex - (f.mb : Int))
    let n' := if roundUp .rne false n rem d false then n + 1 else n
    min f.maxCode ((ex - emin).toNat * 2 ^ f.mb + n')

/-- An element of an MX format from an exact value already divided by its scale (R218). -/
def roundElem (code : Nat) (v : Fv) : Nat :=
  match v with
  | .fin neg m e =>
    match miniFmt code with
    | some f => (if neg then 2 ^ (f.eb + f.mb) else 0) + f.round m e
    | none =>
      let frac : Int := if code = 1 then -2 else -6
      let lim : Nat := if code = 1 then 7 else 127
      let (n, rem, d) := toUnit m e frac
      let n' := min lim (if roundUp .rne neg n rem d false then n + 1 else n)
      uns (if code = 1 then 4 else 8) (signedMant neg n')
  | _ => 0

/-- The floor of the base-2 logarithm of a finite value other than zero. -/
def Fv.log2 : Fv → Int
  | .fin _ m e => e + (m.log2 : Nat)
  | _ => 0

/-- The largest magnitude of finite values. -/
def maxMag (vs : List Fv) : Fv := vs.foldl (fun a v => if a.lt v.abs then v.abs else a) (.fin false 0 0)

/-- The scale byte and element codes of a block of values for a given X (R218, R290). -/
def blockWith (code : Nat) (x : Int) (vs : List Fv) : Nat × List Nat :=
  ((x + 127).toNat, vs.map fun v => roundElem code (v.scale (-x)))

/-- Conversion of a block of 32 FP32 values to an MX format (R218). -/
def mxBlock (code : Nat) (vs : List Fv) : Nat × List Nat :=
  if vs.any fun v => !v.finite then (0xFF, vs.map fun _ => 0)
  else
    let m := maxMag vs
    if m.isZero then (0, vs.map fun _ => 0)
    else blockWith code (max (-127) (min 127 (m.log2 - elemEmax code))) vs

/-- The greatest finite magnitude of an MX format. -/
def maxFinite (code : Nat) : Fv :=
  match miniFmt code with
  | some f => (f.decode f.maxCode).abs
  | none => if code = 1 then .fin false 7 (-2) else .fin false 127 (-6)

/-- Packing of a block by ACT_PACK: X is the least for which nothing saturates (R290). -/
def packBlock (code : Nat) (vs : List Fv) : Nat × List Nat :=
  if vs.any fun v => !v.finite then (0xFF, vs.map fun _ => 0)
  else
    let m := maxMag vs
    if m.isZero then (0, vs.map fun _ => 0)
    else
      let x0 := m.log2 - elemEmax code
      let x := if m.le ((maxFinite code).scale x0) then x0 else x0 + 1
      blockWith code (max (-127) (min 127 x)) vs

/-- Conversion of an FP32 encoding to BF16, FP16 or FP32 (R218). -/
def convertOut (code : Nat) (sat : Bool) (x : Nat) : Nat :=
  if code = 10 then x
  else
    let f := wideFmt code
    let r := (f.encode .rne (fp32.decode x)).1
    if sat ∧ (fp32.decode x).finite ∧ r % f.signBit = f.infBits then r - 1 else r

/-! ### Ridgepole blocks (R213, R216, R217) -/

/-- Bytes of a panel block: 64 rows of 32 elements, with 64 scale bytes for MX formats (R213). -/
def panelBlockBytes (code : Nat) : Nat := 64 * 32 * elemBits code / 8 + if isMx code then 64 else 0

/-- The 32 values of row `i` of block `t` of a panel. -/
def panelRow (code t i : Nat) (bs : List Byte) : List Fv :=
  let b := bs.drop (t * panelBlockBytes code)
  let row := (b.drop (i * 4 * elemBits code)).take (4 * elemBits code)
  let scale := ((b.drop (64 * 4 * elemBits code)).getD i 0).toNat
  (List.range 32).map fun e => scaledValue code (packedElem (elemBits code) e row) scale

/-- The exact sum of the products of two rows; an exact sum of zero is +0 (R216, R217). -/
def blockDot (a b : List Fv) : Fv :=
  let p := (a.zip b).foldl (fun acc x => acc.add .rne (x.1.mul x.2)) (.fin false 0 0)
  if p.isZero then .fin false 0 0 else p

/-- c + s, rounded once (R216). -/
def accumulate (c : Nat) (s : Fv) : Nat := (fp32.encode .rne ((fp32.decode c).add .rne s)).1

end Sys2Proof.Machine
end

