-- ==== Sys2Proof/Machine/Expand.lean ====
section
/-! DEFINITION. Reading a factored view: factor streams, segment buffers, the expansion of a line, and damage
(R267 to R279). -/

namespace Sys2Proof.Machine

/-! ### View records and streams -/

/-- The view record of a region index. -/
def State.viewAt (s : State) (i : Nat) : View := SMap.get (fun _ => {}) s.eng.views i

/-- Set a view record. -/
def State.setView (s : State) (i : Nat) (v : View) : State :=
  { s with eng := { s.eng with views := SMap.set (fun _ => {}) s.eng.views i v } }

/-- Views existing (R295). -/
def State.viewCount (s : State) : Nat := s.eng.views.length

/-- VEC_BYTES of a factor stream (R268). -/
def vecBytes (ffmt rank : Nat) : Nat := if ffmt = 8 then 2 * rank else rank + rank / 32

/-- SEGMENTS of a stream (R267). -/
def segmentsOf (ffmt rank dim : Nat) : Nat := cdiv (dim * vecBytes ffmt rank) 4096

/-- Length of a stream (R268). -/
def streamBytes (ffmt rank dim : Nat) : Nat := 64 + 4100 * segmentsOf ffmt rank dim

/-- Element `k` of a vector of a factor stream (R268, R275). -/
def factorElem (ffmt rank k : Nat) (vec : List Byte) : Fv :=
  if ffmt = 8 then bf16.decode (leNat ((vec.drop (2 * k)).take 2))
  else scaledValue ffmt (vec.getD k 0).toNat (vec.getD (rank + k / 32) 0).toNat

/-- Bytes of an element of a target format. -/
def targetBytes (tfmt : Nat) : Nat := elemBits tfmt / 8

/-- ROW_PITCH in bytes (R271). -/
def View.rowPitch (v : View) : Nat := cdiv (v.n * targetBytes v.tfmt) 64 * 64

/-- The base of a view's stream: V when `isV`. -/
def View.base (v : View) (isV : Bool) : Nat := if isV then v.vBase else v.uBase

/-- The vectors of a view's stream. -/
def View.dim (v : View) (isV : Bool) : Nat := if isV then v.n else v.m

/-! ### Segments (R277, R279) -/

/-- How a segment's fetch ends: its bytes, poison, or damage with its cause (R279). -/
inductive SegEnd where
  | ok (bytes : List Byte)
  | poison
  | damage (cause : Nat)
  deriving DecidableEq, Repr

/-- Read consecutive lines of local stacked memory for pitch `p`, counting them as factor lines of a Bracken. -/
def State.factorLines (env : Env) (p b addr : Nat) (c : EngCharge) : Nat → State → State × SegEnd
  | 0, s => (s, .ok [])
  | n + 1, s =>
    match factorLines env p b addr c n s with
    | (s, .ok bs) =>
      let off := bits (addr + 64 * n) 41 0
      match s.engineViolation p p off false with
      | some k => (s.bump k, .damage 2)
      | none =>
        let r := (s.bump (E.brackenFactorLines b)).localRead env p p off c
        if r.st = .ok then (r.s, .ok (bs ++ lineBytes r.data)) else (r.s, .poison)
    | e => e

/-- Put a segment at the front of its Bracken's buffer; the least recently used one gives way (R277). -/
def State.bufferSegment (s : State) (g : Segment) : State :=
  let mine := fun (x : Segment) => x.bracken == g.bracken && x.isV == g.isV
  let rest := s.eng.segs.filter fun x => !(mine x && x.view == g.view && x.seg == g.seg)
  let kept := (rest.filter mine).take ((if g.isV then 1024 else 64) - 1)
  { s with eng := { s.eng with segs := g :: (kept ++ rest.filter fun x => !mine x) } }

/-- A segment's bytes agree with its entry of the CRC table, whose line is given (R268, R269). -/
def segmentGood (seg : Nat) (bytes crcLine : List Byte) : Bool :=
  leNat ((crcLine.drop (4 * seg % 64)).take 4) == crc32c bytes

/-- Fetch a segment of view `i` for its OWNER, from the Bracken's buffer or from memory (R276, R277, R279). -/
def State.fetchSegment (s : State) (env : Env) (i : Nat) (v : View) (isV : Bool) (seg : Nat) (c : EngCharge) :
    State × SegEnd :=
  match s.eng.segs.find? fun x => x.bracken == v.bracken && x.view == i && x.isV == isV && x.seg == seg with
  | some g => (s.bufferSegment g, .ok g.bytes)
  | none =>
    let owner := (SMap.get (fun _ => {}) s.region.table i : Region).owner
    let base := v.base isV
    let table := base + 64 + 4096 * segmentsOf v.ffmt v.rank (v.dim isV)
    match s.factorLines env owner v.bracken (base + 64 + 4096 * seg) c 64 with
    | (s, .ok bytes) =>
      match s.factorLines env owner v.bracken ((table + 4 * seg) / 64 * 64) c 1 with
      | (s, .ok crcLine) =>
        if segmentGood seg bytes crcLine then
          (s.bufferSegment { bracken := v.bracken, view := i, isV, seg, bytes }, .ok bytes)
        else (s.bump (E.brackenCrcFails v.bracken), .damage 1)
      | e => e
    | e => e

/-- Fetch the vectors of a range of a stream: their bytes from the first vector on. -/
def State.fetchVectors (s : State) (env : Env) (i : Nat) (v : View) (isV : Bool) (first count : Nat) (c : EngCharge) :
    State × SegEnd × Nat :=
  let vb := vecBytes v.ffmt v.rank
  let lo := first * vb / 4096
  let hi := (first * vb + count * vb + 4095) / 4096
  let r := (List.range (hi - lo)).foldl (fun (acc : State × SegEnd × Nat) k =>
    match acc with
    | (s, .ok bs, _) =>
      match s.fetchSegment env i v isV (lo + k) c with
      | (s, .ok b) => (s, .ok (bs ++ b), 0)
      | (s, e) => (s, e, lo + k)
    | _ => acc) (s, .ok [], 0)
  match r with
  | (s, .ok bs, _) => (s, .ok ((bs.drop (first * vb - lo * 4096)).take (count * vb)), 0)
  | e => e

/-! ### Expansion (R274, R275) -/

/-- One element: the sum over k of u[k] · v[k], each addition rounded once, converted to the target format. -/
def expandElem (ffmt rank tfmt : Nat) (sat : Bool) (u v : List Byte) : Nat :=
  convertOut tfmt sat ((List.range rank).foldl (fun acc k =>
    accumulate acc ((factorElem ffmt rank k u).mul (factorElem ffmt rank k v))) 0)

/-- A view becomes DAMAGED; its record keeps the first damage (R279). -/
def State.damageView (s : State) (i cause : Nat) (isV : Bool) (seg : Nat) : State :=
  let r : Region := SMap.get (fun _ => {}) s.region.table i
  let v := s.viewAt i
  let s := if v.cause = 0 then s.setView i { v with cause, stream := b2n isV, segment := seg } else s
  let s := { s with region := { s.region with table := SMap.set (fun _ => {}) s.region.table i { r with state := .damaged } } }
  (s.bump E.viewsDamageEvents).logEvent 0x0010 2 r.owner (unitWord .bracken v.bracken) i

/-- Read the line at byte `d` of view `i`: none is STATUS POISON (R274 to R279). -/
def State.viewLine (s : State) (env : Env) (i d : Nat) (c : EngCharge) : State × Option Line :=
  let v := s.viewAt i
  let r : Region := SMap.get (fun _ => {}) s.region.table i
  if ¬ v.used ∨ r.state = .damaged ∨ s.reg (E.brackenState v.bracken) ≠ 1 then (s, none)
  else
    let e := targetBytes v.tfmt
    let row := d / v.rowPitch
    let j0 := d % v.rowPitch / e
    let count := min (64 / e) (v.n - j0)
    let done := fun (s : State) => s.bump (E.brackenLinesExpanded v.bracken)
    if v.m ≤ row ∨ count = 0 then (done s, some 0)
    else match s.fetchVectors env i v false row 1 c with
      | (s, .poison, _) => (done (s.bump E.viewsFactorPoisons), none)
      | (s, .damage k, g) => (done (s.damageView i k false g), none)
      | (s, .ok u, _) =>
        match s.fetchVectors env i v true j0 count c with
        | (s, .poison, _) => (done (s.bump E.viewsFactorPoisons), none)
        | (s, .damage k, g) => (done (s.damageView i k true g), none)
        | (s, .ok vs, _) =>
          let vb := vecBytes v.ffmt v.rank
          let elems := (List.range count).map fun j =>
            expandElem v.ffmt v.rank v.tfmt v.sat u ((vs.drop (j * vb)).take vb)
          (done s, some (lineOfBytes (elems.flatMap fun x => leBytes e x)))

/-- An engine reads a line of the factored-view window (R60, R274). -/
def State.viewRead (s : State) (env : Env) (p off : Nat) (c : EngCharge) : EngRes :=
  match s.engineViolation p p off false with
  | some k => ⟨s.bump k, .ok, 0⟩
  | none =>
    match s.coverOf (off / 65536) with
    | some (i, r) =>
      match s.viewLine env i (off - r.basePage * 65536) c with
      | (s, some d) => ⟨s, .ok, d⟩
      | (s, none) => ⟨s, .poison, 0⟩
    | none => ⟨s, .ok, 0⟩

/-- An engine reads a line of the local map, wherever it lies. -/
def State.engineRead (s : State) (env : Env) (p off : Nat) (c : EngCharge) : EngRes :=
  if targetOf off = .view then s.viewRead env p off c else s.localRead env p p off c

end Sys2Proof.Machine
end

