-- ==== Sys2Proof/Machine/Xlate.lean ====
section
/-! DEFINITION. Translation: table walks, the translation cache, translation records, faults and their service, and
invalidations (R70 to R99). -/

namespace Sys2Proof.Machine

/-! ### Descriptors (R241) -/

/-- Word `i` of a descriptor. -/
def Desc.word (d : Desc) (i : Nat) : Nat := (d.words.getD i 0).toNat

/-- A field of a descriptor's word. -/
def Desc.fld (d : Desc) (i hi lo : Nat) : Nat := bits (d.word i) hi lo

/-- OPCODE. -/
def Desc.opcode (d : Desc) : Nat := d.fld 0 7 0

/-- BUDGET_CLASS. -/
def Desc.bclass (d : Desc) : Nat := d.fld 0 14 10

/-- TIMED. -/
def Desc.timed (d : Desc) : Bool := bitOf (d.word 0) 15

/-- LATE_CANCEL. -/
def Desc.lateCancel (d : Desc) : Bool := bitOf (d.word 0) 16

/-- AFTER_PREV. -/
def Desc.afterPrev (d : Desc) : Bool := bitOf (d.word 0) 17

/-- NO_REISSUE. -/
def Desc.noReissue (d : Desc) : Bool := bitOf (d.word 0) 18

/-- LAUNCH_TIME. -/
def Desc.launch (d : Desc) : Nat := d.word 1

/-- The charge of every access that the descriptor causes. -/
def Desc.charge (d : Desc) : EngCharge := .cls d.bclass

/-- The descriptor of a name. -/
def State.desc (s : State) (d : DescId) : Option Desc := s.work.descs.find? fun x => x.id == d

/-- Replace a descriptor. -/
def State.setDesc (s : State) (d : Desc) : State :=
  { s with work := { s.work with descs := s.work.descs.map fun x => if x.id = d.id then d else x } }

/-- Decide a descriptor's status, unless one is decided already (R253). -/
def State.decideDesc (s : State) (d : Desc) (o : DescOut) : State :=
  if d.outcome.isSome then s
  else s.setDesc { d with phase := .decided, outcome := some o, fault := none, todo := [],
                          start := some (d.start.getD s.now) }

/-! ### Rings -/

/-! ### One page (R70 to R75, R78, R86) -/

/-- The number of index bits below a level. -/
def levelShift (level : Nat) : Nat := 16 + 13 * level

/-- The index of a virtual address at a level (R71). -/
def levelIndex (va level : Nat) : Nat := if level = 3 then bits va 56 55 else bits va (levelShift level + 12) (levelShift level)

/-- The key of a cached entry: pitch, level and the index path down to it. -/
def xkey (p level va : Nat) : Nat := (p * 4 + level) * 2 ^ 48 + va / 2 ^ levelShift level

/-- A reserved bit of a table entry is set (R73, R74). -/
def entryReserved (e : Nat) : Bool :=
  bits e 63 52 != 0 || (if bitOf e 1 then bits e 15 7 != 0 else bits e 15 2 != 0)

/-- A valid entry is malformed at a level (R74). -/
def State.badEntry (s : State) (e level : Nat) : Bool :=
  let leaf := bitOf e 1
  entryReserved e || (leaf && decide (2 ≤ level)) || (!leaf && level == 0) ||
    (!leaf && bits e 51 42 != s.deviceNumber) ||
    (leaf && level == 1 && bits e 28 16 != 0) ||
    (leaf && bitOf e 4 && (!bitOf e 3 || level == 1))

/-- How the walk of a page ends. -/
inductive WalkEnd where
  /-- A leaf: its entry, level and the entry's pool address. -/
  | leaf (entry level addr : Nat)
  | fault (cause level entry addr : Nat)
  deriving DecidableEq, Repr

/-- Read a table entry at a pool address (R72): none is poison. -/
def State.readEntry (s : State) (env : Env) (p addr : Nat) (c : EngCharge) : State × Option Nat :=
  let off := bits addr 41 0
  if targetOf off ≠ .stacked then (s.bump E.violEngineRights, some 0)
  else
    let r := s.localRead env p 0 (off / 64 * 64) c
    match r.st with
    | .ok => (r.s, some (takeBytes r.data (off % 64 / 8 * 8) 8))
    | _ => (r.s, none)

/-- The most entries that the translation cache holds (R80). -/
def xcacheSize : Nat := 32768

/-- Put an entry into the translation cache; an entry is displaced when it is full (R80). -/
def State.cacheEntry (s : State) (k e : Nat) : State :=
  let m := SMap.set (fun _ => 0) s.work.xcache k (BitVec.ofNat 64 e)
  { s with work := { s.work with xcache := if xcacheSize < m.length then m.drop 1 else m } }

/-- The walk of one page from a level down: `node` is the node's pool address; `fresh` reads every level from memory
(R90). -/
def State.walkFrom (s : State) (env : Env) (p va : Nat) (write fresh : Bool) (c : EngCharge) :
    Nat → Nat → State × WalkEnd
  | node, level + 1 =>
    let lv := level
    let addr := node + 8 * levelIndex va lv
    let cached := (SMap.get (fun _ => 0) s.work.xcache (xkey p lv va)).toNat
    let (s, r) := if cached ≠ 0 ∧ ¬ fresh then (s, some cached) else s.readEntry env p addr c
    match r with
    | none =>
      let (n, s) := s.drawFree
      (s, .fault 5 lv (Config.freeBits 64 n % 2 ^ 64) addr)
    | some e =>
      if ¬ bitOf e 0 then (s, .fault 1 lv e addr)
      else if s.badEntry e lv then (s, .fault 4 lv e addr)
      else if bitOf e 1 then
        if write ∧ ¬ bitOf e 2 then (s, .fault 2 lv e addr)
        else if bitOf e 3 ∧ bitOf e 4 then (s, .fault 3 lv e addr)
        else (s.cacheEntry (xkey p lv va) e, .leaf e lv addr)
      else
        (s.cacheEntry (xkey p lv va) e).walkFrom env p va write fresh c (bits e 51 16 * 65536) level
  | _, 0 => (s, .fault 4 0 0 0)

/-- The walk of one page of pitch `p` (R76, R86). -/
def State.walkPage (s : State) (env : Env) (p va : Nat) (write fresh : Bool) (c : EngCharge) : State × WalkEnd :=
  let root := s.reg (E.pitchXlateRoot p)
  if 2 ^ 57 ≤ va then (s, .fault 6 7 0 0)
  else if root = 0 then (s, .fault 1 3 0 0)
  else
    let base := root / 65536 * 65536
    if bits root 51 42 ≠ s.deviceNumber then
      let (n, s) := s.drawFree
      (s, .fault 4 3 (Config.freeBits 64 n % 2 ^ 64) (base + 8 * levelIndex va 3))
    else s.walkFrom env p va write fresh c base 4

/-- The extent of one page of a leaf (R75). -/
def leafExtent (va entry level : Nat) : Extent :=
  let frame := bits entry 51 16 * 65536
  let target := if level = 1 then frame + bits va 28 16 * 65536 else frame
  { va, bytes := 65536, host := bitOf entry 3, port := if bitOf entry 3 then bits entry 6 5 else 0,
    write := bitOf entry 2, target }

/-- Add a page to a record: it joins the last extent where it is contiguous with it (R76). -/
def addPage (rec : List Extent) (x : Extent) : List Extent :=
  match rec.getLast? with
  | some l =>
    if l.va + l.bytes = x.va ∧ l.target + l.bytes = x.target ∧ l.host = x.host ∧ l.port = x.port ∧ l.write = x.write
    then rec.dropLast ++ [{ l with bytes := l.bytes + x.bytes }]
    else rec ++ [x]
  | none => rec ++ [x]

/-- The extent of a record that covers a virtual address. -/
def findExtent (rec : List Extent) (va : Nat) : Option Extent :=
  rec.find? fun x => decide (x.va ≤ va) && decide (va < x.va + x.bytes)

/-! ### Raising a fault (R82, R84, R85, R87, R89) -/

/-- The pool address of a fault entry. -/
def State.faultSlot (s : State) (p seq : Nat) : Nat := s.reg (E.pitchFaultRingBase p) / 4096 * 4096 + 64 * (seq % 64)

/-- Write a line of pitch `p`'s own memory through the directory, as its regions or pitch 0's allow (R84, R252). -/
def State.ownWrite (s : State) (env : Env) (p addr : Nat) (mask : Mask) (d : Line) (c : EngCharge) : State :=
  if bits addr 51 42 = s.deviceNumber ∧ targetOf (bits addr 41 0) = .stacked then
    (s.localWrite env p 0 (bits addr 41 6 * 64) mask d c).1
  else s.bump E.violEngineRights

/-- The eight words of a fault entry when it is written (R85). -/
def faultWords (d : Desc) (f : FaultRef) (slot seq now : Nat) : List Word :=
  [packWord [(0, f.va / 65536 * 65536 % 2 ^ 57), (57, b2n f.write)],
   packWord [(0, f.cause), (8, f.level), (16, d.id.pitch), (32, 1)],
   packWord [(0, d.id.ring), (16, slot)],
   BitVec.ofNat 64 f.entry, BitVec.ofNat 64 f.addr, BitVec.ofNat 64 now, 0,
   packWord [(0, seq)]]

/-- Raise the fault of a parked descriptor, or enter fault-wait; `again` is true for a descriptor that comes out of
fault-wait, which is not counted anew (R87, R89). -/
def State.raiseFault (s : State) (env : Env) (d : Desc) (f : FaultRef) (again : Bool) : State :=
  let p := d.id.pitch
  if s.reg (E.pitchFaultRingBase p) = 0 then s.decideDesc d { status := 0x0C, detail := f.cause }
  else match s.work.faults.find? fun e => e.pitch == p && e.va == f.va && e.cause == f.cause && !e.acted with
    | some e =>
      let w := min 65535 (e.waiters + 1)
      let s := s.setDesc { d with phase := .parked, fault := some { f with slot := some e.seq } }
      let es := s.work.faults.map fun x => if x = e then { x with waiters := w } else x
      let s := { s with work := { s.work with faults := es } }
      s.ownWrite env p (s.faultSlot p e.seq) (rangeMask 8 8)
        (placeBytes 8 8 (packWord [(0, f.cause), (8, f.level), (16, p), (32, w)]).toNat) d.charge
    | none =>
      let tail := s.reg (E.pitchFaultTail p)
      if seqSub 16 tail (s.reg (E.pitchFaultDone p)) = 64 then
        let s := if again then s else s.bump (E.pitchFaultWaitOverflow p)
        s.setDesc { d with phase := .parked, fault := some { f with slot := none } }
      else
        let s := s.setDesc { d with phase := .parked, fault := some { f with slot := some tail } }
        let slot := d.id.seq % 2 ^ (s.ring p d.id.ring).log2
        let s := s.ownWrite env p (s.faultSlot p tail) fullMask (lineOfWords (faultWords d f slot tail s.now)) d.charge
        let e : FaultEnt := { pitch := p, seq := tail, va := f.va, cause := f.cause, entry := f.entry, addr := f.addr,
                              raiser := d.id, waiters := 1, acted := false, finished := false, failed := false,
                              closed := false }
        let s := { s with work := { s.work with faults := s.work.faults ++ [e] } }
        (s.setReg (E.pitchFaultTail p) ((tail + 1) % 65536)).bump (E.pitchFaults p)

/-! ### The walk of a descriptor (R76, R77, R245) -/

/-- The state of a descriptor's walk: the machine, the record so far, and how it stopped. -/
inductive WalkStop where
  | going
  | fault (f : FaultRef)
  | limit
  deriving DecidableEq, Repr

/-- Pages of a range. -/
def rangePages (r : VRange) : Nat := if r.len = 0 then 0 else (r.va + r.len - 1) / 65536 + 1 - r.va / 65536

/-- Walk `n` pages from page address `va`; `fresh` applies to the first page only (R90). -/
def State.walkPages (env : Env) (p : Nat) (write : Bool) (c : EngCharge) :
    Nat → Nat → Bool → State → List Extent → State × List Extent × WalkStop × Nat
  | 0, va, _, s, rec => (s, rec, .going, va)
  | n + 1, va, fresh, s, rec =>
    match s.walkPage env p va write fresh c with
    | (s, .leaf e lv _) =>
      let rec' := addPage rec (leafExtent va e lv)
      if 1024 < rec'.length then (s, rec, .limit, va)
      else walkPages env p write c n (va + 65536) false s rec'
    | (s, .fault cause lv e addr) =>
      (s, rec, .fault { va, write, cause, level := lv, entry := e, addr, time := s.now, slot := none }, va)

/-- Walk ranges in order: the state, the record, how it stopped, and the ranges left. -/
def State.walkRanges (env : Env) (p : Nat) (c : EngCharge) :
    List VRange → Bool → State → List Extent → State × List Extent × WalkStop × List VRange
  | [], _, s, rec => (s, rec, .going, [])
  | r :: rs, fresh, s, rec =>
    match walkPages env p r.write c (rangePages r) (r.va / 65536 * 65536) fresh s rec with
    | (s, rec, .going, _) => walkRanges env p c rs false s rec
    | (s, rec, stop, va) => (s, rec, stop, { r with va := max r.va va, len := r.va + r.len - max r.va va } :: rs)

/-- The byte at a virtual address goes to this target under a record. -/
def recordAddr (rec : List Extent) (va : Nat) : Option (Extent × Nat) :=
  (findExtent rec va).map fun x => (x, x.target + (va - x.va))

/-- An access that leaves the device (R32, R75, R91): the answer of another device for a pool line. -/
def envRemote (env : Env) (line : Nat) : RemAns :=
  ((env.remote.find? fun x => x.1 == line).map fun x => x.2).getD { status := .timedOut }

/-- The answer of a host for a host physical line on a port. -/
def envHost (env : Env) (port line : Nat) : RemAns :=
  ((env.hosts.find? fun x => x.1 == (port, line)).map fun x => x.2).getD { status := .timedOut }

/-- How an access that left the device ended. -/
def remStat : RemStatus → EngStat
  | .ok => .ok
  | .poison => .poison
  | .linkLost => .linkLost
  | .timedOut => .timedOut

/-- The outcome of a request that R32 routes to another device, given the answer from there. -/
def State.remoteEnd (s : State) (env : Env) (addr : Nat) : EngRes :=
  match s.routeOf addr false with
  | .via _ | .held _ =>
    let a := envRemote env (addr / 64 * 64)
    ⟨s, remStat a.status, a.data⟩
  | .linkLost => ⟨s, .linkLost, 0⟩
  | .own => ⟨s, .ok, 0⟩
  | .unroutable => ⟨s.bump E.violUnroutable, .ok, 0⟩

/-- An engine that does not use a write-back cache reads the line of a translated address (R75): local, on another
device, or in host memory. -/
def State.targetRead (s : State) (env : Env) (p : Nat) (x : Extent) (addr : Nat) (c : EngCharge) : EngRes :=
  if x.host then
    if s.portUp (.host x.port) then
      let a := envHost env x.port (addr / 64 * 64)
      ⟨s, remStat a.status, a.data⟩
    else ⟨s, .linkLost, 0⟩
  else if bits addr 51 42 = s.deviceNumber then s.engineRead env p (bits addr 41 6 * 64) c
  else s.remoteEnd env addr

/-- Read `len` bytes at a virtual address under a record, up to the first access that does not end well. -/
def State.readVirt (s : State) (env : Env) (p : Nat) (rec : List Extent) (va len : Nat) (c : EngCharge) :
    State × EngStat × List Byte :=
  (linePieces va len).foldl (fun (acc : State × EngStat × List Byte) q =>
    match acc with
    | (s, .ok, bs) =>
      match recordAddr rec (q.1 + q.2.1) with
      | some (x, a) =>
        let r := s.targetRead env p x (a / 64 * 64) c
        (r.s, r.st, bs ++ pieceBytes r.data q.2.1 q.2.2)
      | none => (s, .poison, bs)
    | _ => acc) (s, .ok, [])

/-- The operand that an operand-table entry describes, none where it is not allowed (R245). -/
def operandOf (w0 w1 : Nat) : Option VRange :=
  let read := bitOf w0 57
  let write := bitOf w0 58
  let stage := bitOf w0 59
  let len := bits w1 39 0
  if len = 0 ∨ (¬ read ∧ ¬ write) ∨ (stage ∧ ¬ read) then none
  else some { va := bits w0 56 0, len, read, write, stage }

/-- The code range of a RUN_KERNEL (R244). -/
def Desc.codeRange (d : Desc) : VRange := { va := d.fld 4 56 0, len := d.fld 6 16 0 }

/-- OPERAND_COUNT of a RUN_KERNEL. -/
def Desc.operandCount (d : Desc) : Nat := d.fld 6 28 24

/-- The status that an access which does not end well gives its descriptor (R253). -/
def statOut : EngStat → Nat
  | .ok => 0
  | .poison => 0x08
  | .linkLost => 0x06
  | .timedOut => 0x07

/-- The operand table of a RUN_KERNEL, read through the descriptor's record (R245): the status with which the descriptor
completes where the table cannot be used, 0 where it can, and the operands.  A table that reads as poison completes
BAD_ARGUMENT, and a read that ends LINK_LOST or TIMED_OUT completes so (R253). -/
def State.readTable (s : State) (env : Env) (d : Desc) (rec : List Extent) : State × Nat × List VRange :=
  match s.readVirt env d.id.pitch rec (d.fld 5 56 0) (16 * d.operandCount) d.charge with
  | (s, .ok, bs) =>
    let ws := wordsOfBytes bs
    let ops := (List.range d.operandCount).map fun i =>
      operandOf (ws.getD (2 * i) 0).toNat (ws.getD (2 * i + 1) 0).toNat
    (s, if ops.all Option.isSome then 0 else 0x03, ops.filterMap id)
  | (s, .poison, _) => (s, 0x03, [])
  | (s, st, _) => (s, statOut st, [])

/-- The walk of a descriptor goes on from where it stands: it ends translated, parked, or completed (R76, R77, R82,
R245). -/
def State.walkDesc (s : State) (env : Env) (d : Desc) (fresh again : Bool) : State :=
  let p := d.id.pitch
  match walkRanges env p d.charge d.todo fresh s d.record with
  | (s, rec, .fault f, todo) => s.raiseFault env { d with record := rec, todo, rewalk := false } f again
  | (s, _, .limit, _) => (s.bump (E.pitchXlateLimits p)).decideDesc d { status := 0x0D }
  | (s, rec, .going, _) =>
    if d.needTable then
      match s.readTable env d rec with
      | (s, status, ops) =>
        if status ≠ 0 then s.decideDesc d { status } else
        let d := { d with needTable := false, operands := ops, record := [], todo := [], fault := none }
        match walkRanges env p d.charge (d.codeRange :: ops) false s [] with
        | (s, rec, .fault f, todo) => s.raiseFault env { d with record := rec, todo, rewalk := false } f again
        | (s, _, .limit, _) => (s.bump (E.pitchXlateLimits p)).decideDesc d { status := 0x0D }
        | (s, rec, .going, _) => s.setDesc { d with phase := .ready, record := rec, rewalk := false }
    else s.setDesc { d with phase := .ready, record := rec, todo := [], fault := none, rewalk := false }

/-- WALK_COMPLETE: the walk of a descriptor ends. -/
def State.opWalkComplete (s : State) (id : DescId) (env : Env) : State :=
  match s.desc id with
  | some d => if d.phase = .walking ∧ d.opcode ≠ 0x10 then s.walkDesc env d false false else s
  | none => s

/-! ### Counters of R88 and actions (R90, R91) -/

/-- A write of FAULT_HEAD that keeps the order of R88. -/
def State.writeFaultHead (s : State) (p v : Nat) : State :=
  let done := s.reg (E.pitchFaultDone p)
  let head := s.reg (E.pitchFaultHead p)
  let tail := s.reg (E.pitchFaultTail p)
  s.writeWhen (decide (v < 65536) && decide (seqSub 16 head done ≤ seqSub 16 v done) &&
    decide (seqSub 16 v done ≤ seqSub 16 tail done)) fun s => s.setReg (E.pitchFaultHead p) v

/-- The entry whose action the device takes next: responded to, not yet read, with every earlier one read and fewer
than 8 in flight (R88). -/
def State.nextAction (s : State) (p seq : Nat) : Option FaultEnt :=
  let done := s.reg (E.pitchFaultDone p)
  let es := s.work.faults.filter fun e => e.pitch == p
  let here := seqSub 16 seq done
  if seqSub 16 (s.reg (E.pitchFaultHead p)) done ≤ here then none
  else if 8 ≤ (es.filter fun e => e.acted && !e.finished).length then none
  else if es.any fun e => decide (seqSub 16 e.seq done < here) && !e.acted then none
  else es.find? fun e => e.seq == seq && !e.acted

/-- Word 6 of a fault entry, as the device reads it: ACTION and DEST_FRAME (R85); a poisoned line reads as zero. -/
def State.readAction (s : State) (env : Env) (p seq : Nat) : State × Nat :=
  let addr := s.faultSlot p seq
  if bits addr 51 42 = s.deviceNumber ∧ targetOf (bits addr 41 0) = .stacked then
    let r := s.localRead env p 0 (bits addr 41 6 * 64) (.cls 0)
    (r.s, if r.st = .ok then takeBytes r.data 48 8 else 0)
  else (s.bump E.violEngineRights, 0)

/-- Mark an entry. -/
def State.setFault (s : State) (e e' : FaultEnt) : State :=
  { s with work := { s.work with faults := s.work.faults.map fun x => if x = e then e' else x } }

/-- Descriptors attached to an entry. -/
def State.attached (s : State) (p seq : Nat) : List Desc :=
  s.work.descs.filter fun d => d.id.pitch == p && d.phase == .parked &&
    (match d.fault with
      | some f => f.slot == some seq
      | none => false)

/-- The budget class of the first descriptor attached to an entry; 0 where none is (R91). -/
def State.waiterClass (s : State) (e : FaultEnt) : Nat :=
  let ds := s.attached e.pitch e.seq
  (((ds.find? fun d => d.id == e.raiser).or ds.head?).map Desc.bclass).getD 0

/-- Each attached descriptor walks its faulting page again from memory (R90). -/
def State.retryAttached (s : State) (env : Env) (p seq : Nat) : State :=
  (s.attached p seq).foldl (fun s d =>
    match s.desc d.id with
    | some d => s.walkDesc env { d with phase := .walking, fault := none } true false
    | none => s) s

/-- The action RETRY. -/
def State.opRetry (s : State) (p seq : Nat) (env : Env) : State :=
  match s.nextAction p seq with
  | none => s
  | some e =>
    let (s, w) := s.readAction env p seq
    if bits w 3 0 ≤ 1 then
      (s.setFault e { e with acted := true, finished := true }).retryAttached env p seq
    else s

/-- The action ABORT: each attached descriptor completes TRANSLATION_FAULT (R90). -/
def State.opAbort (s : State) (p seq : Nat) (env : Env) : State :=
  match s.nextAction p seq with
  | none => s
  | some e =>
    let (s, w) := s.readAction env p seq
    if 3 ≤ bits w 3 0 then
      let s := s.setFault e { e with acted := true, finished := true }
      (s.attached p seq).foldl (fun s d => s.decideDesc d { status := 0x0C, detail := e.cause }) s
    else s

/-- The destination page of a migration is allowed (R91 step 2). -/
def State.migrateTarget (s : State) (p frame : Nat) : Bool :=
  let addr := frame * 65536
  bits addr 51 42 == s.deviceNumber && targetOf (bits addr 41 0) == .stacked &&
    (match s.coverOf (bits addr 41 16) with
      | some (_, r) => r.state == .live && r.rights == 3 && r.placement == 0 && !r.factored && r.owner == p && !r.lodged
      | none => false)

/-- Fail a migration: the leaf is unchanged and each attached descriptor completes MIGRATE_FAILED (R91). -/
def State.failMigrate (s : State) (e : FaultEnt) : State :=
  let s := s.setFault e { e with acted := true, finished := true, failed := true }
  let s := s.bump (E.pitchMigrateFails e.pitch)
  (s.attached e.pitch e.seq).foldl (fun s d => s.decideDesc d { status := 0x0E }) s

/-- Remove the cached leaf of a page (R80, R91 step 5). -/
def State.dropLeaf (s : State) (p va : Nat) : State :=
  let k0 := xkey p 0 va
  let k1 := xkey p 1 va
  { s with work := { s.work with xcache := s.work.xcache.filter fun e =>
      !(e.1 == k0 || (e.1 == k1 && bitOf e.2.toNat 1)) } }

/-- CXL.io tags of a port that no request of the device uses. -/
def State.freeIoTags (s : State) (port : Nat) : List Nat :=
  (List.range 65536).filter fun g => !(s.port.ios.any fun q => q.port == port && q.tag == g)

/-- The 1,024 reads of a migration leave on a host port (R91 step 3). -/
def State.sendReads (s : State) (m : Migration) (port src : Nat) (tags : List Nat) : State :=
  let reqs : List IoReq := tags.zipIdx.map fun q =>
    { port, tag := q.1, addr := src + 64 * q.2, dst := m.frame * 65536 + 64 * q.2, pitch := m.pitch, seq := m.seq }
  let s := { s with
    work := { s.work with migrations := s.work.migrations ++ [m] }
    port := { s.port with ios := s.port.ios ++ reqs } }
  s.emitAll (reqs.map fun q => .cxlIo port q.tag q.addr false 0)

/-- The action MIGRATE_IN (R91 steps 1 to 3). -/
def State.opMigrateIn (s : State) (p seq : Nat) (env : Env) : State :=
  match s.nextAction p seq with
  | none => s
  | some e =>
    let (s, w) := s.readAction env p seq
    if bits w 3 0 ≠ 2 then s
    else
      let k := s.waiterClass e
      let (s, now) := s.readEntry env p e.addr (.cls k)
      let port := bits e.entry 6 5
      let tags := (s.freeIoTags port).take 1024
      if now ≠ some e.entry then (s.setFault e { e with acted := true, finished := true }).retryAttached env p seq
      else if ¬ s.migrateTarget p (bits w 51 16) ∨ ¬ s.portUp (.host port) then s.failMigrate e
      else if tags.length < 1024 then s
      else
        (s.setFault e { e with acted := true }).sendReads
          { pitch := p, seq, va := e.va, addr := e.addr, entry := e.entry, frame := bits w 51 16, bclass := k }
          port (bits e.entry 51 16 * 65536) tags

/-- The reads of a migration are over. -/
def State.endReads (s : State) (p seq : Nat) : State :=
  { s with
    work := { s.work with migrations := s.work.migrations.filter fun m => !(m.pitch == p && m.seq == seq) }
    port := { s.port with ios := s.port.ios.filter fun q => !(q.pitch == p && q.seq == seq) } }

/-- Steps 4 and 5 of a migration whose lines have all arrived, and the RETRY that follows (R91). -/
def State.finishMigrate (s : State) (m : Migration) (env : Env) : State :=
  let leaf := packWord [(0, 3), (2, bits m.entry 2 2), (16, m.frame)]
  let off := m.addr % 64 / 8 * 8
  let s := (s.endReads m.pitch m.seq).ownWrite env m.pitch m.addr (rangeMask off 8) (placeBytes off 8 leaf.toNat) (.cls m.bclass)
  let s := (s.dropLeaf m.pitch m.va).bump (E.pitchMigrations m.pitch)
  match s.work.faults.find? fun e => e.pitch == m.pitch && e.seq == m.seq with
  | some e => (s.setFault e { e with finished := true }).retryAttached env m.pitch m.seq
  | none => s

/-- A migration fails in step 3. -/
def State.abandonMigrate (s : State) (p seq : Nat) : State :=
  if ¬ (s.work.migrations.any fun m => m.pitch == p && m.seq == seq) then s
  else
  let s := s.endReads p seq
  match s.work.faults.find? fun e => e.pitch == p && e.seq == seq with
  | some e => s.failMigrate e
  | none => s

/-- CXL_IO_COMPLETION: a line of a migration arrives, or its read fails (R91). -/
def State.opIoCompletion (s : State) (port tag : Nat) (ans : RemAns) (env : Env) : State :=
  match s.port.ios.find? fun q => q.port == port && q.tag == tag with
  | none => s
  | some q =>
    match s.work.migrations.find? fun m => m.pitch == q.pitch && m.seq == q.seq with
    | none => s.endReads q.pitch q.seq
    | some m =>
      if ans.status = .ok then
        let s := { s with port := { s.port with ios := s.port.ios.filter fun r => r != q } }
        let s := (s.localWrite env q.pitch q.pitch (bits q.dst 41 0) fullMask ans.data (.cls m.bclass)).1
        if s.port.ios.any fun r => r.pitch == q.pitch && r.seq == q.seq then s else s.finishMigrate m env
      else s.abandonMigrate q.pitch q.seq

/-- Every CXL.io request of a host port completes LINK_LOST (R374). -/
def State.loseIo (s : State) (port : Nat) : State :=
  (s.port.ios.filter fun q => q.port == port).foldl (fun s q => s.abandonMigrate q.pitch q.seq) s

/-- The descriptor in fault-wait with the oldest fault time of a pitch (R89). -/
def State.oldestWaiter (s : State) (p : Nat) : Option Desc :=
  argMin (fun d => (d.fault.elim 0 FaultRef.time) * 2 ^ 40 + d.id.ring * 2 ^ 32 + d.id.seq)
    (s.work.descs.filter fun d => d.id.pitch == p && d.phase == .parked &&
      (match d.fault with
        | some f => f.slot.isNone
        | none => false))

/-- A slot of the fault ring has become free: one descriptor in fault-wait walks again (R89). -/
def State.serveFaultWait (s : State) (env : Env) (p : Nat) : State :=
  match s.oldestWaiter p with
  | none => s
  | some d => s.walkDesc env { d with phase := .walking, fault := none } true true

/-- FAULT_DONE advances past entries whose action has completed, in slot order, each freeing a slot (R88, R89). -/
def State.advanceDone (env : Env) (p : Nat) : Nat → State → State
  | 0, s => s
  | n + 1, s =>
    let done := s.reg (E.pitchFaultDone p)
    match s.work.faults.find? fun e => e.pitch == p && e.seq == done && e.closed with
    | none => s
    | some _ =>
      let s := { s with work := { s.work with faults := s.work.faults.filter fun x => !(x.pitch == p && x.seq == done) } }
      advanceDone env p n ((s.setReg (E.pitchFaultDone p) ((done + 1) % 65536)).serveFaultWait env p)

/-- FAULT_ACTION_DONE: DONE is set in the entry, and FAULT_DONE advances (R88, R90). -/
def State.opFaultActionDone (s : State) (p seq : Nat) (env : Env) : State :=
  match s.work.faults.find? fun e => e.pitch == p && e.seq == seq && e.finished && !e.closed with
  | none => s
  | some e =>
    let s := (s.setFault e { e with closed := true }).ownWrite env p (s.faultSlot p seq) (rangeMask 56 8)
      (placeBytes 56 8 (packWord [(0, seq), (16, 1), (17, b2n e.failed)]).toNat) (.cls 0)
    if s.reg (E.pitchFaultDone p) = seq then advanceDone env p 64 s else s

/-! ### Roots, ring bases and invalidations (R93 to R98) -/

/-- Remove all of a pitch's cached translations (R80). -/
def State.dropPitchCache (s : State) (p : Nat) : State :=
  { s with work := { s.work with xcache := s.work.xcache.filter fun e => e.1 / 2 ^ 50 != p } }

/-- A write of XLATE_ROOT (R80, R98). -/
def State.writeXlateRoot (s : State) (p v : Nat) : State := (s.setReg (E.pitchXlateRoot p) v).dropPitchCache p

/-- Descriptors of a pitch in fault-wait (R99). -/
def State.faultWaiting (s : State) (p : Nat) : Nat :=
  (s.work.descs.filter fun d => d.id.pitch == p && d.phase == .parked &&
    (match d.fault with
      | some f => f.slot.isNone
      | none => false)).length

/-- Descriptors of a pitch that are parked (R99). -/
def State.parkedCount (s : State) (p : Nat) : Nat :=
  (s.work.descs.filter fun d => d.id.pitch == p && d.phase == .parked).length

/-- A write of FAULT_RING_BASE (R98). -/
def State.writeFaultBase (s : State) (p v : Nat) : State :=
  s.writeWhen (s.reg (E.pitchFaultTail p) == s.reg (E.pitchFaultDone p) && s.faultWaiting p == 0)
    fun s => s.setReg (E.pitchFaultRingBase p) v

/-- The range of an invalidation covers a virtual address; PAGES = 0 is the whole space (R93). -/
def Inval.covers (v : Inval) (va len : Nat) : Bool :=
  v.pages == 0 || (decide (va < v.va + v.pages * 65536) && decide (v.va < va + len))

/-- An invalidation's range is allowed (R95). -/
def invalLegal (va pages : Nat) : Bool := decide (va % 65536 = 0) && decide (va < 2 ^ 57) && decide (va + pages * 65536 ≤ 2 ^ 57)

/-- Remove cached leaves of the range and every cached node pointer of the pitch (R93 step 1). -/
def State.dropRange (s : State) (v : Inval) : State :=
  { s with work := { s.work with xcache := s.work.xcache.filter fun e =>
      let p := e.1 / 2 ^ 50
      let level := e.1 / 2 ^ 48 % 4
      let va := (e.1 % 2 ^ 48) * 2 ^ levelShift level
      !(p == v.pitch && (!bitOf e.2.toNat 1 || v.covers va (2 ^ levelShift level))) } }

/-- The operand ranges of a descriptor that an invalidation concerns: its code, table and operands. -/
def Desc.ranges (d : Desc) : List VRange :=
  if d.opcode = 2 then
    d.codeRange :: ({ va := d.fld 5 56 0, len := 16 * d.operandCount } : VRange) :: d.operands
  else d.operands

/-- An undispatched descriptor is walked again from its first page (R93 step 2). -/
def Desc.restart (d : Desc) : Desc :=
  if d.opcode = 2 ∧ 0 < d.operandCount then
    { d with phase := .walking, rewalk := true, needTable := true, record := [], fault := none, operands := [],
             todo := [{ va := d.fld 5 56 0, len := 16 * d.operandCount }] }
  else
    { d with phase := .walking, rewalk := true, record := [], fault := none,
             todo := if d.opcode = 2 then [d.codeRange] else d.operands }

/-- Take an invalidation: steps 1 and 2 begin (R93). -/
def State.takeInval (s : State) (v : Inval) : State :=
  let s := s.dropRange v
  let hit (d : Desc) : Bool := d.id.pitch == v.pitch &&
    (d.phase == .ready || d.phase == .parked || d.phase == .walking) && d.ranges.any fun r => v.covers r.va r.len
  { s with work := { s.work with
      descs := s.work.descs.map fun d => if hit d then d.restart else d
      invals := s.work.invals.map fun x => if x = v then { v with taken := true } else x } }

/-- Queue an invalidation: it is taken at once when no other of the pitch is in progress (R93, R95). -/
def State.queueInval (s : State) (v : Inval) : State :=
  let busy := s.work.invals.any fun x => x.pitch == v.pitch
  let s := { s with work := { s.work with invals := s.work.invals ++ [v] } }
  if busy then s else s.takeInval v

/-- XLATE_INVALIDATE of a fetched descriptor (R93, R95, R246). -/
def State.opXlateInvalidate (s : State) (id : DescId) : State :=
  match s.desc id with
  | none => s
  | some d =>
    if d.opcode ≠ 0x10 ∨ d.phase ≠ .walking then s
    else
      let va := d.word 4
      let pages := d.word 5
      let p := if id.pitch = 0 then d.fld 8 27 16 else id.pitch
      if invalLegal va pages then
        (s.setDesc { d with phase := .running, start := some s.now }).queueInval
          { pitch := p, va, pages, owner := some id, taken := false }
      else s.decideDesc d { status := 0x03 }

/-- Invalidations pending on the dictionary path (R99). -/
def State.invalPending (s : State) (p : Nat) : Nat :=
  (s.work.invals.filter fun x => x.pitch == p && x.owner.isNone).length

/-- A write of the 32 B image to XLATE_INVAL (R93, R95); one whose range is not allowed completes and changes
nothing. -/
def State.writeXlateInval (s : State) (p : Nat) (b : List Byte) : State :=
  let va := leNat (b.take 8)
  let pages := leNat ((b.drop 8).take 8)
  if b.length ≠ 32 ∨ s.invalPending p = 15 then s.ignoreWrite
  else if invalLegal va pages then s.queueInval { pitch := p, va, pages, owner := none, taken := false }
  else s.setReg (E.pitchInvalDone p) ((s.reg (E.pitchInvalDone p) + 1) % 2 ^ 32)

/-- Steps 2 and 3 of an invalidation have ended (R93). -/
def State.invalEnded (s : State) (v : Inval) : Bool :=
  !(s.work.descs.any fun d => d.id.pitch == v.pitch &&
    ((d.rewalk && d.phase == .walking) ||
      ((d.phase == .dispatched || d.phase == .running || (d.phase == .decided && d.unit.isSome)) &&
        d.id != v.owner.getD { pitch := 4096, ring := 0, seq := 0 } && d.ranges.any fun r => v.covers r.va r.len)))

/-- INVALIDATION_DONE: the invalidation in progress of a pitch completes, and the next one is taken (R93, R95). -/
def State.opInvalidationDone (s : State) (p : Nat) : State :=
  match s.work.invals.find? fun x => x.pitch == p && x.taken with
  | none => s
  | some v =>
    if ¬ s.invalEnded v then s
    else
      let s := { s with work := { s.work with invals := s.work.invals.filter fun x => x != v } }
      let s := match v.owner with
        | some id => match s.desc id with
          | some d => s.decideDesc d { status := 0 }
          | none => s
        | none => s.setReg (E.pitchInvalDone p) ((s.reg (E.pitchInvalDone p) + 1) % 2 ^ 32)
      match s.work.invals.find? fun x => x.pitch == p with
      | some v => s.takeInval v
      | none => s

end Sys2Proof.Machine
end

