-- ==== Sys2Proof/Machine/Virt.lean ====
section
/-! DEFINITION. Engines' accesses through a descriptor's translation record: reads and writes of byte ranges, by
line, to local stacked memory, to other devices and to host memory (R60, R75, R76, R138, R140). -/

namespace Sys2Proof.Machine

/-- An engine that does not use a write-back cache writes masked bytes of the line of a translated address (R75). -/
def State.targetWrite (s : State) (env : Env) (p : Nat) (x : Extent) (addr : Nat) (mask : Mask) (d : Line)
    (c : EngCharge) : State × EngStat :=
  if mask = 0 then (s, .ok)
  else if x.host then
    if s.portUp (.host x.port) then
      let a := envHost env x.port (addr / 64 * 64)
      (s.emit (.access (some x.port) (if mask = fullMask then 0x05 else 0x06) (addr / 64 * 64) mask d), remStat a.status)
    else (s, .linkLost)
  else if bits addr 51 42 = s.deviceNumber then s.localWrite env p p (bits addr 41 6 * 64) mask d c
  else
    let r := s.remoteEnd env addr
    match s.routeOf addr false with
    | .via _ | .held _ =>
      (r.s.emit (.access none (if mask = fullMask then 0x05 else 0x06) (addr / 64 * 64) mask d), r.st)
    | _ => (r.s, r.st)

/-- Write bytes at a virtual address under a record, up to the first access whose link is lost or that times out. -/
def State.writeVirt (s : State) (env : Env) (p : Nat) (rec : List Extent) (va : Nat) (bs : List Byte) (c : EngCharge) :
    State × EngStat :=
  (linePieces va bs.length).foldl (fun (acc : State × EngStat) q =>
    match acc with
    | (s, .linkLost) => (s, .linkLost)
    | (s, .timedOut) => (s, .timedOut)
    | (s, _) =>
      let at_ := q.1 + q.2.1
      match recordAddr rec at_ with
      | some (x, a) =>
        s.targetWrite env p x (a / 64 * 64) (rangeMask q.2.1 q.2.2)
          (placeBytes q.2.1 q.2.2 (leNat ((bs.drop (at_ - va)).take q.2.2))) c
      | none => (s, .ok)) (s, .ok)

/-- Read `len` bytes, going past lines that return poison: the data, with the offsets of the bytes that poison gave
left zero, and whether any line was poisoned. -/
def State.readVirtAll (s : State) (env : Env) (p : Nat) (rec : List Extent) (va len : Nat) (c : EngCharge) :
    State × EngStat × List Byte :=
  (linePieces va len).foldl (fun (acc : State × EngStat × List Byte) q =>
    match recordAddr rec (q.1 + q.2.1) with
    | some (x, a) =>
      let r := acc.1.targetRead env p x (a / 64 * 64) c
      let st := if acc.2.1 = .ok then r.st else acc.2.1
      (r.s, st, acc.2.2 ++ (if r.st = .ok then pieceBytes r.data q.2.1 q.2.2 else List.replicate q.2.2 0))
    | none => (acc.1, .poison, acc.2.2 ++ List.replicate q.2.2 0)) (s, .ok, [])

/-- Read bytes at a local pool address for pitch `p` (R60). -/
def State.readPool (s : State) (env : Env) (p addr len : Nat) (c : EngCharge) : State × EngStat × List Byte :=
  (linePieces addr len).foldl (fun (acc : State × EngStat × List Byte) q =>
    match acc with
    | (s, .ok, bs) =>
      let r := s.localRead env p p (bits q.1 41 6 * 64) c
      (r.s, r.st, bs ++ pieceBytes r.data q.2.1 q.2.2)
    | _ => acc) (s, .ok, [])

/-- Write bytes at a local pool address for pitch `p` (R60). -/
def State.writePool (s : State) (env : Env) (p addr : Nat) (bs : List Byte) (c : EngCharge) : State :=
  (linePieces addr bs.length).foldl (fun (s : State) q =>
    let at_ := q.1 + q.2.1
    (s.localWrite env p p (bits q.1 41 6 * 64) (rangeMask q.2.1 q.2.2)
      (placeBytes q.2.1 q.2.2 (leNat ((bs.drop (at_ - addr)).take q.2.2))) c).1) s

/-- A virtual range translates to one extent of the device's own stacked memory (R272, R325, R422): its pool
address. -/
def State.oneExtent (s : State) (rec : List Extent) (va len : Nat) : Option Nat :=
  match findExtent rec va with
  | some x =>
    if va + len ≤ x.va + x.bytes ∧ ¬ x.host ∧ bits (x.target + (va - x.va)) 51 42 = s.deviceNumber ∧
        targetOf (bits (x.target + (va - x.va)) 41 0) = .stacked
    then some (x.target + (va - x.va)) else none
  | none => none

/-- Every page of a local range of stacked memory lies in a LIVE STACKED region that pitch `p` owns or aliases with the
rights asked for (R272, R300, R325, R422). -/
def State.rangeRights (s : State) (p addr len : Nat) (write : Bool) : Bool :=
  bits addr 51 42 == s.deviceNumber && targetOf (bits addr 41 0) == .stacked &&
    (List.range (rangePages { va := addr, len })).all fun i =>
      let page := bits addr 41 16 + i
      s.region.table.any fun e =>
        e.2.state == .live && !e.2.lodged && e.2.owner == p && (e.2.placement == 0 || e.2.placement == 2) &&
          !e.2.factored && decide (e.2.basePage ≤ page) && decide (page < e.2.basePage + e.2.pages) &&
          (!e.2.isAlias || (s.regionAt e.2.parent).state == .live) &&
          (if write then e.2.rights == 3 else e.2.rights == 1 || e.2.rights == 3)

/-- A local range touches a region with PROTECT = 1 (R284). -/
def State.rangeProtected (s : State) (addr len : Nat) : Bool :=
  (List.range (rangePages { va := addr, len })).any fun i =>
    match s.coverOf (bits addr 41 16 + i) with
    | some (_, r) => r.protect
    | none => false

/-- A virtual range touches a region with PROTECT = 1 of the device (R284). -/
def State.virtProtected (s : State) (rec : List Extent) (va len : Nat) : Bool :=
  (List.range (rangePages { va, len })).any fun i =>
    match recordAddr rec (max va ((va / 65536 + i) * 65536)) with
    | some (x, a) => !x.host && bits a 51 42 == s.deviceNumber && targetOf (bits a 41 0) == .stacked &&
        s.rangeProtected a 1
    | none => false

end Sys2Proof.Machine
end

