-- ==== Sys2Proof/Machine/Operands.lean ====
section
/-! DEFINITION. Operand forms: for every descriptor opcode, the fields of its body, the checks of its ranges
(BAD_ARGUMENT), the virtual ranges that are walked at enqueue, and the unit that runs it (R243 to R246, R270, R283,
R285, R289, R297, R302, R306, R310, R320, R330 to R335, R421, R425, R430). -/

namespace Sys2Proof.Machine

/-! ### Records named by descriptors -/

/-- The record of a table. -/
def State.tableAt (s : State) (h : Nat) : Table := SMap.get (fun _ => {}) s.eng.tables h

/-- The record of an index. -/
def State.indexAt (s : State) (h : Nat) : Index := SMap.get (fun _ => {}) s.eng.indices h

/-- The record of a group. -/
def State.groupAt (s : State) (h : Nat) : Group := SMap.get (fun _ => {}) s.eng.groups h

/-- The view that a region index names for a pitch, an alias standing for its parent (R293). -/
def State.viewOf (s : State) (p i : Nat) : Option Nat :=
  let r := s.regionAt i
  if r.mapped ∧ r.owner = p ∧ ¬ r.lodged then
    let j := if r.isAlias then r.parent else i
    if (s.viewAt j).used then some j else none
  else none

/-- The table that a handle names for a pitch (R301). -/
def State.tableOf (s : State) (p h : Nat) : Option Table :=
  let t := s.tableAt h
  if t.used ∧ t.owner = p then some t else none

/-- The index that a handle names for a pitch (R326). -/
def State.indexOf (s : State) (p h : Nat) : Option Index :=
  let x := s.indexAt h
  if x.used ∧ x.owner = p then some x else none

/-- The group that a handle names for a pitch (R422). -/
def State.groupOf (s : State) (p h : Nat) : Option Group :=
  let g := s.groupAt h
  if g.used ∧ g.pitch = p then some g else none

/-! ### Fields of records -/

/-- Elements per row of a table. -/
def Table.dim (t : Table) : Nat := fld (t.words.getD 0 0) 52 40

/-- ROWS of a table. -/
def Table.rows (t : Table) : Nat := fld (t.words.getD 0 0) 39 0

/-- ROW_FMT of a table. -/
def Table.fmt (t : Table) : Nat := fld (t.words.getD 0 0) 55 53

/-- BLOCK_ROWS of a table. -/
def Table.blockRows (t : Table) : Nat := fld (t.words.getD 1 0) 23 0

/-- ROW_STRIDE of a table. -/
def Table.stride (t : Table) : Nat := fld (t.words.getD 1 0) 46 32

/-- DEFAULT_ADDR of a table. -/
def Table.dflt (t : Table) : Nat := fld (t.words.getD 3 0) 51 0

/-- ACC_BASE of a table. -/
def Table.acc (t : Table) : Nat := fld (t.words.getD 4 0) 51 0

/-- The size of a row (R298). -/
def rowBytes (fmt dim : Nat) : Nat :=
  match fmt with
  | 0 => 4 * dim
  | 1 => 2 * dim
  | 2 => 4 + dim
  | _ => 4 + dim / 2

/-- OUT_PITCH (R302). -/
def outPitch (dim e : Nat) : Nat := cdiv (dim * e) 64 * 64

/-- Bytes of an element of a vector format. -/
def vecElem (fmt : Nat) : Nat := if fmt = 10 then 4 else 2

/-- VEC_STRIDE (R321). -/
def vecStride (fmt dim : Nat) : Nat := cdiv (dim * vecElem fmt) 64 * 64

/-- Sketch bytes of SW (R322). -/
def sketchBytes (sw : Nat) : Nat := 32 * 2 ^ sw

/-- Vector format of an index. -/
def Index.fmt (x : Index) : Nat := bits x.params 19 16

/-- DIM of an index. -/
def Index.dim (x : Index) : Nat := bits x.params 44 32

/-- SW of an index. -/
def Index.sw (x : Index) : Nat := bits x.params 9 8

/-- METRIC of an index. -/
def Index.metric (x : Index) : Nat := bits x.params 21 20

/-- KEY_BITS of an index. -/
def Index.keyBits (x : Index) : Nat := bits x.params 4 0

/-- VEC_STRIDE of an index. -/
def Index.stride (x : Index) : Nat := vecStride x.fmt x.dim

/-- The bytes of the bucket area (R321). -/
def bucketArea (keyBits ovf capacity : Nat) : Nat := (2 ^ keyBits + ovf) * 4096 + cdiv (4 * capacity) 4096 * 4096

/-- RES_STRIDE (R339). -/
def resStride (k : Nat) : Nat := cdiv (32 + 16 * k) 64 * 64

/-- Length of shard `j` of a chunk of `lc` elements among `n` members (R425). -/
def shardLen (lc n j : Nat) : Nat :=
  let q := cdiv lc n
  min lc ((j + 1) * q) - min lc (j * q)

/-- Elements of a member's own shard of every chunk of a buffer (R425). -/
def ownShards (count chunk n j : Nat) : Nat :=
  count / chunk * shardLen chunk n j + shardLen (count % chunk) n j

/-- The rank of this device in a group. -/
def State.rankIn (s : State) (g : Group) : Nat :=
  ((findIdxOpt (fun m => m == s.deviceNumber) g.members).map fun x => x.1).getD 0

/-! ### Flag lines of collectives (R429) -/

/-- Every other rank. -/
def otherRanks (n me : Nat) : List Nat := (List.range n).filter fun x => x != me

/-- A flag line (R429). -/
def flagLine (hash seq chunk step : Nat) (failed : Bool) : Line :=
  lineOfWords [packWord [(0, hash), (32, seq)], BitVec.ofNat 64 chunk, packWord [(0, step), (32, b2n failed)]]

/-- The member of a collective under way writes a flag line with FAILED to every other member (R429, R431). -/
def State.sendFailed (s : State) (id : DescId) : State :=
  match s.eng.colls.find? fun r => r.desc == id with
  | none => s
  | some r =>
    let g := s.groupAt r.handle
    let me := s.rankIn g
    s.emitAll ((otherRanks g.members.length me).map fun x =>
      .collFlag (g.members.getD x 0) g.pitch ((s.desc id).elim 0 Desc.bclass) me (flagLine g.hash r.seq r.chunk r.step true))

/-! ### Argument checks -/

/-- VIEW_CREATE's fields are in range (R270). -/
def Desc.viewCreateOk (d : Desc) : Bool :=
  let ffmt := d.fld 6 47 44
  let tfmt := d.fld 6 51 48
  let rank := d.fld 6 40 32
  (ffmt == 4 || ffmt == 5 || ffmt == 8) && inRange tfmt 8 10 && inRange (d.fld 6 12 0) 1 4096 &&
    inRange (d.fld 6 28 16) 1 4096 && inRange rank 1 256 && (ffmt == 8 || rank % 32 == 0) &&
    d.fld 4 56 0 % 64 == 0 && d.fld 5 56 0 % 64 == 0

/-- VIEW_MEASURE's fields are in range for an N of `n` (R283). -/
def Desc.viewMeasureOk (d : Desc) (n : Nat) : Bool :=
  let fmt := d.fld 6 3 0
  inRange fmt 8 10 && d.fld 5 56 0 % 64 == 0 && decide (n * (elemBits fmt / 8) ≤ d.fld 6 31 16)

/-- M, N and RANK of GRAD_COMPRESS and COMP_ALL_REDUCE are in range (R285). -/
def Desc.gradOk (d : Desc) : Bool :=
  inRange (d.fld 9 12 0) 1 4096 && inRange (d.fld 9 28 16) 1 4096 && inRange (d.fld 9 40 32) 1 256

/-- ACT_PACK's or ACT_UNPACK's fields are in range (R289). -/
def Desc.packOk (d : Desc) : Bool :=
  let sf := d.fld 7 3 0
  let df := d.fld 7 7 4
  d.fld 5 56 0 % 64 == 0 && decide (1 ≤ d.fld 6 39 0) &&
    (if d.opcode = 0x26 then inRange sf 8 10 && (df == 0 || df == 4 || df == 5)
     else (sf == 0 || sf == 4 || sf == 5) && (df == 8 || df == 10))

/-- Bytes of a packed array of `count` elements (R289): elements, then scales from the next 64 B boundary. -/
def packedScales (fmt count : Nat) : Nat := cdiv (cdiv count 32 * 4 * elemBits fmt) 64 * 64

/-- Length of a packed array. -/
def packedBytes (fmt count : Nat) : Nat := packedScales fmt count + cdiv count 32

/-- EMB_TABLE_CREATE's fields are in range (R297). -/
def Desc.tableOk (d : Desc) : Bool :=
  let dim := d.fld 4 52 40
  let fmt := d.fld 4 55 53
  let st := d.fld 5 46 32
  decide (1 ≤ d.fld 4 39 0) && inRange dim 1 4096 && decide (fmt ≤ 3) && (fmt != 3 || dim % 2 == 0) &&
    decide (1 ≤ d.fld 5 23 0) && inRange (d.fld 5 30 24) 1 64 &&
    (st == 16 || st == 32 || (st % 64 == 0 && inRange st 64 16384)) && decide (rowBytes fmt dim ≤ st) &&
    d.fld 6 56 0 % 8 == 0 && d.fld 7 51 0 % 16 == 0 && d.fld 8 51 0 % 64 == 0

/-- EMB_GATHER's fields are in range (R302). -/
def Desc.gatherOk (d : Desc) : Bool :=
  let pool := d.fld 4 11 10
  let of := d.fld 4 19 16
  decide (pool ≤ 2) && (of == 8 || of == 10) && d.fld 7 56 0 % 64 == 0 && inRange (d.fld 8 31 0) 1 16777216 &&
    (pool == 0 || inRange (d.fld 8 63 32) 1 16777216)

/-- EMB_UPDATE's fields are in range for a table (R306). -/
def Desc.updateOk (d : Desc) (t : Table) : Bool :=
  decide (d.fld 4 11 10 ≤ 1) && inRange (d.fld 7 31 0) 1 16777216 && (d.fld 4 11 10 == 0 || t.acc != 0)

/-- The moments that a rule uses (R310). -/
def optUsesM (rule : Nat) : Bool := rule != 0

/-- The second moment is used. -/
def optUsesV (rule : Nat) : Bool := decide (2 ≤ rule)

/-- Bytes of a moment array (R312). -/
def momentBytes (fmt count : Nat) : Nat :=
  match fmt with
  | 0 => 4 * count
  | 1 => 2 * count
  | _ => 64 * cdiv count 64 + 4 * cdiv count 64

/-- The ranges of OPT_STEP. -/
def Desc.optRanges (d : Desc) : List VRange :=
  let n := d.fld 9 39 0
  let rule := d.fld 9 43 40
  let fmt := d.fld 9 47 44
  [{ va := d.fld 4 56 0, len := 4 * n, write := true },
   { va := d.fld 5 56 0, len := (if bitOf (d.word 9) 48 then 2 else 4) * n }] ++
  (if optUsesM rule then [({ va := d.fld 6 56 0, len := momentBytes fmt n, write := true } : VRange)] else []) ++
  (if optUsesV rule then [({ va := d.fld 7 56 0, len := momentBytes fmt n, write := true } : VRange)] else []) ++
  (if d.fld 8 56 0 ≠ 0 then [({ va := d.fld 8 56 0, len := 2 * n, write := true } : VRange)] else [])

/-- Two virtual ranges overlap. -/
def rangesOverlap (a b : VRange) : Bool := decide (a.va < b.va + b.len) && decide (b.va < a.va + a.len)

/-- No two ranges of a list overlap. -/
def rangesApart : List VRange → Bool
  | [] => true
  | r :: rs => (rs.all fun x => !rangesOverlap r x) && rangesApart rs

/-- OPT_STEP's fields are in range (R310). -/
def Desc.optOk (d : Desc) : Bool :=
  decide (1 ≤ d.fld 9 39 0) && decide (d.fld 9 43 40 ≤ 3) && (d.fld 9 43 40 == 0 || decide (d.fld 9 47 44 ≤ 2)) &&
    decide (1 ≤ d.fld 13 31 0) && rangesApart d.optRanges

/-- IDX_CREATE's fields are in range (R320). -/
def Desc.idxCreateOk (d : Desc) : Bool :=
  d.fld 4 56 0 % 4096 == 0 && d.fld 5 56 0 % 64 == 0 && inRange (d.fld 6 4 0) 4 24 && decide (d.fld 6 9 8 ≤ 2) &&
    inRange (d.fld 6 19 16) 8 10 && decide (d.fld 6 21 20 ≤ 2) && inRange (d.fld 6 44 32) 1 4096 &&
    decide (1 ≤ d.fld 7 31 0)

/-- IDX_QUERY's fields are in range (R335). -/
def Desc.idxQueryOk (d : Desc) : Bool :=
  inRange (d.fld 4 24 16) 1 256 && d.fld 7 56 0 % 64 == 0 && inRange (d.fld 8 12 0) 1 4096 &&
    inRange (d.fld 8 26 16) 1 1024 && inRange (d.fld 8 44 32) 1 4096 && decide (d.fld 8 26 16 ≤ d.fld 8 12 0)

/-- COLL_GROUP_CREATE's fields are in range (R421). -/
def Desc.groupOk (d : Desc) : Bool :=
  let n := d.fld 6 10 0
  let t := d.fld 9 31 0
  inRange n 2 1024 && d.fld 7 56 0 % 64 == 0 && decide (64 * n ≤ d.fld 8 39 0) && (t == 0 || inRange t 10 100000) &&
    decide (1 ≤ d.fld 10 31 0)

/-- An algorithm belongs to an opcode for a group on this device (R424). -/
def State.algoOk (s : State) (op algo : Nat) (g : Group) : Bool :=
  (match op with
    | 0x52 | 0x55 => decide (algo ≤ 2)
    | 0x53 | 0x54 => decide (algo ≤ 1)
    | _ => true) &&
    (algo != 0 || (decide (g.members.length ≤ 8) && g.members.all fun m => m / 8 == s.reg E.idBoardNumber))

/-- A collective's fields are in range (R425). -/
def State.collOk (s : State) (d : Desc) (g : Group) : Bool :=
  let dt := d.fld 4 15 12
  s.algoOk d.opcode (d.fld 4 9 8) g && decide (d.fld 4 11 10 ≤ 2) && (dt == 8 || dt == 10) &&
    (d.opcode != 0x55 || decide (d.fld 4 25 16 < g.members.length)) && decide (1 ≤ d.fld 7 39 0) &&
    inRange (d.fld 8 31 0) 1024 (2 ^ 24)

/-! ### Ranges walked at enqueue (R76) -/

/-- A read range. -/
def rd (va len : Nat) : VRange := { va, len }

/-- A written range. -/
def wr (va len : Nat) : VRange := { va, len, read := false, write := true }

/-- A range read and written. -/
def rw (va len : Nat) : VRange := { va, len, write := true }

/-- The operand ranges of a descriptor other than RUN_KERNEL; a descriptor whose fields are out of range has none and
completes at its unit. -/
def State.opRanges (s : State) (d : Desc) : List VRange :=
  let va := fun i => d.fld i 56 0
  let p := d.id.pitch
  match d.opcode with
  | 0x03 => if d.word 5 = 0 then [] else [rd (va 4) (d.word 5)]
  | 0x20 =>
    if d.viewCreateOk then
      [rd (va 4) (streamBytes (d.fld 6 47 44) (d.fld 6 40 32) (d.fld 6 12 0)),
       rd (va 5) (streamBytes (d.fld 6 47 44) (d.fld 6 40 32) (d.fld 6 28 16))]
    else []
  | 0x22 =>
    match s.viewOf p (d.fld 8 15 0) with
    | some i =>
      let v := s.viewAt i
      if d.viewMeasureOk v.n then
        [rd (va 4) ((v.m - 1) * d.fld 6 31 16 + v.n * (elemBits (d.fld 6 3 0) / 8)), wr (va 5) 64]
      else []
    | none => []
  | 0x24 =>
    if d.gradOk then
      let m := d.fld 9 12 0
      let n := d.fld 9 28 16
      let r := d.fld 9 40 32
      [rd (va 4) (4 * m * n), rw (va 5) (4 * m * n), rw (va 6) (4 * n * r), wr (va 7) (streamBytes 8 r m),
       wr (va 8) (streamBytes 8 r n)]
    else []
  | 0x26 =>
    if d.packOk then
      [rd (va 4) (elemBits (d.fld 7 3 0) / 8 * d.fld 6 39 0), wr (va 5) (packedBytes (d.fld 7 7 4) (d.fld 6 39 0))]
    else []
  | 0x27 =>
    if d.packOk then
      [rd (va 4) (packedBytes (d.fld 7 3 0) (d.fld 6 39 0)), wr (va 5) (elemBits (d.fld 7 7 4) / 8 * d.fld 6 39 0)]
    else []
  | 0x30 => if d.tableOk then [rd (va 6) (8 * d.fld 5 30 24)] else []
  | 0x32 =>
    match s.tableOf p (d.fld 4 9 0) with
    | some t =>
      if d.gatherOk then
        let pool := d.fld 4 11 10
        let rows := if pool = 0 then d.fld 8 31 0 else d.fld 8 63 32
        [rd (va 5) ((if bitOf (d.word 4) 12 then 8 else 4) * d.fld 8 31 0)] ++
        (if pool = 0 then [] else [rd (va 6) (4 * (d.fld 8 63 32 + 1))]) ++
        [wr (va 7) (rows * outPitch t.dim (vecElem (d.fld 4 19 16)))]
      else []
    | none => []
  | 0x33 =>
    match s.tableOf p (d.fld 4 9 0) with
    | some t =>
      if d.updateOk t then
        [rd (va 5) ((if bitOf (d.word 4) 12 then 8 else 4) * d.fld 7 31 0),
         rd (va 6) (d.fld 7 31 0 * outPitch t.dim (if bitOf (d.word 4) 13 then 2 else 4))]
      else []
    | none => []
  | 0x38 => if d.optOk then d.optRanges else []
  | 0x40 =>
    if d.idxCreateOk then
      [rw (va 4) (bucketArea (d.fld 6 4 0) (d.fld 7 55 32) (d.fld 7 31 0)),
       rd (va 5) (d.fld 7 31 0 * vecStride (d.fld 6 19 16) (d.fld 6 44 32))]
    else []
  | 0x41 =>
    match s.indexOf p (d.fld 4 8 0) with
    | some x =>
      let n := d.fld 10 20 0
      if inRange n 1 1048576 then
        [rd (va 5) (8 * n), rd (va 6) (n * sketchBytes x.sw), rd (va 7) (n * x.stride)] ++
        (if va 8 = 0 then [] else [rd (va 8) (2 * n)]) ++ (if va 9 = 0 then [] else [wr (va 9) (8 * n)])
      else []
    | none => []
  | 0x42 =>
    let n := d.fld 7 20 0
    if (s.indexOf p (d.fld 4 8 0)).isSome ∧ inRange n 1 1048576 then [rd (va 5) (8 * n), rd (va 6) (8 * n)] else []
  | 0x44 =>
    match s.indexOf p (d.fld 4 8 0) with
    | some x =>
      let n := d.fld 8 44 32
      if d.idxQueryOk then
        [rd (va 5) (n * sketchBytes x.sw), rd (va 6) (n * x.stride), wr (va 7) (n * resStride (d.fld 8 26 16))]
      else []
    | none => []
  | 0x50 => if d.groupOk then [rd (va 5) (2 * d.fld 6 10 0), rd (va 7) (d.fld 8 39 0)] else []
  | 0x52 | 0x53 | 0x54 | 0x55 =>
    match s.groupOf p (d.fld 4 7 0) with
    | some g =>
      if s.collOk d g then
        let e := vecElem (d.fld 4 15 12)
        let n := d.fld 7 39 0
        let own := ownShards n g.chunk g.members.length (s.rankIn g)
        let root := s.rankIn g == d.fld 4 25 16
        match d.opcode with
        | 0x52 => [rd (va 5) (e * n), wr (va 6) (e * n)]
        | 0x53 => [rd (va 5) (e * n), wr (va 6) (e * own)]
        | 0x54 => [rd (va 5) (e * own), wr (va 6) (e * n)]
        | _ => (if root then [rd (va 5) (e * n)] else []) ++ [wr (va 6) (e * n)]
      else []
    | none => []
  | 0x56 =>
    if d.gradOk ∧ (s.groupOf p (d.fld 10 7 0)).isSome then
      let m := d.fld 9 12 0
      let n := d.fld 9 28 16
      [rd (va 4) (4 * m * n), rw (va 5) (4 * m * n), rw (va 6) (4 * n * d.fld 9 40 32), wr (va 11) (4 * m * n)]
    else []
  | _ => []

/-! ### Units (R243, R249, R292, R316, R344, R424) -/

/-- What kind of unit runs an opcode. -/
inductive OpUnit where
  | reserved
  | scheduler
  | bivouacs
  | flush
  | region
  | xlate
  | engine (k : UnitKind)
  | coll
  deriving DecidableEq, Repr

/-- The unit of an opcode (R243). -/
def opUnit (op : Nat) : OpUnit :=
  match op with
  | 0x01 => .scheduler
  | 0x02 => .bivouacs
  | 0x03 => .flush
  | 0x08 | 0x09 | 0x0A | 0x0B | 0x0C | 0x0D => .region
  | 0x10 => .xlate
  | 0x20 | 0x21 | 0x22 | 0x24 | 0x26 | 0x27 => .engine .bracken
  | 0x30 | 0x31 | 0x32 | 0x33 => .engine .clover
  | 0x38 => .engine .tinder
  | 0x40 | 0x41 | 0x42 | 0x43 | 0x44 | 0x45 => .engine .heather
  | 0x50 | 0x51 | 0x52 | 0x53 | 0x54 | 0x55 | 0x56 => .coll
  | _ => .reserved

/-- The engine instance that a descriptor's chapter fixes. -/
def State.fixedEngine (s : State) (d : Desc) : Option Nat :=
  let p := d.id.pitch
  match d.opcode with
  | 0x21 | 0x22 => (s.viewOf p (d.fld 8 15 0)).map fun i => (s.viewAt i).bracken
  | 0x31 | 0x33 => (s.tableOf p (d.fld 4 9 0)).map fun t => t.clover
  | 0x41 | 0x42 | 0x43 | 0x45 => (s.indexOf p (d.fld 4 8 0)).map fun x => x.heather
  | _ => none

/-- The group handle that a collective descriptor names. -/
def Desc.groupHandle (d : Desc) : Nat := if d.opcode = 0x56 then d.fld 10 7 0 else d.fld 4 7 0

end Sys2Proof.Machine
end

