-- ==== Sys2Proof/Machine/Wb.lean ====
section
/-! DEFINITION. Bivouacs by logical number, and their write-back caches (R140, R141, R198, R199, R225). -/

namespace Sys2Proof.Machine

/-! ### Logical and physical numbers (R15, R199) -/

/-- Logical Bivouac `b`. -/
def State.bivAt (s : State) (b : Nat) : Biv := SMap.get (fun _ => {}) s.biv.bivs b

/-- Set a logical Bivouac. -/
def State.setBiv (s : State) (b : Nat) (x : Biv) : State :=
  { s with biv := { s.biv with bivs := SMap.set (fun _ => {}) s.biv.bivs b x } }

/-- The physical Bivouac that serves a logical number. -/
def State.physOf (s : State) (b : Nat) : Option Nat :=
  (List.range 528).find? fun n => s.reg (E.bivLogical n) == b && (s.reg (E.bivState n) == 1 || s.reg (E.bivState n) == 2)

/-- A logical number is served. -/
def State.bivServed (s : State) (b : Nat) : Bool := (s.physOf b).isSome

/-- Add one to a count of the physical Bivouac behind `b`. -/
def State.bumpBiv (s : State) (b : Nat) (k : Nat → Nat) (n : Nat) : State :=
  match s.physOf b with
  | some m => s.bumpBy (k m) n
  | none => s

/-! ### Lines (R225) -/

/-- The set of a line: 128 sets by line address. -/
def wbSet (addr : Nat) : Nat := addr / 64 % 128

/-- A line's tag matches. -/
def wbMatch (addr p : Nat) (l : WbLine) : Bool := l.addr == addr && l.pitch == p

/-- Write the dirty bytes of a line out with WR_PARTIAL (R140), for its pitch. -/
def State.wbWriteOut (s : State) (env : Env) (b : Nat) (l : WbLine) : State :=
  if l.dirty = 0 then s
  else
    let x : Extent := { va := 0, bytes := 64, host := false, port := 0, write := true, target := l.addr }
    ((s.targetWrite env l.pitch x l.addr l.dirty l.data (.cls l.bclass)).1).bumpBiv b E.bivWbWrites 1

/-- Drop the lines of a cache that pass `f`, first writing out those that pass `g`; the count of lines written. -/
def State.wbDrop (s : State) (env : Env) (b : Nat) (f g : WbLine → Bool) : State × Nat :=
  let ls := (s.bivAt b).wb
  let out := ls.filter fun l => f l && g l && l.dirty != 0
  let s := out.foldl (fun s l => s.wbWriteOut env b l) s
  (s.setBiv b { s.bivAt b with wb := (s.bivAt b).wb.filter fun l => !f l }, out.length)

/-- Put a line at the front of its cache; a full set of 16 ways evicts its least recently used line (R198, R140). -/
def State.wbPut (s : State) (env : Env) (b : Nat) (l : WbLine) : State :=
  let ls := (s.bivAt b).wb.filter fun x => !wbMatch l.addr l.pitch x
  let ways := ls.filter fun x => wbSet x.addr == wbSet l.addr
  if ways.length < 16 then s.setBiv b { s.bivAt b with wb := l :: ls }
  else match ways.getLast? with
    | some v =>
      let s := s.wbWriteOut env b v
      s.setBiv b { s.bivAt b with wb := l :: ls.filter fun x => x != v }
    | none => s

/-- Bytes of a line that may serve a reader: dirty ones, and clean ones that it fetched itself (R140). -/
def wbUsable (l : WbLine) (who : DescId) : Mask := if l.reader = some who then l.held ||| l.dirty else l.dirty

/-- An engine of Bivouac `b` reads bytes of a line of stacked memory through the cache. -/
def State.wbRead (s : State) (env : Env) (b p : Nat) (who : DescId) (addr : Nat) (need : Mask) (k : Nat) : EngRes :=
  let x : Extent := { va := 0, bytes := 64, host := false, port := 0, write := false, target := addr }
  let old := (s.bivAt b).wb.find? (wbMatch addr p)
  match old.filter fun l => decide (need &&& ~~~(wbUsable l who) = 0) with
  | some l => ⟨s.wbPut env b l, .ok, l.data⟩
  | none =>
    let r := (s.bumpBiv b E.bivWbMisses 1).targetRead env p x addr (.cls k)
    match r.st with
    | .ok =>
      let dirty := (old.map fun l => l.dirty).getD 0
      let data := match old with
        | some l => mergeLine l.dirty l.data r.data
        | none => r.data
      let cls := (old.map fun l => l.bclass).getD k
      ⟨r.s.wbPut env b { addr, pitch := p, held := fullMask, dirty, data, reader := some who, bclass := cls }, .ok, data⟩
    | st => ⟨r.s, st, 0⟩

/-- An engine of Bivouac `b` stores bytes of a line of stacked memory: it allocates without reading (R225). -/
def State.wbStore (s : State) (env : Env) (b p : Nat) (who : DescId) (addr : Nat) (mask : Mask) (d : Line) (k : Nat) :
    State :=
  match (s.bivAt b).wb.find? (wbMatch addr p) with
  | some l =>
    let held := wbUsable l who ||| mask
    s.wbPut env b { l with held, dirty := l.dirty ||| mask, data := mergeLine mask d l.data, reader := some who, bclass := k }
  | none => s.wbPut env b { addr, pitch := p, held := mask, dirty := mask, data := d, reader := some who, bclass := k }

/-- WB_EVICT: a dirty line is evicted, at a time that the manual does not fix (R140). -/
def State.opWbEvict (s : State) (b addr : Nat) (env : Env) : State :=
  (s.wbDrop env b (fun l => l.addr == addr && l.dirty != 0) (fun _ => true)).1

/-! ### Flushes (R141, R200) -/

/-- The pool addresses of lines that a virtual range of a record covers. -/
def recordLine (rec : List Extent) (r : VRange) (addr : Nat) : Bool :=
  rec.any fun x =>
    let lo := max x.va r.va
    let hi := min (x.va + x.bytes) (r.va + r.len)
    decide (lo < hi) && !x.host && decide (x.target + (lo - x.va) < addr + 64) && decide (addr < x.target + (hi - x.va))

/-- Flush lines that pass `f` from every Bivouac's cache, writing those of pitch `p`; the count written (R141). -/
def State.wbFlush (s : State) (env : Env) (p : Nat) (f : WbLine → Bool) : State × Nat :=
  (s.biv.bivs.map fun e => e.1).foldl (fun (acc : State × Nat) b =>
    let r := acc.1.wbDrop env b f (fun l => l.pitch == p)
    (r.1, acc.2 + r.2)) (s, 0)

/-- FLUSH_RANGE (R141 steps 1 and 2): once every descriptor dispatched earlier from the ring has completed. -/
def State.opFlushRange (s : State) (id : DescId) (env : Env) : State :=
  match s.desc id with
  | none => s
  | some d =>
    if d.opcode ≠ 3 ∨ d.phase ≠ .running ∨ d.outcome.isSome then s
    else if s.work.descs.any fun x => x.id.pitch == id.pitch && x.id.ring == id.ring && decide (x.order < d.order) &&
        x.unit.isSome && x.phase != .done then s
    else
      let f := if d.word 5 = 0 then fun (l : WbLine) => l.pitch == id.pitch
        else fun (l : WbLine) => recordLine d.record { va := d.fld 4 56 0, len := d.word 5 } l.addr
      match s.wbFlush env id.pitch f with
      | (s, n) => s.setDesc { d with outcome := some { status := 0, result := n } }

/-- FLUSH_RANGE_DONE: every write of a flush has been answered (R141 steps 3 and 4). -/
def State.opFlushRangeDone (s : State) (id : DescId) : State :=
  match s.desc id with
  | none => s
  | some d =>
    if d.opcode = 3 ∧ d.phase = .running ∧ d.outcome.isSome then s.setDesc { d with phase := .decided } else s

end Sys2Proof.Machine
end

