-- ==== Sys2Proof/Machine/Sched.lean ====
section
/-! DEFINITION. Command rings, fetch, dispatch, start and completion (R233 to R253, R262 to R264). -/

namespace Sys2Proof.Machine

/-! ### RING_CONFIG and RING_STATE (R239, R265) -/

/-- The record of a ring in RING_CONFIG, two words. -/
def ringWords (x : Ring) : List Word :=
  [packWord [(0, x.base), (52, x.log2)], packWord [(0, x.compl), (52, b2n x.enable)]]

/-- RING_CONFIG of a pitch. -/
def State.ringConfigBlock (s : State) (p : Nat) : List Byte :=
  bytesOfWords ((List.range 16).flatMap fun r => ringWords (s.ring p r))

/-- RING_STATE of a pitch. -/
def State.ringStateBlock (s : State) (p : Nat) : List Byte :=
  bytesOfWords ((List.range 16).flatMap fun r =>
    let x := s.ring p r
    [packWord [(0, x.tail), (32, x.fetched)], packWord [(0, x.dispatched), (32, x.floor)]])

/-- A part of a ring lies in LIVE STACKED regions owned by the pitch or by pitch 0 (R233). -/
def State.ringPlaced (s : State) (p addr len : Nat) : Bool :=
  bits addr 51 42 == s.deviceNumber && targetOf (bits addr 41 0) == .stacked &&
    (List.range (rangePages { va := addr, len })).all fun i =>
      match s.coverOf (bits addr 41 16 + i) with
      | some (_, r) => r.state == .live && r.placement == 0 && !r.factored && !r.lodged && (r.owner == p || r.owner == 0)
      | none => false

/-- ENABLE = 1 may take effect for a record (R239). -/
def State.ringAllowed (s : State) (p base compl log2 : Nat) : Bool :=
  inRange log2 6 16 && base % (128 * 2 ^ log2) == 0 && compl % (32 * 2 ^ log2) == 0 &&
    s.ringPlaced p base (128 * 2 ^ log2) && s.ringPlaced p compl (32 * 2 ^ log2)

/-- A record written to RING_CONFIG (R239). -/
def State.writeRing (s : State) (p r w0 w1 : Nat) : State :=
  let x := s.ring p r
  let base := bits w0 51 0
  let log2 := bits w0 56 52
  let compl := bits w1 51 0
  let on := bitOf w1 52
  let same := base = x.base ∧ log2 = x.log2 ∧ compl = x.compl
  if same ∨ (¬ x.enable ∧ x.floor = x.tail) then
    s.setRing p r { x with base, log2, compl, enable := on && (x.enable || s.ringAllowed p base compl log2) }
  else s

/-- What the ring holds is not what the record asked for (R239, R443). -/
def State.ringRefused (s : State) (p r w0 w1 : Nat) : Bool :=
  let x := s.ring p r
  !(x.base == bits w0 51 0 && x.log2 == bits w0 56 52 && x.compl == bits w1 51 0 && x.enable == bitOf w1 52)

/-- A write of RING_CONFIG: 16 records of 16 bytes, counted as ignored where one of them is refused (R443). -/
def State.writeRingConfig (s : State) (p : Nat) (b : List Byte) : State :=
  if b.length ≠ 256 then s.ignoreWrite
  else
    let ws := wordsOfBytes b
    let s := (List.range 16).foldl (fun s r => s.writeRing p r (ws.getD (2 * r) 0).toNat (ws.getD (2 * r + 1) 0).toNat) s
    if (List.range 16).any fun r => s.ringRefused p r (ws.getD (2 * r) 0).toNat (ws.getD (2 * r + 1) 0).toNat
    then s.ignoreWrite else s

/-! ### Ring counters (R234) -/

/-- The descriptor of a ring with a sequence number. -/
def State.ringDesc (s : State) (p r q : Nat) : Option Desc := s.desc { pitch := p, ring := r, seq := q }

/-- DISPATCHED passes descriptors that are not dispatched: an invalidation, which is taken at once, and those whose
status is decided. -/
def State.skipUndispatched (p r : Nat) : Nat → State → State
  | 0, s => s
  | n + 1, s =>
    let x := s.ring p r
    if x.dispatched = x.fetched then s
    else match s.ringDesc p r x.dispatched with
      | some d =>
        if d.opcode = 0x10 ∨ d.phase = .decided ∨ d.phase = .done then
          skipUndispatched p r n (s.setRing p r { x with dispatched := (x.dispatched + 1) % 2 ^ 32 })
        else s
      | none => s

/-- FLOOR passes completed descriptors, which leave the device (R234). -/
def State.advanceFloor (p r : Nat) : Nat → State → State
  | 0, s => s
  | n + 1, s =>
    let x := s.ring p r
    if x.floor = x.dispatched then s
    else match s.ringDesc p r x.floor with
      | some d =>
        if d.phase = .done then
          let s := s.setRing p r { x with floor := (x.floor + 1) % 2 ^ 32 }
          advanceFloor p r n { s with work := { s.work with descs := s.work.descs.filter fun y => y.id != d.id } }
        else s
      | none => s

/-- Bring a ring's counters up to its descriptors. -/
def State.settleRing (s : State) (p r : Nat) : State :=
  let n := s.work.descs.length
  (s.skipUndispatched p r n).advanceFloor p r n

/-! ### Fetch (R238, R242 to R246) -/

/-- RUN_KERNEL's placement and body are in range (R242, R244). -/
def State.kernelOk (s : State) (d : Desc) : Bool :=
  let parts := d.fld 2 9 0
  let first := d.fld 2 24 16
  let count := d.fld 2 34 25
  let af := s.reg (E.pitchBivAllowFirst d.id.pitch)
  let ac := s.reg (E.pitchBivAllowCount d.id.pitch)
  let len := d.fld 6 16 0
  inRange parts 1 512 && decide (first + count ≤ 512) &&
    (if count = 0 then ac != 0 else decide (af ≤ first) && decide (first + count ≤ af + ac)) &&
    d.fld 4 56 0 % 4 == 0 && d.fld 5 56 0 % 16 == 0 && inRange len 4 65536 && decide (d.operandCount ≤ 16) &&
    d.fld 6 63 32 % 2 == 0 && decide (d.fld 6 63 32 < len)

/-- The header check of a fetched descriptor (R242, R243): none when it goes on. -/
def State.headerCheck (s : State) (d : Desc) : State × Option DescOut :=
  if opUnit d.opcode = .reserved then (s, some { status := 0x02 })
  else if ¬ bitOf (s.reg (E.pitchBudgetClasses d.id.pitch)) d.bclass then (s.bump E.violBudgetClass, some { status := 0 })
  else if d.timed ∧ s.now + s.reg E.campLaunchHorizon < d.launch then (s, some { status := 0x03 })
  else if d.opcode = 2 ∧ ¬ s.kernelOk d then (s, some { status := 0x03 })
  else (s, none)

/-- The first ranges that the walk of a descriptor covers (R76, R245). -/
def State.firstRanges (s : State) (d : Desc) : List VRange :=
  if d.opcode = 2 then
    if d.operandCount = 0 then [d.codeRange] else [{ va := d.fld 5 56 0, len := 16 * d.operandCount }]
  else s.opRanges d

/-- A descriptor as it is fetched. -/
def freshDesc (id : DescId) (ws : List Word) : Desc :=
  { id, words := ws, prio := 0, phase := .walking, needTable := false, todo := [], operands := [], record := [],
    fault := none, rewalk := false, eligible := none, unit := none, order := 0, parts := [], start := none,
    outcome := none, ended := 0 }

/-- Read the two lines of a descriptor slot with RD_NC. -/
def State.readDescSlot (s : State) (env : Env) (p addr : Nat) : State × EngStat × List Word :=
  if bits addr 51 42 = s.deviceNumber ∧ targetOf (bits addr 41 0) = .stacked then
    let a := s.localRead env p 0 (bits addr 41 0) (.cls 0)
    let b := a.s.localRead env p 0 (bits addr 41 0 + 64) (.cls 0)
    (b.s, if a.st = .ok then b.st else a.st, lineWords a.data ++ lineWords b.data)
  else (s.bump E.violEngineRights, .ok, List.replicate 16 0)

/-- The rings of a pitch are fetched: it is ACTIVE, DORMANT or QUIESCING, and no PITCH_RESET of it is under way (R63, R65,
R66, R240). -/
def State.fetches (s : State) (p : Nat) : Bool :=
  inRange (s.reg (E.pitchState p)) 1 3 && s.reg (E.pitchPitchReset p) == 0

/-- DESCRIPTOR_FETCH: the next descriptor of a ring up to TAIL is read, checked, and handed to translation
(R238, R239, R242). -/
def State.opFetch (s : State) (p r : Nat) (env : Env) : State :=
  let x := s.ring p r
  if ¬ x.enable ∨ x.fetched = x.tail ∨ ¬ s.coreOn ∨ ¬ s.fetches p then s
  else
    let q := x.fetched
    let (s, st, ws) := s.readDescSlot env p (x.base + 128 * (q % 2 ^ x.log2))
    let d := freshDesc { pitch := p, ring := r, seq := q } ws
    let d := { d with prio := max (d.fld 0 9 8) (s.reg (E.pitchPriorityFloor p)) }
    let s := s.setRing p r { x with fetched := (q + 1) % 2 ^ 32 }
    let s := { s with work := { s.work with descs := s.work.descs ++ [d] } }
    if st ≠ .ok then (s.decideDesc d { status := 0x08 }).settleRing p r
    else match s.headerCheck d with
      | (s, some o) => (s.decideDesc d o).settleRing p r
      | (s, none) =>
        if d.opcode = 0x10 then s.settleRing p r
        else
          let todo := s.firstRanges d
          let needTable := d.opcode = 2 ∧ d.operandCount ≠ 0
          s.setDesc { d with todo, needTable, operands := if d.opcode = 2 then [] else todo,
                             phase := if todo = [] then .ready else .walking }

/-! ### Units under procedures and stops (R492 to R495, R530) -/

/-- A stop freezes descriptor work (R530). -/
def State.stopped (s : State) : Bool := s.stop.halted

/-! ### Bivouac windows (R221, R249) -/

/-- The window of a logical Bivouac: descriptor and partition, in dispatch order. -/
def State.window (s : State) (b : Nat) : List (Desc × Part) :=
  sortBy (fun x y => decide (x.2.order ≤ y.2.order))
    (s.work.descs.flatMap fun d => (d.parts.filter fun q => q.biv == b && !q.done).map fun q => (d, q))

/-- The cluster behind a logical Bivouac is on its way out: its partitions wait for the replacement (R495, R496). -/
def State.bivLeaving (s : State) (b : Nat) : Bool :=
  (s.proc.moves.any fun m => m.logical == b) || (match s.physOf b with
    | some n => s.fencing .bivouac n
    | none => false)

/-- A logical Bivouac takes a new partition: served, not being fenced, with window space (R221, R495). -/
def State.windowSpace (s : State) (b : Nat) : Bool :=
  s.bivServed b && !s.bivLeaving b && decide ((s.window b).length < 9)

/-- The logical Bivouac on which partitions for `b` run: an unserved one hands them to the next that is served
(R497). -/
def State.servingBiv (s : State) (b : Nat) : Option Nat :=
  ((List.range 512).map fun i => (b + i) % 512).find? s.bivServed

/-- PARTITIONS. -/
def Desc.partitions (d : Desc) : Nat := d.fld 2 9 0

/-- The logical Bivouac that takes the next partition of a RUN_KERNEL (R249). -/
def State.bivFor (s : State) (d : Desc) : Option Nat :=
  let count := d.fld 2 34 25
  if count = 0 then
    let first := s.reg (E.pitchBivAllowFirst d.id.pitch)
    let n := s.reg (E.pitchBivAllowCount d.id.pitch)
    argMin (fun b => (s.window b).length)
      (((List.range n).map fun i => first + i).filter fun b => decide (b < 512) && s.windowSpace b)
  else match s.servingBiv (d.fld 2 24 16 + d.parts.length % count) with
    | some b => if s.windowSpace b then some b else none
    | none => none

/-! ### Engine queues (R249, R506) -/

/-- Descriptors that an engine instance has been given and has not started. -/
def State.engineQueue (s : State) (k : UnitKind) (e : Nat) : Nat :=
  (s.work.descs.filter fun d => d.unit == some (.engine k e) && d.phase == .dispatched).length

/-- An engine instance serves. -/
def State.engineServes (s : State) (k : UnitKind) (e : Nat) : Bool := s.reg (kindState k e) == 1

/-- The instance that R249 chooses: the fewest queued descriptors, the lowest number on a tie. -/
def State.engineFor (s : State) (k : UnitKind) : Option Nat :=
  argMin (s.engineQueue k) ((List.range (kindNumber k)).filter fun e =>
    s.engineServes k e && !s.fencing k e && decide (s.engineQueue k e < 8))

/-- No instance of a kind serves. -/
def State.noneServes (s : State) (k : UnitKind) : Bool := !((List.range (kindNumber k)).any (s.engineServes k))

/-- A collective core serves: RUNNING with the role COLL (R422, R436). -/
def State.collCoreServes (s : State) (k : Nat) : Bool :=
  inRange k 2 7 && s.reg (E.coreState k) == 2 && s.reg (E.coreRole k) == 3

/-- A collective core takes new groups and collectives: it serves and is not being fenced (R505). -/
def State.collCoreTakes (s : State) (k : Nat) : Bool := s.collCoreServes k && !s.fencing .kettle k

/-- Groups bound to a core. -/
def State.groupsBound (s : State) (k : Nat) : Nat := (s.eng.groups.filter fun e => e.2.core == k).length

/-- The serving collective core with the fewest bound groups, the lowest number on a tie (R422). -/
def State.collCore (s : State) : Option Nat :=
  argMin s.groupsBound (((List.range 6).map (· + 2)).filter s.collCoreTakes)

/-- The Kettle core that takes a collective descriptor: its group's, else the one that a new group would be bound
to. -/
def State.coreFor (s : State) (d : Desc) : Option Nat :=
  match (if d.opcode = 0x50 then none else s.groupOf d.id.pitch d.groupHandle) with
  | some g => if s.collCoreTakes g.core then some g.core else s.collCore
  | none => s.collCore

/-- Collectives are disabled (R416, R419): COLL_STATE is neither ENABLED nor SWITCHING. -/
def State.collDisabled (s : State) : Bool := s.reg E.kettleCollState != 1 && s.reg E.kettleCollState != 4

/-! ### Eligibility and dispatch (R247 to R249) -/

/-- A descriptor is eligible for dispatch (R247); a RUN_KERNEL whose partitions have begun to go stays so. -/
def State.eligible (s : State) (d : Desc) : Bool :=
  let x := s.ring d.id.pitch d.id.ring
  x.dispatched == d.id.seq &&
    ((d.opcode == 2 && !d.parts.isEmpty && decide (d.parts.length < d.partitions)) ||
      (d.phase == .ready && x.enable && s.pitchState d.id.pitch == 1 && (!d.afterPrev || x.floor == d.id.seq) &&
        (!d.timed || decide (d.launch ≤ s.now + s.reg E.campDispatchLead))))

/-- The tick of eligibility of every descriptor is kept up to date (R248). -/
def State.markEligible (s : State) : State :=
  let mark := fun (d : Desc) =>
    if s.eligible d = true then (if d.eligible.isSome = true then d else { d with eligible := some s.now })
    else if d.eligible.isSome = true then { d with eligible := none } else d
  { s with work := { s.work with descs := s.work.descs.map mark } }

/-- What the scheduler would do with an eligible ring head: nothing, give it to a unit, or end it. -/
inductive Placing where
  | wait
  | give (u : UnitId)
  | fail (status : Nat)
  deriving DecidableEq, Repr

/-- Where a descriptor, or its next partition, goes (R249). -/
def State.placing (s : State) (d : Desc) : Placing :=
  match opUnit d.opcode with
  | .scheduler => .give .scheduler
  | .flush => .give .flush
  | .region => .give .region
  | .bivouacs => match s.bivFor d with
    | some b => .give (.bivouac b)
    | none => .wait
  | .engine k =>
    if s.noneServes k then .fail 0x0B
    else match s.fixedEngine d with
      | some e => if s.engineServes k e ∧ ¬ s.fencing k e ∧ s.engineQueue k e < 8 then .give (.engine k e) else .wait
      | none => match s.engineFor k with
        | some e => .give (.engine k e)
        | none => .wait
  | .coll =>
    if s.collDisabled then .fail 0xA5
    else match s.coreFor d with
      | some k => .give (.kettle k)
      | none => .wait
  | .xlate | .reserved => .wait

/-- The order of preference of R248. -/
def Desc.preference (d : Desc) : Nat :=
  ((d.prio * 2 ^ 64 + d.eligible.getD 0) * 4096 + d.id.pitch) * 16 + d.id.ring

/-- Give a descriptor, or its next partition, to a unit. -/
def State.giveUnit (s : State) (d : Desc) (u : UnitId) : State :=
  let o := s.work.nextOrder
  let s := { s with work := { s.work with nextOrder := o + 1 } }
  let p := d.id.pitch
  let r := d.id.ring
  let passed := fun (s : State) =>
    let x := s.ring p r
    (s.setRing p r { x with dispatched := (x.dispatched + 1) % 2 ^ 32 }).settleRing p r
  match u with
  | .bivouac b =>
    let d' := { d with parts := d.parts ++ [{ idx := d.parts.length, biv := b, order := o }],
                       phase := if d.phase = .ready then .dispatched else d.phase,
                       unit := if d.unit.isSome then d.unit else some u,
                       order := if d.unit.isSome then d.order else o }
    let s := s.setDesc d'
    if d'.parts.length < d.partitions then s else passed s
  | _ => passed (s.setDesc { d with phase := .dispatched, unit := some u, order := o })

/-- DISPATCH: one partition or one other descriptor (R248). -/
def State.opDispatch (s : State) : State :=
  if s.stopped ∨ ¬ s.coreOn then s
  else
    let s := s.markEligible
    match argMin Desc.preference (s.work.descs.filter fun d => d.eligible.isSome && s.placing d != .wait) with
    | none => s
    | some d => match s.placing d with
      | .give u => s.giveUnit d u
      | .fail st => (s.decideDesc d { status := st }).settleRing d.id.pitch d.id.ring
      | .wait => s

/-! ### Start (R250, R262, R263) -/

/-- The unit word of a unit for trace records (R492, R525). -/
def State.traceUnit (s : State) (u : Option UnitId) : Nat :=
  match u with
  | some (.bivouac b) => ((s.physOf b).map (unitWord .bivouac)).getD 0
  | some (.engine k e) => unitWord k e
  | some (.kettle k) => unitWord .kettle k
  | _ => 0

/-- A trace record of a descriptor. -/
def State.descEvent (s : State) (d : Desc) (type status unit data : Nat) : State :=
  s.traceEvent { type, status, layer := d.fld 0 47 32, operator := d.fld 0 63 48, pitch := d.id.pitch, ring := d.id.ring,
                 unit, seq := d.id.seq, data }

/-- The start of a descriptor's first part: it starts, or completes LATE or TIME_UNLOCKED (R262, R263). -/
def State.startDesc (s : State) (d : Desc) : State × Bool :=
  if d.start.isSome then (s, d.outcome.isNone)
  else
    let late := s.now - d.launch
    let p := d.id.pitch
    let s := if d.timed ∧ 0 < late then s.bump (E.pitchLateLaunches p) else s
    if d.timed ∧ d.lateCancel ∧ s.reg E.campLateGrace < late then
      ((s.bump (E.pitchLateCancels p)).decideDesc d { status := 0x04, result := late }, false)
    else if d.timed ∧ s.reg E.campLockState ≠ 2 ∧ s.reg E.campLockState ≠ 3 then
      ((s.bump (E.pitchUnlockedCancels p)).decideDesc d { status := 0x05 }, false)
    else (s.setDesc { d with phase := .running, start := some s.now }, true)

/-- The time has come for a descriptor: it is untimed, or its launch tick has been reached. -/
def State.launchReached (s : State) (d : Desc) : Bool := !d.timed || d.start.isSome || decide (d.launch ≤ s.now)

/-- A partition ends; the descriptor is decided once all have ended (R226, R253). -/
def State.endPart (s : State) (id : DescId) (idx : Nat) (o : DescOut) : State :=
  match s.desc id with
  | none => s
  | some d =>
    let parts := d.parts.map fun q => if q.idx = idx then { q with done := true } else q
    let keep := match d.outcome with
      | some x => if x.status ≠ 0 then x else { x with status := o.status, detail := o.detail }
      | none => { status := o.status, detail := o.detail, result := 0 }
    let out := if idx = 0 then { keep with result := o.result } else keep
    let all := parts.length = d.partitions ∧ parts.all fun q => q.done
    s.setDesc { d with parts, outcome := some out, phase := if all then .decided else d.phase }

/-- The 64 Pegs at kernel entry (R204). -/
def entryPegs (b part entry param : Nat) : List Peg :=
  (List.range 64).map fun g =>
    { pc := entry, x := SMap.set (fun _ => 0) (SMap.set (fun _ => 0) (SMap.set (fun _ => 0) (SMap.set (fun _ => 0) [] 10 g)
        11 b) 12 param) 13 part }

/-- The aperture address of a byte offset (R205). -/
def apertureBase : Nat := 0xFFFFFFFFFFC00000

/-- A Bivouac passes to another pitch (R200): dirty lines written for the old pitch are written back, every line is
dropped, and the written flags of the staging area are cleared. -/
def State.switchPitch (s : State) (b : Nat) : State :=
  let s := (s.wbDrop {} b (fun _ => true) (fun _ => true)).1
  s.swardClear (swardLine b 0) 16384

/-- Kernel entry of a partition on logical Bivouac `b` (R200, R204, R206). -/
def State.enterKernel (s : State) (b : Nat) (d : Desc) (q : Part) : State :=
  match s.physOf b with
  | none => s
  | some n =>
    let p := d.id.pitch
    let s := if s.reg (E.bivPitch n) = p ∨ s.reg (E.bivPitch n) = 0xFFFF then s else s.switchPitch b
    let s := (s.setReg (E.bivPitch n) p).setReg (E.bivState n) 2
    let s := s.swardClear (swardLine b 12288) 4096
    let line := 12288 + Config.paramLine % 4096
    let s := (s.swardWrite (b * 65536 + line) fullMask (lineOfWords (d.words.drop 8))).1
    let (f, s) := s.drawFree
    let x := s.bivAt b
    let again := d.parts.any fun y => y.biv == b && y.idx != q.idx && y.started
    s.setBiv b { x with
      wb := if again then x.wb else x.wb.map fun l => { l with reader := none }
      kernel := some (d.id, q.idx, s.cclk)
      pegs := entryPegs b q.idx (d.fld 4 56 0 + d.fld 6 63 32) (apertureBase + 64 * line)
      code := [], rpCfg := Config.freeBits 23 f % 2 ^ 23, rpQueue := [], rpRun := false, rpBusy := false, rpWait := false
      runtime := s.reg (E.imageActiveVersion 3) }

/-- A Bivouac starts the next partition of its window (R250). -/
def State.startBiv (s : State) (b : Nat) : State :=
  if (s.bivAt b).kernel.isSome ∨ s.bivLeaving b then s
  else match (s.window b).head? with
    | none => s
    | some (d, q) =>
      if ¬ s.launchReached d then s
      else
        let begin_ := fun (s : State) (d : Desc) =>
          let s := s.setDesc { d with parts := d.parts.map fun x => if x.idx = q.idx then { x with started := true } else x }
          (s.enterKernel b d q).descEvent d 1 0 (s.traceUnit (some (.bivouac b))) q.idx
        if d.outcome.isSome ∧ d.start.isNone then s.endPart d.id q.idx { status := 0 }
        else match s.startDesc d with
          | (s, true) => match s.desc d.id with
            | some d => begin_ s d
            | none => s
          | (s, false) => match s.desc d.id with
            | some d' =>
              if d.start.isSome then begin_ s d'
              else (s.setDesc { d' with parts := d'.parts.map fun x => { x with done := true } }).settleRing d.id.pitch d.id.ring
            | none => s

/-- The descriptors that a unit other than a Bivouac has been given and has not started, in dispatch order. -/
def State.unitWaiting (s : State) (u : UnitId) : List Desc :=
  sortBy (fun a b => decide (a.order ≤ b.order)) (s.work.descs.filter fun d => d.unit == some u && d.phase == .dispatched)

/-- A unit other than a Bivouac is at work for a descriptor; the scheduler and the flush unit serve each ring by
itself. -/
def State.unitBusy (s : State) (u : UnitId) (d : Desc) : Bool :=
  s.work.descs.any fun x => x.unit == some u && x.phase == .running &&
    ((u != .scheduler && u != .flush) || (x.id.pitch == d.id.pitch && x.id.ring == d.id.ring))

/-- The unit can start work at all. -/
def State.unitUp (s : State) (u : UnitId) : Bool :=
  match u with
  | .engine k e => s.reg (kindState k e) == 1 && !s.fencing k e
  | .kettle k => s.collCoreTakes k && s.reg E.kettleCollState == 1
  | _ => true

/-- A unit other than a Bivouac starts the first descriptor it has been given (R250). -/
def State.startUnit (s : State) (u : UnitId) : State :=
  match (s.unitWaiting u).find? fun d => !s.unitBusy u d with
  | none => s
  | some d =>
    if ¬ (s.launchReached d ∧ s.unitUp u) then s
    else match s.startDesc d with
      | (s, true) => s.descEvent d 1 0 (s.traceUnit (some u)) 0
      | (s, false) => s

/-! ### Completion (R251 to R253) -/

/-- The completion record of a descriptor (R251). -/
def recordWords (d : Desc) (o : DescOut) (log2 now : Nat) : List Word :=
  [packWord [(0, o.status), (8, b2n (bitOf d.id.seq log2)), (16, d.fld 0 47 32), (32, d.fld 0 63 48), (48, d.opcode),
             (56, o.detail % 256)],
   BitVec.ofNat 64 o.result, BitVec.ofNat 64 (d.start.getD now), BitVec.ofNat 64 now]

/-- The effect of a completion on a search index: a generation commits at END_TIME (R327), and snapshots and holds of
the descriptor end (R328, R334). -/
def State.endIndexWork (s : State) (id : DescId) : State :=
  let s := match s.eng.gens.find? fun g => g.1 == id with
    | some (_, h, gen) =>
      let x := s.indexAt h
      let x := if x.used then { x with committed := gen, commits := (gen, s.now) :: x.commits } else x
      { s with eng := { s.eng with indices := SMap.set (fun _ => {}) s.eng.indices h x } }
    | none => s
  { s with eng := { s.eng with
      gens := s.eng.gens.filter fun g => g.1 != id
      snaps := s.eng.snaps.filter fun g => g.1 != id
      indices := s.eng.indices.map fun e => (e.1, { e.2 with unlinked := e.2.unlinked.map fun u =>
        (u.1, u.2.filter fun q => q != id) }) } }

/-- DESCRIPTOR_COMPLETE: the record of a descriptor whose status is decided is written, and FLOOR advances. -/
def State.opComplete (s : State) (id : DescId) (env : Env) : State :=
  match s.desc id with
  | none => s
  | some d =>
    match d.phase, d.outcome with
    | .decided, some o =>
      let x := s.ring id.pitch id.ring
      let at_ := x.compl + 32 * (id.seq % 2 ^ x.log2)
      let s := s.ownWrite env id.pitch at_ (rangeMask (at_ % 64) 32)
        (placeBytes (at_ % 64) 32 (leNat (bytesOfWords (recordWords d o x.log2 s.now)))) d.charge
      let s := (s.setDesc { d with phase := .done, ended := s.now }).bump (E.pitchCompletions id.pitch)
      let s := s.descEvent d 2 o.status (s.traceUnit d.unit) o.result
      (s.endIndexWork id).settleRing id.pitch id.ring
    | _, _ => s

/-- NOP: it completes OK at its start (R243). -/
def State.opNop (s : State) (id : DescId) : State :=
  match s.desc id with
  | some d => if d.opcode = 1 ∧ d.phase = .running then s.decideDesc d { status := 0 } else s
  | none => s

end Sys2Proof.Machine
end

