-- ==== Sys2Proof/Machine/Campfire.lean ====
section
/-! DEFINITION. The Campfire time base (R254 to R261, R358). -/

namespace Sys2Proof.Machine

/-- The multiple of 65,536 nearest to a number; the upper one of two equally near. -/
def nearestMarker (x : Int) : Int := (x + 32768) / 65536 * 65536

/-- LOCK_STATE. -/
def State.lockState (s : State) : Nat := s.reg E.campLockState

/-- Set LOCK_STATE; the count is valid once the device has been LOCKED or MASTER (R254). -/
def State.setLockState (s : State) (v : Nat) : State :=
  let s := s.setReg E.campLockState v
  if v = 2 ∨ v = 3 then s.setReg E.campCountValid 1 else s

/-- Set the count to a value; one that is lower holds the count until the time line reaches it (R258), and leases move
with the count (R156). -/
def State.setCount (s : State) (v : Nat) : State :=
  if v < s.now then { s with camp := { s.camp with holdTicks := s.now - v } }
  else ({ s with camp := { s.camp with count := v } }).shiftLeases ((v : Int) - s.now)

/-- The flags word of a TIME frame (R358). -/
def State.timeFlags (s : State) (reply : Bool) : Nat := s.lockState + 4 * s.reg E.campCountValid + 8 * b2n reply

/-- In-service peer ports (R258). -/
def State.timePorts (s : State) : List Nat :=
  (List.range 24).filter fun n => s.portUp (.utxon n) && s.partnerType n == 1

/-- Send a TIME request on every in-service peer port (R258). -/
def State.beginExchange (s : State) : State :=
  let ps := s.timePorts
  let s := { s with camp := { s.camp with exchanges := ps.map fun n => (n, s.now) } }
  ps.foldl (fun s n => (s.bump (E.utxonFramesTx n)).emit (.time n s.now 0 0 (s.timeFlags false))) s

/-- Enter ACQUIRING (R257, R258). -/
def State.acquire (s : State) : State :=
  ({ s with camp := { s.camp with offset := none, countSet := false, good := 0, starting := false } }.setLockState 1).beginExchange

/-- The master start is over: the greatest valid count of a peer is taken if it exceeds the own, and the device is MASTER
(R260). -/
def State.finishStart (s : State) : State :=
  if s.camp.starting ∧ s.camp.exchanges = [] then
    let s := if 0 < s.camp.best then s.setCount (s.now + s.camp.best.toNat) else s
    { s with camp := { s.camp with starting := false } }.setLockState 3
  else s

/-- The master start of R260. -/
def State.masterStart (s : State) : State :=
  ({ s with camp := { s.camp with starting := true, best := 0 } }.beginExchange).finishStart

/-- An entry to UNLOCKED (R257): counted and logged from LOCKED or MASTER; collectives go on without stamps (R432). -/
def State.unlock (s : State) : State :=
  let was := s.lockState
  let s := { s.setLockState 0 with
    eng := { s.eng with colls := s.eng.colls.map fun r => { r with untimed := true } }
    camp := { s.camp with offset := none, countSet := false, good := 0, starting := false, exchanges := [], driving := false } }
  if was = 2 ∨ was = 3 then (s.bump E.campUnlockEvents).logEvent 0x0002 1 0xFFF 0 (s.reg E.campLastError) else s

/-- CAMP_SYNC_MARKER: the rising edge of a marker (R255, R257 to R259). -/
def State.opMarker (s : State) : State :=
  if ¬ s.running then s
  else
    let c : Int := s.now
    let sd : Int := s.reg E.campSyncDelay
    let tol : Int := s.reg E.campLockTolerance
    let e := c - sd - nearestMarker (c - sd)
    let s := (s.setReg E.campLastError (uns 32 e)).bump E.campMarkers
    let near := decide (-tol ≤ e) && decide (e ≤ tol)
    match s.lockState with
    | 1 =>
      match s.camp.offset with
      | none => s.beginExchange
      | some o =>
        if ¬ s.camp.countSet then
          let s := s.setCount (nearestMarker (c + o - sd) + sd).toNat
          { s with camp := { s.camp with countSet := true, good := 0 } }
        else if near then
          if s.camp.good = 0 then { s with camp := { s.camp with good := 1 } } else s.setLockState 2
        else s.acquire
    | 2 =>
      if ¬ near then s.unlock.acquire
      else if e < 0 then { s with camp := { s.camp with correction := 1 } }
      else if 0 < e then { s with camp := { s.camp with correction := -1 } }
      else s
    | _ => s

/-- MARKER_DRIVE: the master drives CAMP_SYNC at a multiple of 65,536, once at each; the old master drives none from SWITCH_AT on (R255,
R260). -/
def State.opMarkerDrive (s : State) : State :=
  let past := s.camp.switching && decide (s.reg E.campSwitchAt ≤ s.now) && s.reg E.campMasterPos != s.reg E.idBoardPos
  let done := s.camp.driving && s.camp.lastMarker == s.now
  if s.running ∧ s.lockState = 3 ∧ s.now % 65536 = 0 ∧ ¬ past ∧ ¬ done then
    { s with camp := { s.camp with driving := true, lastMarker := s.now } }.emit (.marker s.now)
  else s

/-- MARKER_MISS_TIMEOUT (R257). -/
def State.opMarkerMiss (s : State) : State := if s.running ∧ s.lockState = 2 then s.unlock.acquire else s

/-- MASTER_MARKER_MISS (R257). -/
def State.opMasterMiss (s : State) : State := if s.running ∧ s.lockState = 3 then s.unlock else s

/-- A write of TIME_ENABLE (R257). -/
def State.writeTimeEnable (s : State) (v : Nat) : State :=
  let was := s.reg E.campTimeEnable
  let s := s.setReg E.campTimeEnable (v % 2)
  if v % 2 = 0 then s.unlock
  else if was = 1 then s
  else if s.reg E.idBoardPos = s.reg E.campMasterPos then s.masterStart
  else s.acquire

/-- A write of MASTER_POS (R260, R261). -/
def State.writeMasterPos (s : State) (v : Nat) : State := s.writeWhen (decide (v < 8)) fun s => s.setReg E.campMasterPos v

/-- A write of SWITCH_AT (R260). -/
def State.writeSwitchAt (s : State) (v : Nat) : State :=
  s.writeWhen (v % 65536 == 0 && decide (s.now + 131072 ≤ v)) fun s =>
    { s.setReg E.campSwitchAt v with camp := { s.camp with switching := true } }

/-- MASTER_SWITCH: the count reaches SWITCH_AT (R260). -/
def State.opMasterSwitch (s : State) : State :=
  if ¬ s.running ∨ ¬ s.camp.switching ∨ s.now < s.reg E.campSwitchAt then s
  else
    let s := { s with camp := { s.camp with switching := false } }
    let mine := s.reg E.campMasterPos == s.reg E.idBoardPos
    if mine ∧ s.lockState = 2 then (s.setLockState 3).opMarkerDrive
    else if ¬ mine ∧ s.lockState = 3 then { s.setLockState 2 with camp := { s.camp with driving := false } }
    else s

/-- The exchanges with a port that has left service are over. -/
def State.dropExchange (s : State) (n : Nat) : State :=
  { s with camp := { s.camp with exchanges := s.camp.exchanges.filter fun x => x.1 != n } }.finishStart

/-- A TIME frame (R258, R358): a request is answered; a reply to an exchange gives the partner's offset. -/
def State.opTimeFrame (s : State) (port tx echoTx echoRx : Nat) (valid reply : Bool) : State :=
  if ¬ s.portUp (.utxon port) then s
  else
  let s := s.bump (E.utxonFramesRx port)
  if ¬ reply then (s.bump (E.utxonFramesTx port)).emit (.time port s.now tx s.now (s.timeFlags true))
  else if ¬ (s.camp.exchanges.any fun x => x.1 == port && x.2 == echoTx) then s
  else
    let s := { s with camp := { s.camp with exchanges := s.camp.exchanges.filter fun x => x.1 != port } }
    let o : Int := (((echoRx : Int) - echoTx) - ((s.now : Int) - tx)) / 2
    if s.camp.starting then
      let best := if valid ∧ s.camp.best < o then o else s.camp.best
      { s with camp := { s.camp with best } }.finishStart
    else if s.lockState = 1 ∧ valid ∧ s.camp.offset.isNone then { s with camp := { s.camp with offset := some o } }
    else s

end Sys2Proof.Machine
end

