-- ==== Sys2Proof/Machine/Regions.lean ====
section
/-! DEFINITION. Regions: the free runs of the local map, the region commands with their checks, sharing, hand-over,
staged copies, and what a pitch holds (R38 to R58, R281, R556). -/

namespace Sys2Proof.Machine

/-! ### What pitches hold (R54, R62, R69) -/

/-- The descriptor counts for its owner: it is neither FREE nor CLEARING nor lodged. -/
def Region.held (r : Region) : Bool := r.mapped && !r.lodged

/-- Descriptors owned by a pitch, aliases included: REGION_COUNT. -/
def State.regionCount (s : State) (p : Nat) : Nat :=
  (s.region.table.filter fun e => e.2.held && e.2.owner == p).length

/-- Bytes of stacked memory that a pitch owns, peer pages included: BYTES_HELD. -/
def State.bytesHeld (s : State) (p : Nat) : Nat :=
  sumBy (fun e => (e.2.pages + e.2.peerPages) * 65536) (s.region.table.filter fun e =>
    e.2.held && !e.2.isAlias && !e.2.factored && e.2.placement != 1 && e.2.owner == p)

/-- Pages of a staged copy's region. -/
def State.copyPages (s : State) (c : Staged) : Nat := (s.regionAt c.region).pages

/-- Sward pages that a pitch's regions and staged copies take (R50, R69). -/
def State.swardPages (s : State) (p : Nat) : Nat :=
  sumBy (fun e => e.2.pages) (s.region.table.filter fun e =>
    e.2.held && !e.2.isAlias && e.2.placement == 1 && e.2.owner == p) +
  sumBy s.copyPages (s.sward.staged.filter fun c => (s.regionAt c.region).owner == p)

/-! ### Free runs (R37, R46, R47, R184) -/

/-- The kinds of place that a region can take. -/
inductive Place46 where
  | plain
  | prot
  | sward (biv : Nat)
  | view
  deriving DecidableEq, Repr

/-- First page of the Sward window. -/
def swardBase : Nat := 0x20000000000 / 65536

/-- First page and end of a kind's pages (R36, R37, R168). -/
def State.placeRange (s : State) : Place46 → Nat × Nat
  | .plain => (0, s.protBase / 1024)
  | .prot => (s.protBase / 1024, s.protBase / 1024 + s.protLines / 1024)
  | .sward b => (swardBase + 64 * b + 16, swardBase + 64 * b + 64)
  | .view => (0x10000000000 / 65536, 0x20000000000 / 65536)

/-- The kind of place of a page of stacked memory. -/
def State.pagePlace (s : State) (page : Nat) : Place46 := if page < s.protBase / 1024 then .plain else .prot

/-- Runs of pages that are taken: by descriptors that are not FREE, aliases apart, and by withdrawn pages. -/
def State.takenRuns (s : State) : List (Nat × Nat) :=
  (s.region.table.filter fun e => e.2.state != .free && !e.2.isAlias && decide (0 < e.2.pages)).map
    (fun e => (e.2.basePage, e.2.pages)) ++ (s.mem.withdrawn ++ s.sward.staged.flatMap fun c => c.pages).map fun p => (p, 1)

/-- The gaps between runs, sorted by base, from `lo` to `hi`: base and pages. -/
def gapsOf (hi : Nat) : Nat → List (Nat × Nat) → List (Nat × Nat)
  | lo, [] => if lo < hi then [(lo, hi - lo)] else []
  | lo, r :: rs =>
    (if lo < min r.1 hi then [(lo, min r.1 hi - lo)] else []) ++ gapsOf hi (max lo (r.1 + r.2)) rs

/-- Pages that staged copies take in a Bivouac's upper Sward. -/
def State.copiesOn (s : State) (biv : Nat) : Nat := sumBy s.copyPages (s.sward.staged.filter fun c => c.biv == biv)

/-- The free runs of a kind, in page order. -/
def State.freeRuns (s : State) (k : Place46) : List (Nat × Nat) :=
  let (lo, hi) := s.placeRange k
  let taken := s.takenRuns.filter fun r => decide (r.1 < hi) && decide (lo < r.1 + r.2)
  gapsOf hi lo (sortBy (fun a b => decide (a.1 ≤ b.1)) taken)

/-- The largest of a list of runs, the lowest winning a tie. -/
def largestRun (rs : List (Nat × Nat)) : Nat × Nat := (argMax (fun r => r.2) rs).getD (0, 0)

/-- The lowest run that holds `n` pages. -/
def fitRun (n : Nat) (rs : List (Nat × Nat)) : Option Nat :=
  (rs.find? fun r => decide (n ≤ r.2)).map fun r => r.1

/-- The logical Bivouac whose largest free upper-Sward run is the greatest, the lowest number winning a tie (R46). -/
def State.chooseSward (s : State) : Nat :=
  (argMax (fun b => (largestRun (s.freeRuns (.sward b))).2) (List.range 512)).getD 0

/-- The lowest FREE descriptor (R38). -/
def State.freeDescriptor (s : State) : Option Nat :=
  let busy := (s.region.table.filter fun e => e.2.state != .free).map fun e => e.1
  ((List.range (busy.length + 1)).find? fun i => !busy.contains i).filter fun i => decide (i < 65536)

/-! ### Images (R38) -/

/-- A code of PLACEMENT, RIGHTS and STATE as they stand in a descriptor. -/
def RegState.code : RegState → Nat
  | .free => 0
  | .live => 1
  | .handover => 2
  | .clearing => 3
  | .damaged => 4

/-- The four words of a descriptor (R38). -/
def regionImage (i : Nat) (r : Region) : List Word :=
  [packWord [(0, r.basePage % 2 ^ 26), (26, r.pages), (52, if r.lodged then 0 else r.owner)],
   packWord [(0, r.rights), (2, r.placement), (4, b2n r.protect), (5, b2n r.factored), (6, b2n r.overflow),
     (7, r.peerPos), (10, r.state.code), (13, b2n r.isAlias), (16, r.parent), (32, r.stageFirst),
     (41, r.stageCount)],
   packWord [(0, r.peerBase), (26, r.peerPages)],
   packWord [(0, i), (16, r.peerIndex)]]

/-- The REGIONS block of a pitch (R69). -/
def State.regionsBlock (s : State) (p : Nat) : List Byte :=
  (s.region.table.filter fun e => e.2.state != .free && !e.2.lodged && e.2.owner == p).flatMap fun e =>
    bytesOfWords (regionImage e.1 e.2)

/-! ### Fields of the commands (R42, R246) -/

/-- INDEX of a region command. -/
def Desc.regionIndex (d : Desc) : Nat := d.fld 8 15 0

/-- PITCH_ARG. -/
def Desc.pitchArg (d : Desc) : Nat := d.fld 8 27 16

/-- The descriptor is a command of the region unit with an opcode, and has started. -/
def State.regionCmd (s : State) (id : DescId) (op : Nat) : Option Desc :=
  (s.desc id).filter fun d => d.opcode == op && d.phase == .running

/-- The issuing pitch may name the region: its own, and on pitch 0 that of any pitch (R42, R43). -/
def mayName (p : Nat) (r : Region) : Bool := r.state != .free && !r.lodged && (r.owner == p || p == 0)

/-- The region is busy for a command (R43). -/
def Region.busy (r : Region) : Bool := r.state == .handover || r.state == .clearing

/-- The OK result word: index and BASE_PAGE (R43). -/
def regionResult (i base : Nat) : Nat := i + base % 2 ^ 26 * 65536

/-- The QUOTA result word (R43). -/
def quotaResult (name excess : Nat) : Nat := name * 2 ^ 62 + excess % 2 ^ 62

/-- The first quota of a pitch that more descriptors, bytes and Sward pages would exceed (R43, R69). -/
def State.quotaExcess (s : State) (p descs bytes pages : Nat) : Option Nat :=
  let rq := s.reg (E.pitchRegionQuota p)
  let bq := s.reg (E.pitchByteQuota p)
  let sq := s.reg (E.pitchSwardQuota p)
  if rq < s.regionCount p + descs then some (quotaResult 3 (s.regionCount p + descs - rq))
  else if 0 < bytes ∧ 0 < bq ∧ bq < s.bytesHeld p + bytes then some (quotaResult 1 (s.bytesHeld p + bytes - bq))
  else if 0 < pages ∧ 0 < sq ∧ sq < s.swardPages p + pages then
    some (quotaResult 2 ((s.swardPages p + pages - sq) * 65536))
  else none

/-! ### REGION_CREATE (R44, R46 to R50) -/

/-- The operands of a create, as its image holds them. -/
structure CreateArgs where
  pages : Nat
  rights : Nat
  placement : Nat
  protect : Bool
  factored : Bool
  overflow : Bool
  peerPos : Nat
  first : Nat
  count : Nat
  target : Nat

/-- Read the operands of REGION_CREATE. -/
def Desc.createArgs (d : Desc) : CreateArgs :=
  { pages := d.fld 4 51 26, rights := d.fld 5 1 0, placement := d.fld 5 3 2, protect := bitOf (d.word 5) 4,
    factored := bitOf (d.word 5) 5, overflow := bitOf (d.word 5) 6, peerPos := d.fld 5 9 7, first := d.fld 5 40 32,
    count := d.fld 5 50 41, target := if d.id.pitch = 0 then d.pitchArg else d.id.pitch }

/-- The operands are refused with BAD_ARGUMENT (R43, R49). -/
def CreateArgs.bad (a : CreateArgs) : Bool :=
  a.pages == 0 || (!a.overflow && decide (2 ^ 24 < a.pages)) || (a.rights != 1 && a.rights != 3) || a.placement == 3 ||
    (a.placement == 2 && a.rights == 3) || (a.protect && (a.factored || a.placement == 1)) ||
    (a.overflow && a.placement != 0) || (a.placement == 1 && decide (1 < a.count)) ||
    (a.placement != 0 && decide (512 < a.first + a.count))

/-- Where a create goes: base page, local pages, Bivouac of a SWARD region, or the shortfall in pages. -/
inductive Fit where
  | fits (base pages biv : Nat)
  | partly (base pages : Nat)
  | short (pages : Nat)
  deriving DecidableEq, Repr

/-- The fit of a create on the device (R46 to R48, R50). -/
def State.fitCreate (s : State) (a : CreateArgs) : Fit :=
  if a.placement = 1 then
    let b := if a.count = 1 then a.first else s.chooseSward
    let runs := s.freeRuns (.sward b)
    match fitRun a.pages runs with
    | some base => .fits base a.pages b
    | none => .short (a.pages - (largestRun runs).2)
  else
    let runs := s.freeRuns (if a.protect then .prot else .plain)
    let most := largestRun runs
    match fitRun a.pages runs with
    | some base =>
      if a.placement = 2 then
        let frees := (List.range a.count).map fun i =>
          48 - sumBy (fun e => e.2.pages) (s.region.table.filter fun e => e.2.state != .free && !e.2.isAlias &&
            e.2.placement == 1 && !e.2.factored && e.2.stageFirst == a.first + i) - s.copiesOn (a.first + i)
        let least := frees.foldl min 48
        if a.count = 0 ∨ a.pages ≤ least then .fits base a.pages 0 else .short (a.pages - least)
      else .fits base a.pages 0
    | none => if a.overflow then .partly most.1 most.2 else .short (a.pages - most.2)

/-- Begin staged copies of a region on its staging set (R50, R190): no line of them is written yet. -/
def State.beginCopies (s : State) (i first count : Nat) : State :=
  let s := { s with sward := { s.sward with staged := s.sward.staged.filter fun c => c.region != i } }
  let n := (s.regionAt i).pages
  let cs := (List.range count).map fun k =>
    let free := (s.freeRuns (.sward (first + k))).flatMap fun r => (List.range r.2).map (r.1 + ·)
    ({ region := i, biv := first + k, mark := 0, pages := free.take n } : Staged)
  let s := (cs.flatMap fun c => c.pages).foldl (fun s p => s.swardClear ((p - swardBase) * 1024) 1024) s
  { s with sward := { s.sward with staged := s.sward.staged ++ cs } }

/-- Drop every staged copy of a region (R51, R52). -/
def State.dropCopies (s : State) (i : Nat) : State :=
  { s with sward := { s.sward with staged := s.sward.staged.filter fun c => c.region != i } }

/-- Clear the written flags of the lines of a SWARD region (R62, R189). -/
def State.clearSwardPages (s : State) (base pages : Nat) : State :=
  s.swardClear ((base - swardBase) * 1024) (pages * 1024)

/-- A create that fails: its status and result, which LAST_SHORTFALL of the target keeps (R44). -/
def State.failCreate (s : State) (d : Desc) (target status result : Nat) : State :=
  (s.setReg (E.pitchLastShortfall target) result).decideDesc d { status, result }

/-- A create that succeeds. -/
def State.makeRegion (s : State) (d : Desc) (a : CreateArgs) (i base pages biv peerBase peerPages peerIndex : Nat) :
    State :=
  let r : Region :=
    { basePage := base, pages, owner := a.target, rights := a.rights, placement := a.placement, protect := a.protect,
      overflow := a.overflow, peerPos := if a.overflow then a.peerPos else 0, state := .live,
      stageFirst := if a.placement = 1 then biv else if a.placement = 2 then a.first else 0,
      stageCount := if a.placement = 1 then 1 else if a.placement = 2 then a.count else 0,
      peerBase, peerPages, peerIndex }
  let s := s.setRegion i r
  let s := if a.placement = 1 then s.clearSwardPages base pages else s
  let s := if a.placement = 2 then s.beginCopies i a.first a.count else s
  s.decideDesc d { status := 0, result := regionResult i base }

/-- REGION_CREATE (R44): the checks in their order, the fit, and the peer's part with the peer's answer. -/
def State.opRegionCreate (s : State) (id : DescId) (peer : PeerFit) : State :=
  match s.regionCmd id 0x08 with
  | none => s
  | some d =>
    let a := d.createArgs
    if a.bad then s.failCreate d a.target 0x03 0
    else match s.freeDescriptor with
      | none => s.failCreate d a.target 0x10 0
      | some i =>
        let bytes := if a.placement = 1 then 0 else a.pages * 65536
        let pages := if a.placement = 1 then a.pages else if a.placement = 2 then a.pages * a.count else 0
        match s.quotaExcess a.target 1 bytes pages with
        | some x => s.failCreate d a.target 0x11 x
        | none =>
          if a.overflow ∧ (a.peerPos = s.reg E.idBoardPos ∨ (s.peerPort a.peerPos).isNone) then
            s.failCreate d a.target 0x13 0
          else match s.fitCreate a with
            | .fits base n biv => s.makeRegion d a i base n biv 0 0 0
            | .short n => s.failCreate d a.target 0x12 (n * 65536)
            | .partly base n =>
              match peer with
              | .noDescriptor => s.failCreate d a.target 0x10 0
              | .noFit largest => s.failCreate d a.target 0x12 ((a.pages - n - largest) * 65536)
              | .lodged pb pi => s.makeRegion d a i base n 0 pb (a.pages - n) pi

/-! ### REGION_SHARE (R54, R556) -/

/-- REGION_SHARE. -/
def State.opRegionShare (s : State) (id : DescId) : State :=
  match s.regionCmd id 0x09 with
  | none => s
  | some d =>
    let fail := fun st r => s.decideDesc d { status := st, result := r }
    let rights := d.fld 8 29 28
    let i := d.regionIndex
    let r := s.regionAt i
    let first := d.fld 9 25 0
    let n := d.fld 9 51 26
    if rights ≠ 1 ∧ rights ≠ 3 then fail 0x03 0
    else if ¬ mayName id.pitch r then fail 0x14 0
    else if r.busy then fail 0x15 0
    else if r.isAlias ∨ (rights = 3 ∧ (r.rights = 1 ∨ r.factored)) ∨ n = 0 ∨ r.pages + r.peerPages < first + n then
      fail 0x03 0
    else match s.freeDescriptor with
      | none => fail 0x10 0
      | some j =>
        match s.quotaExcess d.pitchArg 1 0 0 with
        | some x => fail 0x11 x
        | none =>
          let nl := min (first + n) r.pages - min first r.pages
          let np := n - nl
          let a : Region :=
            { basePage := if nl = 0 then 0 else r.basePage + first, pages := nl, owner := d.pitchArg, rights,
              placement := r.placement, protect := r.protect, factored := r.factored,
              overflow := decide (0 < np) && r.overflow, peerPos := if 0 < np then r.peerPos else 0, state := .live,
              isAlias := true, parent := i, stageFirst := r.stageFirst, stageCount := r.stageCount,
              peerBase := if 0 < np then r.peerBase + (first - min first r.pages) else 0, peerPages := np,
              peerIndex := if 0 < np then r.peerIndex else 0 }
          (s.setRegion j a).decideDesc d { status := 0, result := regionResult j a.basePage }

/-! ### Hand-over (R55, R57, R58) -/

/-- REGION_HANDOVER. -/
def State.opRegionHandover (s : State) (id : DescId) : State :=
  match s.regionCmd id 0x0A with
  | none => s
  | some d =>
    let i := d.regionIndex
    let r := s.regionAt i
    if ¬ mayName id.pitch r then s.decideDesc d { status := 0x14 }
    else if r.busy then s.decideDesc d { status := 0x15 }
    else if r.isAlias then s.decideDesc d { status := 0x03 }
    else
      (s.setRegion i { r with state := .handover, parent := d.pitchArg, outcome := none }).decideDesc d
        { status := 0, result := regionResult i r.basePage }

/-- A hand-over ends with an outcome: 1 ACCEPTED, 2 EXPIRED, 3 CANCELLED (R57, R58).  Both pitches' LAST_HANDOVER
name it. -/
def State.endHandover (s : State) (i code : Nat) : State :=
  let r := s.regionAt i
  let owner := if code = 1 then r.parent else r.owner
  let word := fun other => i + code * 65536 + other * 2 ^ 24
  let s := s.setRegion i { r with state := .live, owner, parent := 0, outcome := some (r.owner, r.parent, code) }
  let s := { s with region := { s.region with accepting := s.region.accepting.filter fun a => a.index != i } }
  s.setRegs [(E.pitchLastHandover r.owner, word r.parent), (E.pitchLastHandover r.parent, word r.owner)]

/-- A REGION_ACCEPT whose hand-over ends early completes with a status. -/
def State.failAccept (s : State) (i status : Nat) : State :=
  (s.work.descs.filter fun d => d.opcode == 0x0B && d.phase == .running && d.regionIndex == i).foldl
    (fun s d => s.decideDesc d { status }) s

/-- REGION_ACCEPT: the hand-over's steps begin (R55). -/
def State.opRegionAccept (s : State) (id : DescId) : State :=
  match s.regionCmd id 0x0B with
  | none => s
  | some d =>
    let i := d.regionIndex
    let r := s.regionAt i
    if s.region.accepting.any fun a => a.index == i then s
    else if r.state = .handover ∧ r.parent = id.pitch then
      { s with region := { s.region with accepting := s.region.accepting ++ [{ index := i, target := id.pitch }] } }
    else match r.outcome with
      | some (_, t, code) =>
        if t = id.pitch ∧ r.state ≠ .free ∧ code ≠ 1 then s.decideDesc d { status := if code = 2 then 0x16 else 0x17 }
        else s.decideDesc d { status := 0x14 }
      | none => s.decideDesc d { status := 0x14 }

/-- A range of pool addresses meets the pages of a region, those on its overflow peer included (R48). -/
def State.meetsRegion (s : State) (r : Region) (addr len : Nat) : Bool :=
  let meets := fun (dev base pages : Nat) =>
    bits addr 51 42 == dev && decide (bits addr 41 0 < (base + pages) * 65536) && decide (base * 65536 < bits addr 41 0 + len)
  meets s.deviceNumber r.basePage r.pages || meets (s.reg E.idBoardNumber * 8 + r.peerPos) r.peerBase r.peerPages

/-- A descriptor's record touches the pages of a region. -/
def State.touches (s : State) (d : Desc) (r : Region) : Bool :=
  d.record.any fun x => !x.host && s.meetsRegion r x.target x.bytes

/-- The descriptors of the old owner that were dispatched before the accept and touch the region have completed
(R55 step 1). -/
def State.handoverQuiet (s : State) (d : Desc) (r : Region) : Bool :=
  !(s.work.descs.any fun x => x.id.pitch == r.owner && x.id != d.id && decide (x.order < d.order) &&
    (x.phase == .dispatched || x.phase == .running || (x.phase == .decided && x.unit.isSome)) && s.touches x r)

/-- HANDOVER_LIMIT_EXPIRY (R57). -/
def State.opHandoverExpiry (s : State) (i : Nat) : State :=
  if (s.regionAt i).state = .handover ∧ ¬ (s.region.accepting.any fun a => a.index == i) then s.endHandover i 2 else s

/-- Every hand-over that involves a pitch ends CANCELLED (R57). -/
def State.cancelHandovers (s : State) (p : Nat) : State :=
  (s.region.table.filter fun e => e.2.state == .handover && (e.2.owner == p || e.2.parent == p)).foldl
    (fun s e => (s.failAccept e.1 0x17).endHandover e.1 3) s

/-! ### REGION_HINT (R50, R51, R556) -/

/-- The free upper-Sward pages of a Bivouac for a region's copies, its present copies counted as free. -/
def State.freeForCopies (s : State) (i biv : Nat) : Nat :=
  let own := sumBy s.copyPages (s.sward.staged.filter fun c => c.biv == biv && c.region == i)
  sumBy (fun r => r.2) (s.freeRuns (.sward biv)) + own

/-- REGION_HINT. -/
def State.opRegionHint (s : State) (id : DescId) : State :=
  match s.regionCmd id 0x0C with
  | none => s
  | some d =>
    let i := d.regionIndex
    let r := s.regionAt i
    let place := d.fld 5 3 2
    let first := d.fld 5 40 32
    let count := d.fld 5 50 41
    if place = 1 ∨ place = 3 ∨ (place = 2 ∧ 512 < first + count) then s.decideDesc d { status := 0x03 }
    else if ¬ mayName id.pitch r then s.decideDesc d { status := 0x14 }
    else if r.busy then s.decideDesc d { status := 0x15 }
    else if r.isAlias ∨ r.factored ∨ r.placement = 1 ∨ (place = 2 ∧ r.rights = 3) ∨ (place = 2 ∧ r.overflow) then
      s.decideDesc d { status := 0x03 }
    else if place = 0 then
      let s := (s.setRegion i { r with placement := 0, stageFirst := 0, stageCount := 0 }).dropCopies i
      s.decideDesc d { status := 0, result := regionResult i r.basePage }
    else
      let now := sumBy s.copyPages (s.sward.staged.filter fun c => c.region == i)
      let sq := s.reg (E.pitchSwardQuota r.owner)
      let want := s.swardPages r.owner - now + r.pages * count
      let least := ((List.range count).map fun k => s.freeForCopies i (first + k)).foldl min 48
      if 0 < sq ∧ sq < want then s.decideDesc d { status := 0x11, result := quotaResult 2 ((want - sq) * 65536) }
      else if 0 < count ∧ least < r.pages then s.decideDesc d { status := 0x12, result := (r.pages - least) * 65536 }
      else
        let s := (s.setRegion i { r with placement := 2, stageFirst := first, stageCount := count }).beginCopies i first count
        s.decideDesc d { status := 0, result := regionResult i r.basePage }

/-! ### REGION_DESTROY (R54, R62, R281) -/

/-- Free the aliases that pass a test. -/
def State.freeAliases (s : State) (q : Region → Bool) : State :=
  (s.region.table.filter fun e => e.2.state != .free && e.2.isAlias && q e.2).foldl (fun s e => s.setRegion e.1 {}) s

/-- Queue a region message for a peer (R62); it leaves while a port to the peer is in service. -/
def State.sendRegionMsg (s : State) (m : RegMsg) : State :=
  match s.peerPort m.peerPos with
  | some n => s.emit (.region n m.kind m.index m.originPos m.originIndex)
  | none => { s with region := { s.region with msgs := s.region.msgs ++ [m] } }

/-- Send the region messages kept for peers whose ports are in service again (R62). -/
def State.pumpRegionMsgs (s : State) : State :=
  s.region.msgs.foldl (fun s m => s.sendRegionMsg m) { s with region := { s.region with msgs := [] } }

/-- A page of the factored-view window belongs to the view region. -/
def State.viewReadOf (s : State) (i : Nat) (w : Work) : Bool :=
  let r := s.regionAt i
  decide (r.basePage * 1024 ≤ w.line) && decide (w.line < (r.basePage + r.pages) * 1024)

/-- A view region and its record are freed (R281). -/
def State.freeView (s : State) (i : Nat) : State :=
  { s.setRegion i {} with eng := { s.eng with
      views := SMap.set (fun _ => {}) s.eng.views i {}
      segs := s.eng.segs.filter fun g => g.view != i } }

/-- A view region is destroyed: it is freed once its reads in flight have been answered (R281). -/
def State.destroyView (s : State) (i : Nat) : State :=
  if s.dir.viewReads.any (s.viewReadOf i) then s.setRegion i { s.regionAt i with state := .clearing, outcome := none }
  else s.freeView i

/-- Destroy a region: its aliases go, its copies are dropped, and its pages are cleared; a view's window pages hold
nothing to clear (R62, R281). -/
def State.destroyRegion (s : State) (i : Nat) : State :=
  let r := s.regionAt i
  let s := (s.freeAliases fun a => a.parent == i).dropCopies i
  if r.factored then s.destroyView i
  else
    let s := s.setRegion i { r with state := .clearing, outcome := none }
    let s := if r.placement = 1 then s.clearSwardPages r.basePage r.pages else s
    let stacked := r.placement ≠ 1
    let c : Clearing := { index := i, next := if stacked then r.basePage * 1024 else (r.basePage + r.pages) * 1024,
                          peerOwed := decide (0 < r.peerPages) && !r.lodged }
    let s := { s with region := { s.region with clearing := s.region.clearing ++ [c] } }
    if 0 < r.peerPages ∧ ¬ r.lodged then
      s.sendRegionMsg { peerPos := r.peerPos, kind := 0, index := r.peerIndex, originPos := s.reg E.idBoardPos,
                        originIndex := i }
    else s

/-- REGION_DESTROY. -/
def State.opRegionDestroy (s : State) (id : DescId) : State :=
  match s.regionCmd id 0x0D with
  | none => s
  | some d =>
    let i := d.regionIndex
    let r := s.regionAt i
    let parentOwner := r.isAlias && (s.regionAt r.parent).owner == id.pitch && r.state != .free && !r.lodged
    if ¬ (mayName id.pitch r ∨ parentOwner) then s.decideDesc d { status := 0x14 }
    else if r.busy then s.decideDesc d { status := 0x15 }
    else
      let s := if r.isAlias then s.setRegion i {} else s.destroyRegion i
      s.decideDesc d { status := 0, result := regionResult i r.basePage }

/-- REGION_DESTROY_MESSAGE: the origin asks for the clearing of its lodged part (R62). -/
def State.opRegionDestroyMessage (s : State) (port i pos oi : Nat) : State :=
  if ¬ (s.coreOn ∧ s.portUp (.utxon port) ∧ s.partnerType port = 1) then s
  else
    let r := s.regionAt i
    if r.lodged ∧ r.peerPos = pos ∧ r.peerIndex = oi ∧ r.state ≠ .free then
      if r.state = .clearing then s else s.destroyRegion i
    else s.sendRegionMsg { peerPos := pos, kind := 1, index := oi, originPos := s.reg E.idBoardPos, originIndex := i }

/-- CLEAR_REPORT: the peer has ended its clearing of a lodged part (R62). -/
def State.opClearReport (s : State) (port i : Nat) : State :=
  if ¬ (s.coreOn ∧ s.portUp (.utxon port) ∧ s.partnerType port = 1) then s
  else
    { s with region := { s.region with clearing := s.region.clearing.map fun c =>
        if c.index = i then { c with peerOwed := false } else c } }

/-- LODGED_DESCRIPTOR_CREATE: an origin lodges its remainder here (R48). -/
def State.opLodge (s : State) (port pos oi pages : Nat) (protect : Bool) (rights : Nat) : State :=
  if ¬ (s.coreOn ∧ s.portUp (.utxon port) ∧ s.partnerType port = 1) ∨ pages = 0 then s
  else match s.freeDescriptor, fitRun pages (s.freeRuns (if protect then .prot else .plain)) with
    | some i, some base =>
      s.setRegion i { basePage := base, pages, rights, protect, peerPos := pos, peerIndex := oi, state := .live,
                      lodged := true }
    | _, _ => s

end Sys2Proof.Machine
end

