-- ==== Sys2Proof/Machine/Utxon.lean ====
section
/-! DEFINITION. Utxon links: link-up, sequence and replay, lanes, retrain, hold expiry, and the responses to the
requests that the device forwards (R127, R128, R349 to R371). -/

namespace Sys2Proof.Machine

/-! ### Forwarded requests (R32, R120, R127, R128, R371) -/

/-- A forwarded transaction ends: its tag rests for 8 µs (R128). -/
def State.endFwd (s : State) (f : Fwd) : State :=
  { s with port := { s.port with
      fwds := s.port.fwds.filter fun x => !(x.port == f.port && x.tag == f.tag)
      coolTags := s.port.coolTags ++ [(f.port, f.tag, s.cclk)] } }

/-- The requests that wait for a retraining port are routed again (R32, R369). -/
def State.retryRetrain (s : State) : State :=
  s.port.retrainWait.foldl (fun s w => s.routeWork w) { s with port := { s.port with retrainWait := [] } }

/-- Forget the ended requests of a port whose messages it no longer holds (R371). -/
def State.dropEnded (s : State) (n : Nat) : State :=
  (s.port.fwds.filter fun f => f.port == n && !f.live && !(s.link n).holdsReq f.tag).foldl State.endFwd s

/-- A response that matches no transaction is discarded and counted (R128). -/
def State.lateResponse (s : State) (tag : Nat) : State := s.bump (E.sliceLateResponses (s.countSlice (tag / 2048 % 32)))

/-- A response to a request that the device forwarded goes to its originator (R32, R112). -/
def State.returnRsp (s : State) (f : Fwd) (op : Nat) (r : Rsp) : State :=
  let w := f.work
  let s := (s.endFwd f).respond { opcode := op, port := w.req.port, tag := w.req.tag, agent := if w.caching then w.src else 0,
                                  prio := w.prio, colour := w.colour } r.load r.status r.data
    (if isAtomic w.op then some (r.resLo, r.resHi) else none)
  s.retryRetrain

/-- A response arrives at the device as a requester: a NAK makes it issue the request again with the same tag (R120). -/
def State.opRsp (s : State) (op : Nat) (r : Rsp) : State :=
  if ¬ (s.coreOn ∧ s.portUp r.port) then s
  else match s.port.fwds.find? fun f => Port.utxon f.port == r.port && f.tag == r.tag && f.live with
    | none => s.lateResponse r.tag
    | some f =>
      if op = 0x3D then
        s.sendMsg (.utxon f.port) 0 { msg := { opcode := f.work.op, req := { f.work.req with port := .utxon f.port, tag := f.tag } } }
      else s.returnRsp f op r

/-- TRANSACTION_TIMEOUT: the transaction ends without a response; while its message is held on a retraining port, its
tag stays in use (R127, R371). -/
def State.opTransactionTimeout (s : State) (p : Port) (tag : Nat) : State :=
  match s.port.fwds.find? fun f => Port.utxon f.port == p && f.tag == tag && f.live with
  | none => s
  | some f =>
    if (s.link f.port).holdsReq f.tag then
      { s with port := { s.port with
          fwds := s.port.fwds.map fun x => if x.port == f.port && x.tag == f.tag then { x with live := false } else x } }
    else (s.endFwd f).retryRetrain

/-- BI_CONFLICT: answered at once, or once the responses that are owed have left (R115). -/
def State.opBiConflict (s : State) (n ln : Nat) : State :=
  if ¬ (s.coreOn ∧ s.portUp (.host n)) then s
  else if s.responsesOwed (.host n) ln then
    let h : HostPort := SMap.get (fun _ => {}) s.port.hosts n
    { s with port := { s.port with hosts := SMap.set (fun _ => {}) s.port.hosts n { h with conflicts := h.conflicts ++ [ln] } } }
  else s.emit (.biConflictAck n ln)

/-- Answer the BIConflicts for which no response is owed any more (R115). -/
def State.pumpConflicts (s : State) : State :=
  s.port.hosts.foldl (fun s e =>
    let ready := e.2.conflicts.filter fun ln => !s.responsesOwed (.host e.1) ln
    let h := { e.2 with conflicts := e.2.conflicts.filter fun ln => s.responsesOwed (.host e.1) ln }
    { s with port := { s.port with hosts := SMap.set (fun _ => {}) s.port.hosts e.1 h } }.emitAll
      (ready.map fun ln => .biConflictAck e.1 ln)) s

/-! ### Hold expiry (R368, R370) -/

/-- A credit book whose port has lost its link (R362). -/
def VcBook.reclaim (b : VcBook) : VcBook := { b with sendHeld := 0, rxHeld := 0, freed := (b.freed + b.rxHeld) % 2 ^ 32 }

/-- Steps 2 to 4 of R370: held requests return LINK_LOST, other held messages are discarded, credits and receive buffers
are reclaimed. -/
def State.expireHeld (s : State) (n : Nat) : State :=
  let l := s.link n
  let reqs := l.heldMsgs.filter fun m => m.1 == 0
  let s := s.setLink n { l with replay := [], egress := [], held := [], unacked := 0, replays := 0, req := l.req.reclaim,
                                snp := l.snp.reclaim, rsp := l.rsp.reclaim }
  let s := { s with meter := { s.meter with waiting := s.meter.waiting.filter fun w => w.req.port != Port.utxon n } }
  let s := (s.bumpBy (E.utxonHeldLost n) reqs.length).bumpBy (E.utxonHeldDiscarded n) (l.heldMsgs.length - reqs.length)
  let s := reqs.foldl (fun s m =>
    match s.port.fwds.find? fun f => f.port == n && f.tag == m.2.msg.req.tag && f.live with
    | some f => (s.endFwd f).answerPlain f.work.op f.work.req f.work.prio f.work.colour 2
    | none => s) s
  s.dropEnded n

/-- The tags that ended while the port was in RETRAIN rest for 8 µs from now (R371). -/
def State.restTags (s : State) (n : Nat) : State :=
  let coolTags := s.port.coolTags.map fun c => if c.1 = n then (c.1, c.2.1, s.cclk) else c
  { s with port := { s.port with coolTags } }

/-- The lanes of a port that carries nothing are off. -/
def State.lanesOff (s : State) (n : Nat) : State :=
  (s.setRegs ((List.range 9).map fun i => (E.utxonLaneState n i, 0))).setReg (E.utxonWidth n) 0

/-- The port leaves service for a state in which it holds nothing: the steps of R370 but the last. -/
def State.leaveService (s : State) (n st : Nat) : State :=
  let s := s.setReg (E.utxonState n) st
  let s := s.setLink n { s.link n with trained := false, resume := false, holding := false }
  ((((s.lanesOff n).expireHeld n).restTags n).dropExchange n).retryRetrain

/-- The steps of R370: the port goes to DOWN. -/
def State.portDown (s : State) (n : Nat) : State :=
  let before := s.reg (E.utxonHeldLost n)
  let s := s.leaveService n 4
  (s.bump (E.utxonLinkLostEvents n)).logEvent 0x0003 1 0xFFF (unitWord .utxon n) (s.reg (E.utxonHeldLost n) - before)

/-- HOLD_EXPIRY (R370). -/
def State.opHoldExpiry (s : State) (n : Nat) : State := if n < 24 ∧ s.coreOn ∧ s.reg (E.utxonState n) = 3 then s.portDown n else s

/-- A port leaves UP for RETRAIN, keeping its link state or not (R361, R365, R367, R368). -/
def State.startRetrain (s : State) (n : Nat) (resume : Bool) : State :=
  if n < 24 ∧ s.coreOn ∧ s.reg (E.utxonState n) = 2 then
    let s := s.setReg (E.utxonState n) 3
    let s := s.setLink n { s.link n with trained := false, resume, holding := true, replays := 0 }
    let s := s.dropExchange n
    if s.reg (E.utxonHoldTime n) = 0 then s.portDown n else s
  else s

/-! ### Link-up (R349, R350, R357, R368) -/

/-- The physical lanes of a direction that are not known to have failed, in order. -/
def goodLanes (bad : Nat) : List Nat := (List.range 9).filter fun i => !bitOf bad i

/-- A lane map: the first `w` good lanes carry the logical lanes, the others are unused (R350, R377). -/
def laneMap (w bad : Nat) : Nat :=
  (List.range 16).foldl (fun m i => m + (if i < w then (goodLanes bad).getD i 0xF else 0xF) * 16 ^ i) 0

/-- The receive lanes as LANE_STATE shows them for a map of `w` lanes (R378). -/
def laneStates (n w bad : Nat) : List (Nat × Nat) :=
  (List.range 9).map fun i =>
    (E.utxonLaneState n i,
      if bitOf bad i then 3 else if ((goodLanes bad).take w).contains i then 1 else 2)

/-- The body of the device's own LINK_INFO (R357). -/
def State.linkInfoWords (s : State) (n : Nat) : List Word :=
  let l := s.link n
  [packWord [(0, 1), (4, s.reg E.idBoardNumber % 128), (11, s.reg E.idBoardPos), (16, 1)],
   BitVec.ofNat 64 s.fuses.serial, packWord [(0, 4096), (16, 1024), (32, 4096)],
   packWord [(0, l.nextRx), (12, b2n l.resume)]]

/-- Send LINK_INFO. -/
def State.sendLinkInfo (s : State) (n : Nat) : State := (s.bump (E.utxonFramesTx n)).emit (.linkInfo n (s.linkInfoWords n))

/-- LINK_TRAINED: training has ended at a width of up to `width` lanes; LINK_INFO is sent (R350, R352, R357). -/
def State.opLinkTrained (s : State) (n width : Nat) : State :=
  let st := s.reg (E.utxonState n)
  if ¬ (n < 24 ∧ s.coreOn ∧ (st = 1 ∨ st = 3)) then s
  else
    let l := s.link n
    let l := if st = 1 then { l with rxBad := 0, txBad := 0, resume := false, nextRx := 0, nextTx := 0 } else l
    let least := min (goodLanes l.rxBad).length (goodLanes l.txBad).length
    let s := s.setLink n l
    if least < 4 then s.portDown n
    else
      let w := if width = 8 ∧ 8 ≤ least then 8 else 4
      let s := s.setLink n { l with trained := true, txMap := laneMap w l.txBad }
      ((s.setRegs ([(E.utxonWidth n, w), (E.utxonLaneMap n, laneMap w l.rxBad)] ++ laneStates n w l.rxBad))).sendLinkInfo n

/-- LINK_INFO_RESEND: LINK_INFO is repeated until the partner's has been received. -/
def State.opLinkInfoResend (s : State) (n : Nat) : State :=
  let st := s.reg (E.utxonState n)
  if n < 24 ∧ s.coreOn ∧ (st = 1 ∨ st = 3) ∧ (s.link n).trained then s.sendLinkInfo n else s

/-- Free the frames of the replay buffer that an ACK_SEQ covers (R364). -/
def Link.ackFrames (l : Link) (a : Nat) : Link :=
  let rest := l.replay.filter fun f => decide (2048 ≤ (a + 4096 - f.seq) % 4096)
  { l with replay := rest, replays := if rest.length < l.replay.length then 0 else l.replays }

/-- Send every unacknowledged frame again, oldest first (R364). -/
def State.resendAll (s : State) (n : Nat) : State := (s.link n).replay.foldl (fun s f => s.putFrame n f) s

/-- The books of a fresh link-up (R359, R362). -/
def freshBook (partner own : Nat) : VcBook := { partnerAdv := partner, sendHeld := partner, ownAdv := own }

/-- The port comes UP, and what waited for it goes on (R31, R62, R369). -/
def State.comeUp (s : State) (n : Nat) : State :=
  let s := s.setReg (E.utxonState n) 2
  let s := s.setLink n { s.link n with trained := false, holding := false, wasUp := true, asked := none }
  (((s.restTags n).pump n).retryRetrain).pumpRegionMsgs

/-- A partner that conflicts keeps the port out of service (R28). -/
def State.conflicts (s : State) (w0 : Nat) : Bool :=
  bits w0 3 0 == 1 && (bits w0 13 11 == s.reg E.idBoardPos || bits w0 10 4 != s.reg E.idBoardNumber)

/-- What a LINK_INFO tells about the partner (R32, R357). -/
def State.learnPartner (s : State) (n : Nat) (w0 ident : Nat) : State :=
  let fardan := bits w0 3 0 = 1
  let pos := bits w0 13 11
  let s := s.setRegs [(E.utxonPartnerType n, bits w0 3 0), (E.utxonPartnerIdentity n, ident),
    (E.utxonPartnerDevice n, if fardan then bits w0 10 4 * 8 + pos else 0xFFFF)]
  if fardan ∧ bits w0 10 4 = s.reg E.idBoardNumber then s.setReg E.idKnownPeers (s.reg E.idKnownPeers ||| 2 ^ pos) else s

/-- A bit of POS_CONFLICT. -/
def State.setConflict (s : State) (n : Nat) (on : Bool) : State :=
  let c := s.reg E.idPosConflict
  s.setReg E.idPosConflict (if on then c ||| 2 ^ n else if bitOf c n then c - 2 ^ n else c)

/-- A fresh link-up after LINK_INFO: both books start anew, and nothing held before goes on (R361, R362, R368). -/
def State.freshLink (s : State) (n : Nat) (w2 : Nat) : State :=
  let s := (s.expireHeld n)
  let l := s.link n
  let l : Link := { trained := true, wasUp := l.wasUp, rxBad := l.rxBad, txBad := l.txBad, txMap := l.txMap,
                    req := freshBook (bits w2 15 0) 4096, snp := freshBook (bits w2 31 16) 1024,
                    rsp := freshBook (bits w2 47 32) 4096 }
  s.setLink n l

/-- LINK_INFO: the partner's frame is received (R28, R357, R368). -/
def State.opLinkInfo (s : State) (n : Nat) (w0 w1 w2 w3 : Word) : State :=
  let st := s.reg (E.utxonState n)
  let l := s.link n
  if ¬ (n < 24 ∧ s.coreOn ∧ (st = 1 ∨ st = 3) ∧ l.trained) then s
  else
    let s := s.bump (E.utxonFramesRx n)
    if fld w0 23 16 ≠ 1 ∨ ¬ inRange (fld w0 3 0) 1 3 then s.setLink n { l with trained := false }
    else
      let same := s.reg (E.utxonPartnerIdentity n) = w1.toNat
      let changed := l.wasUp ∧ ¬ same
      let resumes := st = 3 ∧ l.resume ∧ flag w3 12 ∧ same ∧ ¬ s.conflicts w0.toNat
      let s := s.learnPartner n w0.toNat w1.toNat
      let s := if changed then s.setRegs [(E.dirUtxonAgent n, 0xFF), (E.utxonIdentChanged n, 1)] else s
      if s.conflicts w0.toNat then (s.leaveService n 5).setConflict n true
      else
        let s := s.setConflict n false
        if resumes then
          let s := s.setLink n (l.ackFrames ((fld w3 11 0 + 4095) % 4096))
          ((s.resendAll n).bump (E.utxonRetrains n)).comeUp n
        else ((if st = 3 then s.portDown n else s).freshLink n w2.toNat).comeUp n

/-- TRAINING_RETRY: training is tried again from DOWN and from CONFLICT (R366). -/
def State.opTrainingRetry (s : State) (n : Nat) : State :=
  if n < 24 ∧ s.coreOn ∧ (s.reg (E.utxonState n) = 4 ∨ s.reg (E.utxonState n) = 5) then s.setReg (E.utxonState n) 1 else s

/-- A write to ENABLE of a Utxon port (R366, R482). -/
def State.writeUtxonEnable (s : State) (n v : Nat) : State :=
  s.writeWhen (decide (v ≤ 1) && s.coreOn) fun s =>
    let st := s.reg (E.utxonState n)
    let s := s.setReg (E.utxonEnable n) v
    if v = 1 ∧ st = 0 then s.setReg (E.utxonState n) 1
    else if v = 0 ∧ st ≠ 0 ∧ st ≠ 6 then s.leaveService n 0
    else s

/-! ### Frames (R353 to R356, R359 to R365) -/

/-- ACK_SEQ and CRED_TOTAL of a good frame (R359, R364). -/
def State.noteHeader (s : State) (n : Nat) (h : FrameHdr) : State :=
  let l := s.link n
  let l := if h.ackValid then l.ackFrames h.ackSeq else l
  let b := l.book h.credVc
  let gain := (h.credTotal % 65536 + 65536 - b.returned % 65536) % 65536
  let l := if h.credVc = 3 then l
    else l.setBook h.credVc { b with sendHeld := b.sendHeld + gain, returned := (b.returned + gain) % 2 ^ 32 }
  (((s.setLink n l).pump n).dropEnded n).retryRetrain

/-- Send a REPLAY_REQ, one per value of NEXT_RX per REPLAY_TIMER (R363). -/
def State.askReplay (s : State) (n : Nat) : State :=
  let l := s.link n
  let again := match l.asked with
    | some (v, t) => v != l.nextRx || decide (t + s.reg (E.utxonReplayTimer n) * 8 / 5 ≤ s.cclk)
    | none => true
  if again then (s.setLink n { l with asked := some (l.nextRx, s.cclk) }).putControl n 4 0 else s

/-- Send an ACK frame. -/
def State.sendAck (s : State) (n : Nat) : State := s.putControl n 3 0

/-- A good sequenced frame: whether it is accepted (R363). -/
def State.takeFrame (s : State) (n : Nat) (h : FrameHdr) : State × Bool :=
  let s := s.noteHeader n h
  let l := s.link n
  let d := (h.seq + 4096 - l.nextRx) % 4096
  if d = 0 then
    ((s.setLink n { l with nextRx := (l.nextRx + 1) % 4096, unacked := l.unacked + 1 }).bump (E.utxonFramesRx n), true)
  else if d < 2048 then (s.askReplay n, false)
  else ((s.bump (E.utxonDuplicates n)).sendAck n, false)

/-- After 32 accepted frames that nothing sent acknowledges, an ACK leaves at once (R364). -/
def State.ackMany (s : State) (n : Nat) : State := if 32 ≤ (s.link n).unacked then s.sendAck n else s

/-- ACK_DELAY_EXPIRY: accepted frames, or counts of freed credits, that no frame has reported are reported (R359,
R364). -/
def State.opAckDelay (s : State) (n : Nat) : State :=
  let l := s.link n
  if s.coreOn ∧ s.portUp (.utxon n) ∧ (0 < l.unacked ∨ l.req.freed ≠ l.req.reported ∨ l.snp.freed ≠ l.snp.reported ∨
      l.rsp.freed ≠ l.rsp.reported) then s.sendAck n
  else s

/-- ACK_FRAME (R364). -/
def State.opAckFrame (s : State) (n : Nat) (h : FrameHdr) : State :=
  if s.coreOn ∧ s.portUp (.utxon n) then (s.bump (E.utxonFramesRx n)).noteHeader n h else s

/-- A replay (R364, R365): every unacknowledged frame is sent again, and the fourth in a row without progress starts a
retrain. -/
def State.replay (s : State) (n : Nat) : State :=
  let l := s.link n
  if l.replay = [] then s
  else
    let s := ((s.setLink n { l with replays := l.replays + 1 }).resendAll n).bump (E.utxonReplays n)
    if 4 ≤ l.replays + 1 then s.startRetrain n true else s

/-- REPLAY_REQ (R364). -/
def State.opReplayReq (s : State) (n : Nat) (h : FrameHdr) : State :=
  if s.coreOn ∧ s.portUp (.utxon n) then ((s.bump (E.utxonFramesRx n)).noteHeader n h).replay n else s

/-- REPLAY_TIMEOUT (R364). -/
def State.opReplayTimeout (s : State) (n : Nat) : State := if s.coreOn ∧ s.portUp (.utxon n) then s.replay n else s

/-- BAD_FRAME (R353, R355, R363): discarded and counted, with a replay asked for. -/
def State.opBadFrame (s : State) (n : Nat) (_ : BadFrame) : State :=
  if s.coreOn ∧ s.portUp (.utxon n) then (s.bump (E.utxonCrcErrors n)).askReplay n else s

/-! ### Received messages: credits (R359 to R361) -/

/-- The receiver's credit book of a VC holds a message's credits (R361). -/
def Link.creditsFor (l : Link) (vc c : Nat) : Bool :=
  let b := l.book vc
  decide (b.rxHeld + (b.freed + 2 ^ 32 - b.reported) % 2 ^ 32 + c ≤ b.ownAdv)

/-- A message for which its VC holds too few credits is discarded; more than 16 within 1 ms start a retrain without
resume (R361). -/
def State.creditOverrun (s : State) (n : Nat) : State :=
  let l := s.link n
  let o := (l.overruns.filter fun t => decide (s.cclk < t + 1600000)) ++ [s.cclk]
  let s := (s.setLink n { l with overruns := o }).bump (E.utxonCreditOverruns n)
  if 16 < o.length then s.startRetrain n false else s

/-- A message enters the receive buffer: a request stays there under an arrival number, any other message leaves at once
(R359, R360). -/
def State.holdMsg (s : State) (n vc c age : Nat) : State :=
  let l := s.link n
  let b := l.book vc
  let l := if vc = 0 then
      l.setBook 0 { b with accepted := (b.accepted + c) % 2 ^ 32, rxHeld := b.rxHeld + c }
    else l.setBook vc { b with accepted := (b.accepted + c) % 2 ^ 32, freed := (b.freed + c) % 2 ^ 32 }
  s.setLink n (if vc = 0 then { l with held := l.held ++ [(age, c)] } else l)

/-! ### Lanes (R351, R352) -/

/-- Nibble `i` of a lane map. -/
def mapLane (m i : Nat) : Nat := bits m (4 * i + 3) (4 * i)

/-- A lane map with another physical lane for logical lane `i`. -/
def setMapLane (m i v : Nat) : Nat := m - mapLane m i * 16 ^ i + v * 16 ^ i

/-- The lowest good lane that a map does not use. -/
def spareLane (m w bad : Nat) : Option Nat :=
  (goodLanes bad).find? fun i => !((List.range w).any fun k => mapLane m k == i)

/-- The LANE body (R355). -/
def laneBody (logical reply cw w : Nat) : Nat := logical + reply * 8 + cw % 4096 * 16 + (if w = 4 then 65536 else 0)

/-- A lane that has failed and finds no spare: the port retrains at x4, or goes DOWN with fewer than four good lanes
(R352). -/
def State.secondFailure (s : State) (n : Nat) : State :=
  let l := s.link n
  if (goodLanes l.rxBad).length < 4 ∨ (goodLanes l.txBad).length < 4 then s.portDown n else s.startRetrain n true

/-- LANE_FAILURE: the receiver declares the physical lane of a logical lane failed (R351, R352). -/
def State.opLaneFailure (s : State) (n logical : Nat) : State :=
  let w := s.reg (E.utxonWidth n)
  let l := s.link n
  let m := s.reg (E.utxonLaneMap n)
  if ¬ (s.coreOn ∧ s.portUp (.utxon n) ∧ logical < w) ∨ bitOf l.rxBad (mapLane m logical) then s
  else
    let phys := mapLane m logical
    let s := (s.setLink n { l with rxBad := l.rxBad ||| 2 ^ phys }).setReg (E.utxonLaneState n phys) 3
    match spareLane m w (l.rxBad ||| 2 ^ phys) with
    | some _ => s.putControl n 7 (laneBody logical 0 0 w)
    | none => s.secondFailure n

/-- A takeover of a lane in one direction is counted and logged. -/
def State.noteSwap (s : State) (n logical : Nat) : State :=
  (s.bump (E.utxonLaneSwaps n)).logEvent 0x000E 0 0xFFF (unitWord .utxon n) logical

/-- LANE: the partner names a lane that fails in the transmit direction, or replies with the codeword of the switch-over
(R351). -/
def State.opLane (s : State) (n : Nat) (h : FrameHdr) (logical : Nat) (reply : Bool) (_ : Nat) : State :=
  let w := s.reg (E.utxonWidth n)
  if ¬ (s.coreOn ∧ s.portUp (.utxon n)) then s
  else
    let s := (s.bump (E.utxonFramesRx n)).noteHeader n h
    let l := s.link n
    if w ≤ logical then s
    else if reply then
      let m := s.reg (E.utxonLaneMap n)
      match spareLane m w l.rxBad with
      | some v =>
        if bitOf l.rxBad (mapLane m logical) then
          ((s.setReg (E.utxonLaneMap n) (setMapLane m logical v)).setReg (E.utxonLaneState n v) 1).noteSwap n logical
        else s
      | none => s
    else
      let bad := l.txBad ||| 2 ^ mapLane l.txMap logical
      match spareLane l.txMap w bad with
      | some v =>
        let (f, s) := s.drawFree
        let s := s.setLink n { l with txBad := bad, txMap := setMapLane l.txMap logical v }
        (s.putControl n 7 (laneBody logical 1 (Config.freeBits 12 f) w)).noteSwap n logical
      | none => (s.setLink n { l with txBad := bad }).secondFailure n

end Sys2Proof.Machine
end

