-- ==== Sys2Proof/Machine/HostPort.lean ====
section
/-! DEFINITION. Host ports: link state, enabling, HDM decoders and the IDE stream (R372 to R375, R380). -/

namespace Sys2Proof.Machine

/-- A host port. -/
def State.host (s : State) (n : Nat) : HostPort := SMap.get (fun _ => {}) s.port.hosts n

/-- Set a host port. -/
def State.setHost (s : State) (n : Nat) (h : HostPort) : State :=
  { s with port := { s.port with hosts := SMap.set (fun _ => {}) s.port.hosts n h } }

/-- The link of a host port goes down, and STATE reads `st` (R374): the device's CXL.io requests complete LINK_LOST,
and BIConflicts that waited for responses have nobody to go to. -/
def State.hostDown (s : State) (n st : Nat) : State :=
  let s := (s.setRegs [(E.hostState n, st), (E.hostWidth n, 0)]).bump (E.hostLinkDowns n)
  let s := s.setHost n { s.host n with conflicts := [] }
  s.loseIo n

/-- HOST_LINK_UP: PCIe training has ended at 64.0 GT/s in flit mode (R372). -/
def State.opHostLinkUp (s : State) (n width : Nat) : State :=
  let st := s.reg (E.hostState n)
  if n < 4 ∧ s.coreOn ∧ s.reg (E.hostEnable n) = 1 ∧ (st = 1 ∨ st = 3) ∧ (width = 4 ∨ width = 8 ∨ width = 16) then
    s.setRegs [(E.hostState n, 2), (E.hostWidth n, width)]
  else s

/-- HOST_LINK_DOWN (R374). -/
def State.opHostLinkDown (s : State) (n : Nat) : State :=
  if n < 4 ∧ s.coreOn ∧ s.reg (E.hostState n) = 2 then s.hostDown n 3 else s

/-- A write of ENABLE of a host port (R380, R482). -/
def State.writeHostEnable (s : State) (n v : Nat) : State :=
  s.writeWhen (decide (v ≤ 1) && s.coreOn) fun s =>
    let st := s.reg (E.hostState n)
    let s := s.setReg (E.hostEnable n) v
    if v = 1 then (if st = 0 then s.setReg (E.hostState n) 1 else s)
    else if st = 2 then s.hostDown n 0
    else if st = 4 then s
    else s.setReg (E.hostState n) 0

/-- The decoder that a block of 16 bytes describes (R380); reserved bits are ignored (R8). -/
def decoderOf (b : List Byte) : Decoder :=
  let w := leNat ((b.drop 8).take 8)
  { base := bits (leNat (b.take 8)) 51 0, pitch := bits w 11 0, cls := bits w 16 12, prio := bits w 18 17,
    valid := bitOf w 19 }

/-- The block that a decoder reads as. -/
def Decoder.block (d : Decoder) : List Byte :=
  bytesOfWords [BitVec.ofNat 64 d.base, packWord [(0, d.pitch), (12, d.cls), (17, d.prio), (19, b2n d.valid)]]

/-- A decoder of a host port. -/
def State.decoderAt (s : State) (n d : Nat) : Decoder := SMap.get (fun _ => {}) s.port.decoders (8 * n + d)

/-- A write of a decoder, which takes effect at once (R373); a base not aligned to 256 MiB is ignored (R443). -/
def State.writeDecoder (s : State) (n d : Nat) (b : List Byte) : State :=
  s.writeWhen (b.length == 16 && (decoderOf b).base % 2 ^ 28 == 0) fun s =>
    { s with port := { s.port with decoders := SMap.set (fun _ => {}) s.port.decoders (8 * n + d) (decoderOf b) } }

/-- IDE_KEY_SET: keys are set or refreshed, and the stream is secure (R375). -/
def State.opIdeKeySet (s : State) (n set : Nat) : State :=
  if n < 4 ∧ s.coreOn ∧ s.reg (E.hostState n) = 2 ∧ set < 2 then
    let h := s.host n
    (s.setHost n { h with keySet := set, keys := h.keys ||| 2 ^ set }).setReg (E.hostIdeState n) 1
  else s

/-- IDE_INTEGRITY_FAILURE: the keys no longer serve, and the port takes its link down (R375). -/
def State.opIdeFailure (s : State) (n : Nat) : State :=
  if n < 4 ∧ s.coreOn ∧ s.reg (E.hostState n) = 2 ∧ s.reg (E.hostIdeState n) = 1 then
    let s := (s.setReg (E.hostIdeState n) 2).bump (E.hostIdeFailures n)
    let s := s.setHost n { s.host n with keys := 0 }
    (s.hostDown n 3).logEvent 0x000F 1 0xFFF (unitWord .host n) n
  else s

end Sys2Proof.Machine
end

