-- ==== Sys2Proof/Machine/Views.lean ====
section
/-! DEFINITION. The Bracken commands: creating, refreshing, measuring and reading factored views, gradient
compression, and the packing of activations (R267 to R293). -/

namespace Sys2Proof.Machine

/-! ### What engine commands share -/

/-- A descriptor is run now by an engine of kind `k` for an opcode: it has started, the core is on, its instance serves,
and no stop holds engine work (R250, R479, R530).  The second part is the instance. -/
def State.engineCmd (s : State) (id : DescId) (op : Nat) (k : UnitKind) : Option (Desc × Nat) :=
  match s.regionCmd id op with
  | some d =>
    match d.unit with
    | some (.engine k' e) =>
      if k' = k ∧ s.reg (kindState k e) = 1 ∧ s.coreOn ∧ ¬ s.stopped then some (d, e) else none
    | _ => none
  | none => none

/-- A descriptor ends with a status and a result. -/
def State.endCmd (s : State) (d : Desc) (status : Nat) (result : Nat := 0) (detail : Nat := 0) : State :=
  s.decideDesc d { status, detail, result }

/-- The elements of `n` bytes each of a byte string. -/
def elemsOf (n : Nat) (bs : List Byte) : List Nat :=
  (List.range (bs.length / n)).map fun i => leNat ((bs.drop (n * i)).take n)

/-- The rows of `n` entries each of a list. -/
def matRows {α : Type} (m n : Nat) (xs : List α) : List (List α) := (List.range m).map fun i => (xs.drop (n * i)).take n

/-- The columns of a list of rows, `n` of them. -/
def columnsOf (n : Nat) (rows : List (List Nat)) : List (List Nat) :=
  (List.range n).map fun j => rows.map fun r => r.getD j 0

/-! ### Stream checks (R267, R273) -/

/-- The first check of a header that fails, in R273's numbering; `kind` 1 is a U stream, 2 a V stream. -/
def headerFault (bs : List Byte) (kind ffmt rank dim : Nat) : Option Nat :=
  let ws := wordsOfBytes bs
  let w := fun i => (ws.getD i 0).toNat
  if bits (w 0) 31 0 ≠ 0x46565731 then some 1
  else if bits (w 0) 39 32 ≠ kind then some 2
  else if bits (w 0) 47 40 ≠ ffmt then some 3
  else if bits (w 1) 12 0 ≠ dim then some 4
  else if bits (w 1) 24 16 ≠ rank then some 5
  else if bits (w 2) 31 0 ≠ dim * vecBytes ffmt rank then some 6
  else if bits (w 3) 15 0 ≠ segmentsOf ffmt rank dim then some 7
  else if bits (w 4) 31 0 ≠ crc32c (bs.take 32) then some 8
  else if bits (w 0) 63 48 ≠ 0 ∨ bits (w 1) 15 13 ≠ 0 ∨ bits (w 1) 63 25 ≠ 0 ∨ bits (w 2) 63 32 ≠ 0 ∨
      bits (w 3) 63 16 ≠ 0 ∨ bits (w 4) 63 32 ≠ 0 ∨ w 5 ≠ 0 ∨ w 6 ≠ 0 ∨ w 7 ≠ 0 then some 9
  else none

/-- A header of a factor stream (R267). -/
def headerBytes (kind ffmt rank dim : Nat) : List Byte :=
  let ws := [packWord [(0, 0x46565731), (32, kind), (40, ffmt)], packWord [(0, dim), (16, rank)],
             packWord [(0, dim * vecBytes ffmt rank)], packWord [(0, segmentsOf ffmt rank dim)]]
  let b := bytesOfWords ws
  b ++ leBytes 4 (crc32c b) ++ List.replicate 28 0

/-- A whole stream from its vectors' bytes (R268). -/
def streamOf (kind ffmt rank dim : Nat) (vecs : List Byte) : List Byte :=
  let segs := segmentsOf ffmt rank dim
  let payload := vecs ++ List.replicate (4096 * segs - vecs.length) 0
  headerBytes kind ffmt rank dim ++ payload ++
    (List.range segs).flatMap fun g => leBytes 4 (crc32c ((payload.drop (4096 * g)).take 4096))

/-- The first segment of a stream whose CRC differs from its table entry, with the number of such segments. -/
def badSegments (ffmt rank dim : Nat) (bs : List Byte) : List Nat :=
  let segs := segmentsOf ffmt rank dim
  (List.range segs).filter fun g =>
    leNat ((bs.drop (64 + 4096 * segs + 4 * g)).take 4) != crc32c ((bs.drop (64 + 4096 * g)).take 4096)

/-- The checks of R273 on the two streams of a view, read for pitch `p` by Bracken `e`: the failure where there is one. -/
def State.checkStreams (s : State) (env : Env) (p e : Nat) (v : View) (c : EngCharge) : State × Option DescOut :=
  let (s, st, hu) := s.readPool env p v.uBase 64 c
  let (s, st', hv) := s.readPool env p v.vBase 64 c
  let poison : DescOut := { status := 0x43 }
  if st ≠ .ok then (s, some poison)
  else match headerFault hu 1 v.ffmt v.rank v.m with
    | some k => (s, some { status := 0x42, detail := k })
    | none =>
      if st' ≠ .ok then (s, some poison)
      else match headerFault hv 2 v.ffmt v.rank v.n with
        | some k => (s, some { status := 0x42, detail := k })
        | none =>
          let lu := streamBytes v.ffmt v.rank v.m
          let lv := streamBytes v.ffmt v.rank v.n
          let (s, st, bu) := s.readPool env p v.uBase lu c
          let (s, st', bv) := s.readPool env p v.vBase lv c
          let s := s.bumpBy (E.brackenFactorLines e) (cdiv lu 64 + cdiv lv 64 - 2)
          if st ≠ .ok ∨ st' ≠ .ok then (s, some poison)
          else
            let fu := badSegments v.ffmt v.rank v.m bu
            let fv := badSegments v.ffmt v.rank v.n bv
            let s := s.bumpBy (E.brackenCrcFails e) (fu.length + fv.length)
            match fu, fv with
            | g :: _, _ => (s, some { status := 0x44, result := g })
            | [], g :: _ => (s, some { status := 0x44, detail := 1, result := g })
            | [], [] => (s, none)

/-! ### VIEW_CREATE (R270 to R273) -/

/-- Views bound to a Bracken (R271). -/
def State.viewsBound (s : State) (b : Nat) : Nat := (s.eng.views.filter fun e => e.2.bracken == b).length

/-- The serving Bracken with the fewest bound views, the lowest number winning a tie (R271, R282). -/
def State.chooseBracken (s : State) : Option Nat :=
  argMin s.viewsBound ((List.range 32).filter fun e => s.reg (E.brackenState e) == 1 && !s.fencing .bracken e)

/-- VIEW_CREATE (R271). -/
def State.opViewCreate (s : State) (id : DescId) (env : Env) : State :=
  match s.engineCmd id 0x20 .bracken with
  | none => s
  | some (d, e) =>
    let p := id.pitch
    let ffmt := d.fld 6 47 44
    let rank := d.fld 6 40 32
    let m := d.fld 6 12 0
    let n := d.fld 6 28 16
    if ¬ d.viewCreateOk then s.failCreate d p 0x03 0
    else
      let lu := streamBytes ffmt rank m
      let lv := streamBytes ffmt rank n
      match s.oneExtent d.record (d.fld 4 56 0) lu, s.oneExtent d.record (d.fld 5 56 0) lv with
      | some u, some w =>
        if ¬ (s.rangeRights p u lu false ∧ s.rangeRights p w lv false) then s.failCreate d p 0x40 0
        else if s.rangeProtected u lu ∨ s.rangeProtected w lv then s.failCreate d p 0x41 0
        else
          let v : View := { m, n, rank, ffmt, tfmt := d.fld 6 51 48, sat := bitOf (d.word 6) 52, uBase := u, vBase := w,
                            used := true }
          match s.checkStreams env p e v d.charge with
          | (s, some o) => (s.setReg (E.pitchLastShortfall p) o.result).decideDesc d o
          | (s, none) =>
            match s.freeDescriptor, s.chooseBracken with
            | some i, some b =>
              let pages := cdiv (m * v.rowPitch) 65536
              if s.reg E.viewsViewLimit ≤ s.viewCount then s.failCreate d p 0x10 0
              else match s.quotaExcess p 1 0 0 with
                | some x => s.failCreate d p 0x11 x
                | none =>
                  let runs := s.freeRuns .view
                  match fitRun pages runs with
                  | none => s.failCreate d p 0x12 ((pages - (largestRun runs).2) * 65536)
                  | some base =>
                    let r : Region := { basePage := base, pages, owner := p, rights := 1, factored := true, state := .live }
                    ((s.setRegion i r).setView i { v with bracken := b }).endCmd d 0 (regionResult i base)
            | _, _ => s.failCreate d p 0x10 0
      | _, _ => s.failCreate d p 0x40 0

/-! ### VIEW_REFRESH (R280) -/

/-- Drop the segments that a Bracken buffers for a view. -/
def State.dropSegments (s : State) (i : Nat) : State :=
  { s with eng := { s.eng with segs := s.eng.segs.filter fun g => g.view != i } }

/-- VIEW_REFRESH. -/
def State.opViewRefresh (s : State) (id : DescId) (env : Env) : State :=
  match s.engineCmd id 0x21 .bracken with
  | none => s
  | some (d, e) =>
    match s.viewOf id.pitch (d.fld 8 15 0) with
    | none => s.endCmd d 0x45
    | some i =>
      let s := s.dropSegments i
      let v := s.viewAt i
      let r := s.regionAt i
      match s.checkStreams env r.owner e v d.charge with
      | (s, some o) => (s.setRegion i { r with state := .damaged }).decideDesc d o
      | (s, none) =>
        let s := s.setView i { v with cause := 0, stream := 0, segment := 0 }
        let s := s.setRegion i { r with state := if r.state = .damaged then .live else r.state }
        s.endCmd d 0 (regionResult i r.basePage)

/-! ### VIEW_MEASURE (R283) -/

/-- What a measurement has summed so far. -/
structure Residual where
  maxAbs : Nat := 0
  row : Nat := 0
  col : Nat := 0
  err : Nat := 0
  orig : Nat := 0
  nonfinite : Nat := 0

/-- Add the square of an FP64 value to a sum, each rounded once. -/
def addSquare (acc x : Nat) : Nat := (fp64.add .rne acc (fp64.mul .rne x x).1).1

/-- One element at row `i` and column `j`: `x` of the view and `w` of the original (R283). -/
def Residual.add (a : Residual) (i j : Nat) (x w : Fv) : Residual :=
  if (!x.finite || !w.finite) && !x.eq w then { a with nonfinite := a.nonfinite + 1 }
  else
    let diff := (fp64.encode .rne (x.add .rne w.neg)).1
    let wide := (fp64.encode .rne w).1
    let mag := diff % fp64.signBit
    let a := if (fp64.decode a.maxAbs).lt (fp64.decode mag) then { a with maxAbs := mag, row := i, col := j } else a
    { a with err := addSquare a.err diff, orig := addSquare a.orig wide }

/-- The elements that a read of row `i` of a view returns: none when a line is poisoned. -/
def State.viewRow (s : State) (env : Env) (i row : Nat) (c : EngCharge) : State × Option (List Nat) :=
  let v := s.viewAt i
  let r := (List.range (v.rowPitch / 64)).foldl (fun (acc : State × Option (List Byte)) k =>
    match acc with
    | (s, some bs) =>
      match s.viewLine env i (row * v.rowPitch + 64 * k) c with
      | (s, some d) => (s, some (bs ++ lineBytes d))
      | (s, none) => (s, none)
    | _ => acc) (s, some [])
  (r.1, r.2.map fun bs => (elemsOf (targetBytes v.tfmt) bs).take v.n)

/-- Measure the rows of a view against an original. -/
def State.measureRows (s : State) (env : Env) (d : Desc) (i : Nat) : State × Except EngStat Residual :=
  let v := s.viewAt i
  let fmt := d.fld 6 3 0
  let w := elemBits fmt / 8
  (List.range v.m).foldl (fun (acc : State × Except EngStat Residual) row =>
    match acc with
    | (s, .ok a) =>
      match s.readVirt env d.id.pitch d.record (d.fld 4 56 0 + row * d.fld 6 31 16) (v.n * w) d.charge with
      | (s, .ok, bs) =>
        match s.viewRow env i row d.charge with
        | (s, some xs) =>
          let ws := elemsOf w bs
          (s, .ok ((List.range v.n).foldl (fun a j =>
            a.add row j (elemValue v.tfmt (xs.getD j 0)) (elemValue fmt (ws.getD j 0))) a))
        | (s, none) => (s, .error .poison)
      | (s, st, _) => (s, .error st)
    | _ => acc) (s, .ok {})

/-- An FP64 result; the encoding of a NaN is left open (R283). -/
def openNan (draw x : Nat) : Nat := if fp64.decode x = .nan then Config.freeBits 64 draw % 2 ^ 64 else x

/-- VIEW_MEASURE. -/
def State.opViewMeasure (s : State) (id : DescId) (env : Env) : State :=
  match s.engineCmd id 0x22 .bracken with
  | none => s
  | some (d, _) =>
    match s.viewOf id.pitch (d.fld 8 15 0) with
    | none => s.endCmd d 0x45
    | some i =>
      if ¬ d.viewMeasureOk (s.viewAt i).n then s.endCmd d 0x03
      else if d.operands = [] then s.endCmd d 0x45
      else if (s.regionAt i).state = .damaged then s.endCmd d 0x46
      else match s.measureRows env d i with
        | (s, .error st) =>
          if (s.regionAt i).state = .damaged then s.endCmd d 0x46 else s.endCmd d (statOut st)
        | (s, .ok a) =>
          let (f, s) := s.drawFree
          let l := lineOfWords [BitVec.ofNat 64 a.maxAbs, packWord [(0, a.row), (16, a.col)],
            BitVec.ofNat 64 (openNan f a.err), BitVec.ofNat 64 a.orig, packWord [(0, a.nonfinite % 2 ^ 32)]]
          let (s, st) := s.writeVirt env id.pitch d.record (d.fld 5 56 0) (lineBytes l) d.charge
          s.endCmd d (statOut st)

/-! ### GRAD_COMPRESS (R285 to R287) -/

/-- A finite FP32 value. -/
def fin32 (x : Nat) : Option Nat := if (fp32.decode x).finite then some x else none

/-- One FP32 addition of an exact product; none when the sum is not finite. -/
def dotStep (acc : Option Nat) (a b : Nat) : Option Nat :=
  acc.bind fun c => fin32 (accumulate c ((fp32.decode a).mul (fp32.decode b)))

/-- The sum of products in index order. -/
def dot32 (a b : List Nat) : Option Nat := (a.zip b).foldl (fun acc x => dotStep acc x.1 x.2) (some 0)

/-- a − b, rounded once. -/
def sub32 (a b : Nat) : Option Nat := fin32 (fp32.encode .rne ((fp32.decode a).add .rne (fp32.decode b).neg)).1

/-- One element of a Gram-Schmidt step: x − round(t · y). -/
def gramElem (t x y : Nat) : Option Nat := (fin32 (fmul32 t y)).bind fun z => sub32 x z

/-- Remove from column `c` its part along `d`. -/
def gramStep (c d : List Nat) : Option (List Nat) :=
  (dot32 c d).bind fun t => (c.zip d).mapM fun x => gramElem t x.1 x.2

/-- Normalise a column: the column and whether it was zeroed. -/
def gramScale (c : List Nat) : Option (List Nat × Bool) :=
  (dot32 c c).bind fun q =>
    let r := (fp32.sqrt .rne q).1
    if (fp32.decode r).isZero then some (c.map fun _ => 0, true)
    else (c.mapM fun x => fin32 (fp32.div .rne x r).1).map fun c => (c, false)

/-- Gram-Schmidt over columns in order: the columns and how many were zeroed. -/
def gramSchmidt (cols : List (List Nat)) : Option (List (List Nat) × Nat) :=
  cols.foldl (fun acc c => acc.bind fun a =>
    ((a.1.foldl (fun (x : Option (List Nat)) d => x.bind fun c => gramStep c d) (some c)).bind gramScale).map fun z =>
      (a.1 ++ [z.1], a.2 + b2n z.2)) (some ([], 0))

/-- A value rounded to BF16. -/
def toBf16 (x : Nat) : Option Nat :=
  let y := convertOut 8 false x
  if (bf16.decode y).finite then some y else none

/-- The bytes of the vectors of a stream in format 8, from its columns. -/
def bf16Vectors (dim : Nat) (cols : List (List Nat)) : Option (List Byte) :=
  (((List.range dim).flatMap fun i => cols.map fun c => c.getD i 0).mapM toBf16).map fun ys => ys.flatMap (leBytes 2)

/-- What GRAD_COMPRESS computes: the two streams, E and QS row-major, and the number of columns zeroed. -/
structure Compressed where
  u : List Byte
  v : List Byte
  e : List Nat
  qs : List Nat
  zeroed : Nat

/-- M = round(G + E), row-major. -/
def gradSum (g e : List Nat) : Option (List Nat) := (g.zip e).mapM fun x => fin32 (fadd32 x.1 x.2)

/-- The first part of R286: the orthonormal columns P from M and QS, and the number zeroed. -/
def gradP (n r : Nat) (rows : List (List Nat)) (qs : List Nat) : Option (List (List Nat) × Nat) :=
  let qcols := columnsOf r (matRows n r qs)
  (qcols.mapM fun q => rows.mapM fun row => dot32 row q).bind gramSchmidt

/-- Q = M transposed times P, by columns. -/
def gradQ (n : Nat) (rows : List (List Nat)) (p : List (List Nat)) : Option (List (List Nat)) :=
  let mcols := columnsOf n rows
  p.mapM fun c => mcols.mapM fun col => dot32 col c

/-- The expansion of two BF16 streams' vectors, row-major, in FP32 (R275). -/
def expandAll (m n r : Nat) (u v : List Byte) : List Nat :=
  (List.range m).flatMap fun i => (List.range n).map fun j =>
    expandElem 8 r 10 false ((u.drop (2 * r * i)).take (2 * r)) ((v.drop (2 * r * j)).take (2 * r))

/-- GRAD_COMPRESS's arithmetic (R286); none when any value is not finite (R287). -/
def gradCompress (m n r : Nat) (g e qs : List Nat) : Option Compressed :=
  (gradSum g e).bind fun mm =>
    let rows := matRows m n mm
    (gradP n r rows qs).bind fun (p, zeroed) =>
      (gradQ n rows p).bind fun q =>
        (bf16Vectors m p).bind fun u =>
          (bf16Vectors n q).bind fun v =>
            ((mm.zip (expandAll m n r u v)).mapM fun x => (fin32 x.2).bind fun a => sub32 x.1 a).map fun e =>
              { u := streamOf 1 8 r m u, v := streamOf 2 8 r n v, e,
                qs := (List.range n).flatMap fun j => q.map fun c => c.getD j 0, zeroed }

/-- Write several virtual ranges in order; the first that does not end well gives the status. -/
def State.writeRanges (s : State) (env : Env) (d : Desc) (ws : List (Nat × List Byte)) : State × EngStat :=
  ws.foldl (fun (acc : State × EngStat) w =>
    match acc with
    | (s, .linkLost) => (s, .linkLost)
    | (s, .timedOut) => (s, .timedOut)
    | (s, st) =>
      let r := s.writeVirt env d.id.pitch d.record w.1 w.2 d.charge
      (r.1, if st = .ok then r.2 else if r.2 = .poison ∨ r.2 = .ok then st else r.2)) (s, .ok)

/-- Read several virtual ranges in order, up to one that does not end well. -/
def State.readRanges (s : State) (env : Env) (d : Desc) (rs : List (Nat × Nat)) : State × EngStat × List (List Byte) :=
  rs.foldl (fun (acc : State × EngStat × List (List Byte)) w =>
    match acc with
    | (s, .ok, bs) =>
      let r := s.readVirt env d.id.pitch d.record w.1 w.2 d.charge
      (r.1, r.2.1, bs ++ [r.2.2])
    | _ => acc) (s, .ok, [])

/-- GRAD_COMPRESS. -/
def State.opGradCompress (s : State) (id : DescId) (env : Env) : State :=
  match s.engineCmd id 0x24 .bracken with
  | none => s
  | some (d, _) =>
    let m := d.fld 9 12 0
    let n := d.fld 9 28 16
    let r := d.fld 9 40 32
    let va := fun i => d.fld i 56 0
    if ¬ d.gradOk then s.endCmd d 0x03
    else if s.virtProtected d.record (va 7) (streamBytes 8 r m) ∨ s.virtProtected d.record (va 8) (streamBytes 8 r n) then
      s.endCmd d 0x41
    else match s.readRanges env d [(va 4, 4 * m * n), (va 5, 4 * m * n), (va 6, 4 * n * r)] with
      | (s, .ok, [g, e, q]) =>
        match gradCompress m n r (elemsOf 4 g) (elemsOf 4 e) (elemsOf 4 q) with
        | none => s.endCmd d 0x47
        | some z =>
          let (s, st) := s.writeRanges env d [(va 7, z.u), (va 8, z.v), (va 5, z.e.flatMap (leBytes 4)),
            (va 6, z.qs.flatMap (leBytes 4))]
          s.endCmd d (statOut st) z.zeroed
      | (s, st, _) => s.endCmd d (statOut st)

/-! ### ACT_PACK and ACT_UNPACK (R289 to R291) -/

/-- The packed blocks of an array of values: scale and element codes (R290). -/
def packBlocks (dfmt : Nat) (vs : List Fv) : List (Nat × List Nat) :=
  (List.range (cdiv vs.length 32)).map fun b =>
    let blk := (vs.drop (32 * b)).take 32
    packBlock dfmt (blk ++ List.replicate (32 - blk.length) (.fin false 0 0))

/-- ACT_PACK. -/
def State.opActPack (s : State) (id : DescId) (env : Env) : State :=
  match s.engineCmd id 0x26 .bracken with
  | none => s
  | some (d, _) =>
    let count := d.fld 6 39 0
    let sf := d.fld 7 3 0
    let df := d.fld 7 7 4
    let w := elemBits sf / 8
    let dst := d.fld 5 56 0
    if ¬ d.packOk then s.endCmd d 0x03
    else if s.virtProtected d.record dst (packedBytes df count) then s.endCmd d 0x41
    else match s.readVirt env id.pitch d.record (d.fld 4 56 0) (w * count) d.charge with
      | (s, .ok, bs) =>
        let vs := (elemsOf w bs).map (elemValue sf)
        let blocks := packBlocks df vs
        let bad := (blocks.filter fun b => b.1 == 0xFF).length
        let (s, st) := s.writeRanges env d
          [(dst, packElems (elemBits df) (blocks.flatMap fun b => b.2)),
           (dst + packedScales df count, blocks.map fun b => BitVec.ofNat 8 b.1)]
        (s.bumpBy E.viewsNonfiniteBlocks bad).endCmd d (statOut st) bad
      | (s, st, _) => s.endCmd d (statOut st)

/-- An exact value in a wide format: the NaN of R218, or its encoding, or a free value where the format cannot hold it
(R291). -/
def unpackElem (draw place fmt : Nat) (v : Fv) : Nat :=
  let f := wideFmt fmt
  let r := (f.encode .rne v).1
  if v = .nan ∨ (f.decode r).eq v then r else Config.freeElem draw place % 2 ^ elemBits fmt

/-- ACT_UNPACK. -/
def State.opActUnpack (s : State) (id : DescId) (env : Env) : State :=
  match s.engineCmd id 0x27 .bracken with
  | none => s
  | some (d, _) =>
    let count := d.fld 6 39 0
    let sf := d.fld 7 3 0
    let df := d.fld 7 7 4
    let src := d.fld 4 56 0
    let w := elemBits sf
    if ¬ d.packOk then s.endCmd d 0x03
    else match s.readRanges env d [(src, cdiv count 32 * 4 * w), (src + packedScales sf count, cdiv count 32)] with
      | (s, .ok, [es, xs]) =>
        let (f, s) := s.drawFree
        let out := (List.range count).map fun i =>
          unpackElem f i df (scaledValue sf (packedElem w i es) (xs.getD (i / 32) 0).toNat)
        let (s, st) := s.writeVirt env id.pitch d.record (d.fld 5 56 0) (out.flatMap (leBytes (elemBits df / 8))) d.charge
        s.endCmd d (statOut st)
      | (s, st, _) => s.endCmd d (statOut st)

/-! ### Reads of the window by agents (R274 to R276, R281, R282) -/

/-- The view that covers a line of the factored-view window: its region index and region. -/
def State.viewCover (s : State) (line : Nat) : Option (Nat × Region) :=
  s.region.table.find? fun e =>
    e.2.factored && !e.2.isAlias && e.2.state != .free && decide (e.2.basePage * 1024 ≤ line) &&
      decide (line < (e.2.basePage + e.2.pages) * 1024)

/-- The Bracken that serves a waiting read. -/
def State.brackenOf (s : State) (w : Work) : Option Nat := (s.viewCover w.line).map fun e => (s.viewAt e.1).bracken

/-- A view region that waits for its last read is freed (R281). -/
def State.settleView (s : State) (i : Nat) : State :=
  if (s.regionAt i).state = .clearing ∧ (s.regionAt i).factored ∧ ¬ s.dir.viewReads.any (s.viewReadOf i) then s.freeView i
  else s

/-- VIEW_READ_SERVE: Bracken `b` answers the oldest read of a view bound to it. -/
def State.opViewReadServe (s : State) (b : Nat) (env : Env) : State :=
  match s.dir.viewReads.find? fun w => s.brackenOf w == some b with
  | none => s
  | some w =>
    match s.viewCover w.line with
    | none => s
    | some (i, r) =>
      if ¬ (s.coreOn ∧ (s.reg (E.brackenState b) = 1 ∨ r.state = .damaged)) then s
      else
        let s := { s with dir := { s.dir with viewReads := removeFirst (fun x => x == w) s.dir.viewReads } }
        let (s, d) := s.viewLine env i (w.line * 64 - r.basePage * 65536) (.cls w.req.bclass)
        (s.respond (replyOf w 0x3A) (colourLoad w.colour) (if d.isSome then 0 else 1) (d.getD 0) none).settleView i

/-- Every view of a Bracken that stops serving is bound again to a serving one (R282). -/
def State.rebindViews (s : State) (b : Nat) : State :=
  let s := { s with eng := { s.eng with segs := s.eng.segs.filter fun g => g.bracken != b } }
  (s.eng.views.filter fun e => e.2.bracken == b).foldl (fun s e =>
    match s.chooseBracken with
    | some c => s.setView e.1 { e.2 with bracken := c }
    | none => s) s

end Sys2Proof.Machine
end

