-- ==== Sys2Proof/Machine/Embed.lean ====
section
/-! DEFINITION. The Clover and Tinder commands: embedding tables, gathers, updates and optimizer steps (R297 to
R317). -/

namespace Sys2Proof.Machine

/-! ### Tables (R297 to R301) -/

/-- Set a table record. -/
def State.setTable (s : State) (h : Nat) (t : Table) : State :=
  { s with eng := { s.eng with tables := SMap.set (fun _ => {}) s.eng.tables h t } }

/-- The lowest free table handle. -/
def State.freeTable (s : State) : Option Nat :=
  ((List.range (s.eng.tables.length + 1)).find? fun h => !(s.tableAt h).used).filter fun h => decide (h < 1024)

/-- Tables bound to a Clover. -/
def State.tablesBound (s : State) (e : Nat) : Nat := (s.eng.tables.filter fun t => t.2.clover == e).length

/-- The serving Clover with the fewest bound tables, the lowest number winning a tie (R300). -/
def State.chooseClover (s : State) : Option Nat :=
  argMin s.tablesBound ((List.range 32).filter fun e => s.reg (E.cloverState e) == 1 && !s.fencing .clover e)

/-- LOCAL_BLOCKS of shard `d` of `n` (R299). -/
def localBlocks (rows blockRows n d : Nat) : Nat :=
  let g := cdiv rows blockRows
  if g ≤ d then 0 else cdiv (g - d) n

/-- The shard of row `x`, its local row and its pool address (R299). -/
def Table.place (t : Table) (x : Nat) : Nat × Nat × Nat :=
  let n := t.shards.length
  let g := x / t.blockRows
  let d := g % n
  let lr := g / n * t.blockRows + x % t.blockRows
  (d, lr, t.shards.getD d 0 + lr * t.stride)

/-- The shard list is one of this device's tables (R300). -/
def shardsOk (own : Nat) (es : List Nat) : Bool :=
  let devs := es.map fun e => bits e 51 42
  (devs.filter fun x => x == own).length == 1 && decide devs.Nodup && es.all fun e => decide (e < 2 ^ 52)

/-- EMB_TABLE_CREATE (R300). -/
def State.opTableCreate (s : State) (id : DescId) (env : Env) : State :=
  match s.engineCmd id 0x30 .clover with
  | none => s
  | some (d, _) =>
    if ¬ d.tableOk then s.endCmd d 0x03
    else
      let n := d.fld 5 30 24
      match s.readVirt env id.pitch d.record (d.fld 6 56 0) (8 * n) d.charge with
      | (s, .ok, bs) =>
        let es := elemsOf 8 bs
        if es.any fun e => e % 64 != 0 then s.endCmd d 0x03
        else match s.freeTable, s.chooseClover with
          | some h, some e =>
            if s.reg E.tablesTableLimit ≤ s.eng.tables.length then s.endCmd d 0x61
            else if ¬ shardsOk s.deviceNumber es then s.endCmd d 0x63
            else
              let pos := ((findIdxOpt (fun x => bits x 51 42 == s.deviceNumber) es).map fun x => x.1).getD 0
              let t : Table := { words := (d.words.drop 4).take 5, owner := id.pitch, pos, shards := es, clover := e,
                                 used := true }
              let rows := localBlocks t.rows t.blockRows n pos * t.blockRows
              let p := id.pitch
              if ¬ (s.rangeRights p (es.getD pos 0) (rows * t.stride) true ∧
                  s.rangeRights p t.dflt (rowBytes t.fmt t.dim) false ∧
                  (t.acc = 0 ∨ s.rangeRights p t.acc (4 * rows) true)) then s.endCmd d 0x62
              else (s.setTable h t).endCmd d 0 h
          | _, _ => s.endCmd d 0x61
      | (s, st, _) => s.endCmd d (statOut st)

/-- A descriptor names a table by its handle. -/
def Desc.namesTable (d : Desc) (h : Nat) : Bool :=
  (d.opcode == 0x31 || d.opcode == 0x32 || d.opcode == 0x33) && d.fld 4 9 0 == h

/-- A dispatched descriptor of a pitch, other than `id`, passes a test and has not completed. -/
def State.dispatchedOther (s : State) (id : DescId) (q : Desc → Bool) : Bool :=
  s.work.descs.any fun d => d.id.pitch == id.pitch && d.id != id && d.unit.isSome &&
    (d.phase == .dispatched || d.phase == .running || d.phase == .decided) && q d

/-- EMB_TABLE_DESTROY (R301). -/
def State.opTableDestroy (s : State) (id : DescId) : State :=
  match s.engineCmd id 0x31 .clover with
  | none => s
  | some (d, _) =>
    let h := d.fld 4 9 0
    match s.tableOf id.pitch h with
    | none => s.endCmd d 0x60
    | some _ =>
      if s.dispatchedOther id (·.namesTable h) then s.endCmd d 0x64
      else (s.setTable h {}).endCmd d 0

/-- The tables of a Clover that stops serving are bound again (R315). -/
def State.rebindTables (s : State) (b : Nat) : State :=
  (s.eng.tables.filter fun e => e.2.clover == b).foldl (fun s e =>
    match s.chooseClover with
    | some c => s.setTable e.1 { e.2 with clover := c }
    | none => s) s

/-! ### Rows (R298, R303, R309) -/

/-- The value of element `e` of a row, as FP32 (R298). -/
def rowElem (fmt e : Nat) (bs : List Byte) : Nat :=
  let code := fun q : Nat =>
    (fp32.encode .rne ((fp16.decode (leNat ((bs.drop 2).take 2))).add .rne
      ((fp16.decode (leNat (bs.take 2))).mul (Fv.ofInt q)))).1
  match fmt with
  | 0 => leNat ((bs.drop (4 * e)).take 4)
  | 1 => leNat ((bs.drop (2 * e)).take 2) * 65536
  | 2 => code (bs.getD (4 + e) 0).toNat
  | _ => let b := (bs.getD (4 + e / 2) 0).toNat
         code (if e % 2 = 0 then b % 16 else b / 16)

/-- The FP32 values of a row. -/
def rowValues (fmt dim : Nat) (bs : List Byte) : List Nat := (List.range dim).map fun e => rowElem fmt e bs

/-- The exact quotient of a non-negative dyadic and a number, rounded to FP16 (R309). -/
def divFp16 (rm : RoundMode) (v : Fv) (n : Nat) : Nat :=
  match v with
  | .fin neg m e => (fp16.round rm neg (m * 2 ^ 60 / n) (e - 60) (decide (m * 2 ^ 60 % n ≠ 0))).1
  | .inf neg => fp16.infBits + if neg then fp16.signBit else 0
  | .nan => fp16.qnan

/-- a ÷ b rounded to the nearest integer, ties to even. -/
def roundDiv (a b : Nat) : Nat :=
  let q := a / b
  let r := a % b
  if 2 * r < b then q else if b < 2 * r then q + 1 else q + q % 2

/-- The quotient of two finite non-negative values, rounded to the nearest integer, ties to even; 0 for a zero
divisor. -/
def Fv.quotNat (a b : Fv) : Nat :=
  match a, b with
  | .fin _ m e, .fin _ m' e' =>
    if m' = 0 then 0
    else
      let q := min e e'
      roundDiv (m * 2 ^ (e - q).toNat) (m' * 2 ^ (e' - q).toNat)
  | _, _ => 0

/-- The least and the greatest of finite values. -/
def minMax (vs : List Fv) : Fv × Fv :=
  match vs with
  | [] => (.fin false 0 0, .fin false 0 0)
  | v :: vs => vs.foldl (fun a x => (if x.lt a.1 then x else a.1, if a.2.lt x then x else a.2)) (v, v)

/-- A row requantised to Q8 or Q4 (R309): none when it cannot be. -/
def quantRow (fmt : Nat) (ws : List Nat) : Option (List Byte) :=
  let vs := ws.map fp32.decode
  let qmax := if fmt = 2 then 255 else 15
  let (lo, hi) := minMax vs
  let off := (fp16.encode .rdn lo).1
  let scale := divFp16 .rup (hi.add .rne (fp16.decode off).neg) qmax
  if ¬ ((fp16.decode off).finite ∧ (fp16.decode scale).finite) then none
  else
    let qs := vs.map fun v => min qmax ((v.add .rne (fp16.decode off).neg).quotNat (fp16.decode scale))
    some (leBytes 2 scale ++ leBytes 2 off ++ packElems (if fmt = 2 then 8 else 4) qs)

/-- A row encoded for storage (R308): none when it holds a value that is not finite, or cannot be requantised. -/
def encodeRow (fmt : Nat) (ws : List Nat) : Option (List Byte) :=
  if ws.any fun w => !(fp32.decode w).finite then none
  else match fmt with
    | 0 => some (ws.flatMap (leBytes 4))
    | 1 =>
      let bs := ws.map (convertOut 8 false)
      if bs.any fun b => !(bf16.decode b).finite then none else some (bs.flatMap (leBytes 2))
    | _ => quantRow fmt ws

/-- A pool address as an extent of its own, for an engine's access by pool address. -/
def poolExtent (addr : Nat) : Extent := { va := 0, bytes := 0, host := false, port := 0, write := true, target := addr }

/-- Read bytes at a pool address of any device, with RD_NC requests (R303). -/
def State.poolRead (s : State) (env : Env) (p addr len : Nat) (c : EngCharge) : State × EngStat × List Byte :=
  (linePieces addr len).foldl (fun (acc : State × EngStat × List Byte) q =>
    match acc with
    | (s, .ok, bs) =>
      let r := s.targetRead env p (poolExtent q.1) q.1 c
      (r.s, r.st, bs ++ pieceBytes r.data q.2.1 q.2.2)
    | _ => acc) (s, .ok, [])

/-! ### EMB_GATHER (R302 to R304) -/

/-- An index list. -/
def indexList (idx64 : Bool) (bs : List Byte) : List Nat := elemsOf (if idx64 then 8 else 4) bs

/-- The index that stands for a missing row. -/
def missingIndex (idx64 : Bool) : Nat := if idx64 then 2 ^ 64 - 1 else 2 ^ 32 - 1

/-- Read the row of an index, or the default row, counting it (R303). -/
def State.gatherRow (s : State) (env : Env) (p e : Nat) (t : Table) (idx64 : Bool) (x : Nat) (c : EngCharge) :
    State × EngStat × List Nat :=
  let (s, addr) :=
    if x = missingIndex idx64 then (s.bump E.tablesMissingIndices, t.dflt)
    else if t.rows ≤ x then (s.bump E.tablesInvalidIndices, t.dflt)
    else (s, (t.place x).2.2)
  let r := (s.bump (E.cloverRowsGathered e)).poolRead env p addr (rowBytes t.fmt t.dim) c
  (r.1, r.2.1, rowValues t.fmt t.dim r.2.2)

/-- Element by element, the sum of two rows, one rounding each. -/
def addRows (a b : List Nat) : List Nat := (a.zip b).map fun x => fadd32 x.1 x.2

/-- The rows of a list of indices, with how the first that failed ended and its place. -/
def State.gatherRows (s : State) (env : Env) (p e : Nat) (t : Table) (idx64 : Bool) (c : EngCharge) (first : Nat)
    (xs : List Nat) : State × Option (EngStat × Nat) × List (List Nat) :=
  xs.zipIdx.foldl (fun (acc : State × Option (EngStat × Nat) × List (List Nat)) x =>
    let r := acc.1.gatherRow env p e t idx64 x.1 c
    (r.1, if r.2.1 = .ok then acc.2.1 else acc.2.1.orElse fun _ => some (r.2.1, first + x.2), acc.2.2 ++ [r.2.2]))
    (s, none, [])

/-- The value of an output row: a sum, a mean, or the one row (R303). -/
def poolRows (pool dim : Nat) (rows : List (List Nat)) : List Nat :=
  let zero := List.replicate dim 0
  if pool = 0 then rows.headD zero
  else
    let sum := rows.foldl addRows zero
    if pool = 1 ∨ rows = [] then sum
    else sum.map fun x => (fp32.div .rne x (fp32.encode .rne (Fv.ofInt rows.length)).1).1

/-- An output row's bytes, zero beyond its elements. -/
def outRow (fmt pitch : Nat) (ws : List Nat) : List Byte :=
  let bs := ws.flatMap fun w => leBytes (vecElem fmt) (convertOut fmt false w)
  bs ++ List.replicate (pitch - bs.length) 0

/-- An undefined output row. -/
def openRow (draw pitch : Nat) : List Byte :=
  let bs := (Config.freeBytes draw pitch).take pitch
  bs ++ List.replicate (pitch - bs.length) 0

/-- The offsets of a pooled gather are in order and cover the list (R302). -/
def offsetsOk (count : Nat) (os : List Nat) : Bool :=
  os.head? == some 0 && os.getLast? == some count && (os.zip (os.drop 1)).all fun x => decide (x.1 ≤ x.2)

/-- The runs of indices of the output rows: first place and count. -/
def gatherBags (pool count : Nat) (os : List Nat) : List (Nat × Nat) :=
  if pool = 0 then (List.range count).map fun i => (i, 1) else (os.zip (os.drop 1)).map fun x => (x.1, x.2 - x.1)

/-- Gather and write the output rows: the first failure of a row read, and how the writes ended. -/
def State.gatherOut (s : State) (env : Env) (d : Desc) (e : Nat) (t : Table) (xs : List Nat)
    (bags : List (Nat × Nat)) : State × Option (EngStat × Nat) × EngStat :=
  let fmt := d.fld 4 19 16
  let pitch := outPitch t.dim (vecElem fmt)
  bags.zipIdx.foldl (fun (acc : State × Option (EngStat × Nat) × EngStat) b =>
    let (s, bad, rows) :=
      acc.1.gatherRows env d.id.pitch e t (bitOf (d.word 4) 12) d.charge b.1.1 ((xs.drop b.1.1).take b.1.2)
    let (f, s) := s.drawFree
    let bytes := if bad.isSome then openRow f pitch else outRow fmt pitch (poolRows (d.fld 4 11 10) t.dim rows)
    let (s, st) := s.writeVirt env d.id.pitch d.record (d.fld 7 56 0 + b.2 * pitch) bytes d.charge
    (s, acc.2.1.orElse (fun _ => bad), if acc.2.2 = .ok then st else acc.2.2)) (s, none, .ok)

/-- EMB_GATHER. -/
def State.opGather (s : State) (id : DescId) (env : Env) : State :=
  match s.engineCmd id 0x32 .clover with
  | none => s
  | some (d, e) =>
    match s.tableOf id.pitch (d.fld 4 9 0) with
    | none => s.endCmd d 0x60
    | some t =>
      let pool := d.fld 4 11 10
      let count := d.fld 8 31 0
      let bags := d.fld 8 63 32
      let idx64 := bitOf (d.word 4) 12
      if ¬ d.gatherOk then s.endCmd d 0x03
      else if d.operands = [] then s.endCmd d 0x60
      else match s.readRanges env d ([(d.fld 5 56 0, (if idx64 then 8 else 4) * count)] ++
          if pool = 0 then [] else [(d.fld 6 56 0, 4 * (bags + 1))]) with
        | (s, .ok, bs) =>
          let os := elemsOf 4 (bs.getD 1 [])
          if pool ≠ 0 ∧ ¬ offsetsOk count os then s.endCmd d 0x03
          else match s.gatherOut env d e t (indexList idx64 (bs.getD 0 [])) (gatherBags pool count os) with
            | (s, some (st, i), _) => s.endCmd d (statOut st) i
            | (s, none, st) => s.endCmd d (statOut st)
        | (s, st, _) => s.endCmd d (statOut st)

/-! ### EMB_UPDATE (R306 to R309) -/

/-- How much of a row or an element is written when an engine fails in the middle (R315): all, an open choice of its
lines, or nothing. -/
inductive RowCut where
  | whole
  | some_ (draw : Nat)
  | none
  deriving DecidableEq, Repr

/-- What of the `i`-th row or element is written; `cut` is where a failing engine stopped and the draw (R315). -/
def cutAt (cut : Option (Nat × Nat)) (i : Nat) : RowCut :=
  match cut with
  | Option.none => .whole
  | some (done, draw) => if i < done then .whole else if i < done + 4096 then .some_ draw else .none

/-- The line numbered `k` is written. -/
def RowCut.takes (x : RowCut) (k : Nat) : Bool :=
  match x with
  | .whole => true
  | .some_ draw => Config.freeBool (draw * 2 ^ 52 + k)
  | .none => false

/-- The distinct local rows of a batch, in order of first occurrence, with the places of their indices (R307). -/
def mergeRows (xs : List (Nat × Nat)) : List (Nat × List Nat) :=
  xs.foldl (fun acc x =>
    if acc.any fun a => a.1 == x.1 then acc.map fun a => if a.1 = x.1 then (a.1, a.2 ++ [x.2]) else a
    else acc ++ [(x.1, [x.2])]) []

/-- The update of a row's values, with the new accumulator (R308). -/
def updateRow (rule dim lr eps acc : Nat) (ws gs : List Nat) : List Nat × Nat :=
  if rule = 0 then ((ws.zip gs).map fun x => (fp32.encode .rne ((fp32.decode x.1).add .rne (fp32.decode (fmul32 lr x.2)).neg)).1, acc)
  else
    let sq := gs.foldl (fun a g => fadd32 a (fmul32 g g)) 0
    let a := fadd32 acc (fp32.div .rne sq (fp32.encode .rne (Fv.ofInt dim)).1).1
    let dd := fadd32 (fp32.sqrt .rne a).1 eps
    ((ws.zip gs).map fun x =>
      (fp32.encode .rne ((fp32.decode x.1).add .rne (fp32.decode (fmul32 lr (fp32.div .rne x.2 dd).1)).neg)).1, a)

/-- Write a row's bytes: whole lines for a stride of 64 or more, else a partial line (R308); `old` are the bytes of the
row's lines. -/
def State.writeRow (s : State) (env : Env) (p addr stride : Nat) (x : RowCut) (old new : List Byte) (c : EngCharge) :
    State :=
  if 64 ≤ stride then
    let all := new ++ old.drop new.length
    (List.range (cdiv new.length 64)).foldl (fun s k =>
      if x.takes (addr / 64 + k) = true then s.writePool env p (addr + 64 * k) ((all.drop (64 * k)).take 64) c else s) s
  else if x.takes (addr / 64) = true then s.writePool env p addr new c else s

/-- Update one row of the batch: the state, whether it was written, and how its reads ended. -/
def State.updateOne (s : State) (env : Env) (d : Desc) (t : Table) (x : Nat) (g : List Nat) (take : RowCut) :
    State × Bool × EngStat :=
  let p := d.id.pitch
  let (_, lr, addr) := t.place x
  let len := if 64 ≤ t.stride then cdiv (rowBytes t.fmt t.dim) 64 * 64 else rowBytes t.fmt t.dim
  match s.readPool env p addr len d.charge with
  | (s, .ok, bs) =>
    let rule := d.fld 4 11 10
    let at_ := t.acc + 4 * lr
    let (s, st, ab) := if rule = 0 then (s, EngStat.ok, []) else s.readPool env p at_ 4 d.charge
    if st ≠ .ok then (s, false, st)
    else
      let (ws, a) := updateRow rule t.dim (d.fld 7 63 32) (d.fld 8 31 0) (leNat ab) (rowValues t.fmt t.dim bs) g
      match encodeRow t.fmt ws with
      | some new =>
        if rule ≠ 0 ∧ ¬ (fp32.decode a).finite then (s.bump E.tablesNonfiniteRows, false, .ok)
        else
          let s := s.writeRow env p addr t.stride take bs new d.charge
          let s := if rule ≠ 0 ∧ take.takes (at_ / 64) = true then s.writePool env p at_ (leBytes 4 a) d.charge else s
          (s, true, .ok)
      | none => (s.bump E.tablesNonfiniteRows, false, .ok)
  | (s, st, _) => (s, false, st)

/-- The local rows among the indices of a batch, with their places; the others are counted (R303, R306). -/
def State.localRows (s : State) (t : Table) (idx64 : Bool) (xs : List Nat) : State × List (Nat × Nat) :=
  xs.zipIdx.foldl (fun (acc : State × List (Nat × Nat)) x =>
    if x.1 = missingIndex idx64 then (acc.1.bump E.tablesMissingIndices, acc.2)
    else if t.rows ≤ x.1 then (acc.1.bump E.tablesInvalidIndices, acc.2)
    else if (t.place x.1).1 = t.pos then (acc.1, acc.2 ++ [x])
    else (acc.1.bump E.tablesForeignRows, acc.2)) (s, [])

/-- A gradient row as FP32 values. -/
def gradRow (bf : Bool) (dim pitch i : Nat) (bs : List Byte) : List Nat :=
  (List.range dim).map fun e =>
    if bf then leNat ((bs.drop (i * pitch + 2 * e)).take 2) * 65536 else leNat ((bs.drop (i * pitch + 4 * e)).take 4)

/-- An EMB_UPDATE whose index list and gradients have been read: the rows are merged and updated, up to where a failing
engine stopped. -/
def State.updateBatch (s : State) (env : Env) (d : Desc) (e : Nat) (t : Table) (cut : Option (Nat × Nat))
    (xs : List Nat) (grads : List Byte) : State × Nat × EngStat :=
  let bf := bitOf (d.word 4) 13
  let pitch := outPitch t.dim (if bf then 2 else 4)
  let (s, mine) := s.localRows t (bitOf (d.word 4) 12) xs
  let rows := mergeRows mine
  let s := s.bumpBy (E.cloverMergePasses e) (cdiv rows.length (min 4096 (1048576 / t.dim)))
  let r := rows.zipIdx.foldl (fun (acc : State × Nat × EngStat) x =>
    match cutAt cut x.2 with
    | .none => acc
    | take =>
      let g := (x.1.2.map fun i => gradRow bf t.dim pitch i grads).foldl addRows (List.replicate t.dim 0)
      let q := acc.1.updateOne env d t x.1.1 g take
      (q.1, acc.2.1 + b2n q.2.1, if acc.2.2 = .ok then q.2.2 else acc.2.2)) (s, 0, .ok)
  (r.1.bumpBy (E.cloverRowsUpdated e) r.2.1, r.2)

/-- The work of an EMB_UPDATE on Clover `e`: the outcome of the whole descriptor. -/
def State.runUpdate (s : State) (d : Desc) (e : Nat) (env : Env) (cut : Option (Nat × Nat)) : State × DescOut :=
  match s.tableOf d.id.pitch (d.fld 4 9 0) with
  | none => (s, { status := 0x60 })
  | some t =>
    if ¬ d.updateOk t then (s, { status := 0x03 })
    else if d.operands = [] then (s, { status := 0x60 })
    else
      let idx64 := bitOf (d.word 4) 12
      let count := d.fld 7 31 0
      match s.readRanges env d [(d.fld 5 56 0, (if idx64 then 8 else 4) * count),
          (d.fld 6 56 0, count * outPitch t.dim (if bitOf (d.word 4) 13 then 2 else 4))] with
      | (s, .ok, bs) =>
        match s.updateBatch env d e t cut (indexList idx64 (bs.getD 0 [])) (bs.getD 1 []) with
        | (s, n, st) => (s, { status := statOut st, result := n })
      | (s, st, _) => (s, { status := statOut st })

/-- EMB_UPDATE. -/
def State.opUpdate (s : State) (id : DescId) (env : Env) : State :=
  match s.engineCmd id 0x33 .clover with
  | none => s
  | some (d, e) => let r := s.runUpdate d e env none; r.1.decideDesc d r.2

/-! ### OPT_STEP (R310 to R313) -/

/-- The constants of a step, as FP32. -/
structure OptConst where
  rule : Nat
  nesterov : Bool
  lr : Nat
  beta1 : Nat
  beta2 : Nat
  eps : Nat
  wd : Nat
  scale : Nat
  c1 : Nat
  c2 : Nat
  bc1 : Nat
  bc2 : Nat

/-- 1 − x of an exact value, rounded to FP32. -/
def oneMinus (v : Fv) : Nat := (fp32.encode .rne ((Fv.ofInt 1).add .rne v.neg)).1

/-- BETA^t in FP64 by binary exponentiation from the least significant bit of t (R311). -/
def fp64Pow (b t : Nat) : Nat :=
  ((List.range (t.log2 + 1)).foldl (fun (acc : Nat × Nat) i =>
    (if bitOf t i then (fp64.mul .rne acc.1 acc.2).1 else acc.1, (fp64.mul .rne acc.2 acc.2).1))
    ((fp64.encode .rne (Fv.ofInt 1)).1, (fp64.encode .rne (fp32.decode b)).1)).1

/-- The constants of a descriptor. -/
def Desc.optConst (d : Desc) : OptConst :=
  let b1 := d.fld 10 63 32
  let b2 := d.fld 11 31 0
  let t := d.fld 13 31 0
  { rule := d.fld 9 43 40, nesterov := bitOf (d.word 9) 49, lr := d.fld 10 31 0, beta1 := b1, beta2 := b2,
    eps := d.fld 11 63 32, wd := d.fld 12 31 0, scale := d.fld 12 63 32, c1 := oneMinus (fp32.decode b1),
    c2 := oneMinus (fp32.decode b2), bc1 := oneMinus (fp64.decode (fp64Pow b1 t)),
    bc2 := oneMinus (fp64.decode (fp64Pow b2 t)) }

/-- a − b in FP32. -/
def fsub32 (a b : Nat) : Nat := (fp32.encode .rne ((fp32.decode a).add .rne (fp32.decode b).neg)).1

/-- One element of a step: weight, scaled gradient, moments; the new weight and moments (R311). -/
def optElem (k : OptConst) (w g m v : Nat) : Nat × Nat × Nat :=
  let g := if k.rule ≤ 2 then fadd32 g (fmul32 k.wd w) else g
  match k.rule with
  | 0 => (fsub32 w (fmul32 k.lr g), m, v)
  | 1 =>
    let m := fadd32 (fmul32 k.beta1 m) g
    let st := if k.nesterov then fadd32 g (fmul32 k.beta1 m) else m
    (fsub32 w (fmul32 k.lr st), m, v)
  | _ =>
    let m := fadd32 (fmul32 k.beta1 m) (fmul32 k.c1 g)
    let v := fadd32 (fmul32 k.beta2 v) (fmul32 k.c2 (fmul32 g g))
    let dd := (fp32.div .rne (fp32.div .rne m k.bc1).1
      (fadd32 (fp32.sqrt .rne (fp32.div .rne v k.bc2).1).1 k.eps)).1
    let dd := if k.rule = 3 then fadd32 dd (fmul32 k.wd w) else dd
    (fsub32 w (fmul32 k.lr dd), m, v)

/-- The values of a moment array of `count` elements (R312). -/
def decodeMoments (fmt count : Nat) (signed : Bool) (bs : List Byte) : List Nat :=
  match fmt with
  | 0 => elemsOf 4 bs
  | 1 => (elemsOf 2 bs).map fun x => x * 65536
  | _ => (List.range count).map fun i =>
    let q := (bs.getD i 0).toNat
    let scale := leNat ((bs.drop (64 * cdiv count 64 + 4 * (i / 64))).take 4)
    (fp32.encode .rne ((fp32.decode scale).mul (Fv.ofInt (if signed then sgn 8 q else q)))).1

/-- absmax ÷ n rounded to FP32 toward +∞; the result for a value that is not finite is left open (R312). -/
def blockScale (draw place n : Nat) (v : Fv) : Nat :=
  match v with
  | .fin _ m e => (fp32.round .rup false (m * 2 ^ 60 / n) (e - 60) (decide (m * 2 ^ 60 % n ≠ 0))).1
  | _ => Config.freeElem draw place % 2 ^ 32

/-- A block of up to 64 moments as codes and a scale (R312): what the manual states no code for is left open. -/
def quantBlock (draw place : Nat) (signed : Bool) (xs : List Nat) : List Byte × Nat :=
  let vs := xs.map fp32.decode
  let n := if signed then 127 else 255
  let scale := blockScale draw place n (if vs.any fun v => !v.finite then .nan else maxMag vs)
  let code := fun (v : Fv) (i : Nat) =>
    if !v.finite || !(fp32.decode scale).finite || (!signed && v.sign && !v.isZero) || vs.any (fun v => !v.finite) then
      Config.freeElem draw (place + 1 + i) % 256
    else uns 8 (signedMant v.sign (min n (v.abs.quotNat (fp32.decode scale))))
  (vs.zipIdx.map fun x => BitVec.ofNat 8 (code x.1 x.2), scale)

/-- A moment array encoded for storage (R312): code bytes, or elements, and the scales' bytes. -/
def encodeMoments (draw fmt : Nat) (signed : Bool) (xs : List Nat) : List Byte × List Byte :=
  match fmt with
  | 0 => (xs.flatMap (leBytes 4), [])
  | 1 => ((xs.map (convertOut 8 false)).flatMap (leBytes 2), [])
  | _ =>
    let bs := (List.range (cdiv xs.length 64)).map fun k =>
      quantBlock draw (128 * k) signed ((xs.drop (64 * k)).take 64)
    (bs.flatMap fun b => b.1, bs.flatMap fun b => leBytes 4 b.2)

/-- Mix an array's old and new bytes by what a failing engine wrote (R315): byte `b` belongs to element `b ÷ w`, or to
block `64 · (b ÷ w)` for scales. -/
def mixBytes (cut : Option (Nat × Nat)) (va w per : Nat) (old new : List Byte) : List Byte :=
  match cut with
  | none => new
  | some _ => (new.zip (old ++ List.replicate new.length 0)).zipIdx.map fun x =>
    if (cutAt cut (x.2 / w * per)).takes ((va + x.2) / 64) then x.1.1 else x.1.2

/-- The sequence of elements of a step: new weights and moments. -/
def optAll (k : OptConst) (ws gs ms vs : List Nat) : List (Nat × Nat × Nat) :=
  (ws.zip gs).zipIdx.map fun x => optElem k x.1.1 x.1.2 (ms.getD x.2 0) (vs.getD x.2 0)

/-- The byte strings that a step writes, with their addresses. -/
def optWrites (d : Desc) (draw : Nat) (cut : Option (Nat × Nat)) (out : List (Nat × Nat × Nat))
    (op om ov oc : List Byte) : List (Nat × List Byte) :=
  let n := d.fld 9 39 0
  let fmt := d.fld 9 47 44
  let rule := d.fld 9 43 40
  let va := fun i => d.fld i 56 0
  let sc := 64 * cdiv n 64
  let w := if fmt = 0 then 4 else if fmt = 1 then 2 else 1
  let moment := fun (base : Nat) (mo : List Byte × List Byte) (old : List Byte) =>
    [(base, mixBytes cut base w 1 old mo.1)] ++
      if fmt = 2 then [(base + sc, mixBytes cut (base + sc) 4 64 (old.drop sc) mo.2)] else []
  [(va 4, mixBytes cut (va 4) 4 1 op (out.flatMap fun x => leBytes 4 x.1))] ++
  (if optUsesM rule then moment (va 6) (encodeMoments draw fmt true (out.map fun x => x.2.1)) om else []) ++
  (if optUsesV rule then moment (va 7) (encodeMoments (draw + 1) fmt false (out.map fun x => x.2.2)) ov else []) ++
  (if va 8 = 0 then [] else [(va 8, mixBytes cut (va 8) 2 1 oc (out.flatMap fun x => leBytes 2 (convertOut 8 false x.1)))])

/-- The work of an OPT_STEP on Tinder `e`: the outcome of the whole descriptor. -/
def State.runOpt (s : State) (d : Desc) (e : Nat) (env : Env) (cut : Option (Nat × Nat)) : State × DescOut :=
  if ¬ d.optOk then (s, { status := 0x03 })
  else
    let n := d.fld 9 39 0
    let rule := d.fld 9 43 40
    let fmt := d.fld 9 47 44
    let bf := bitOf (d.word 9) 48
    let va := fun i => d.fld i 56 0
    let k := d.optConst
    let copy := cut.isSome && va 8 != 0
    match s.readRanges env d [(va 5, (if bf then 2 else 4) * n), (va 4, 4 * n),
        (va 6, if optUsesM rule then momentBytes fmt n else 0), (va 7, if optUsesV rule then momentBytes fmt n else 0),
        (va 8, if copy then 2 * n else 0)] with
    | (s, .ok, [gb, wb, mb, vb, cb]) =>
      let gin := if bf then (elemsOf 2 gb).map fun x => x * 65536 else elemsOf 4 gb
      let gs := gin.map fun g => fmul32 g k.scale
      let skip := bitOf (d.word 9) 50
      if skip ∧ gs.any fun g => !(fp32.decode g).finite then (s.bump E.tindersNonfiniteSteps, { status := 0x68 })
      else
        let out := optAll k (elemsOf 4 wb) gs (decodeMoments fmt n true mb) (decodeMoments fmt n false vb)
        let (f, s) := s.drawFree
        let (_, s) := s.drawFree
        let (s, st) := s.writeRanges env d (optWrites d f cut out wb mb vb cb)
        let bad := (out.filter fun x => !(fp32.decode x.1).finite).length
        (s.bumpBy (E.tinderElements e) n, { status := statOut st, result := if skip then 0 else bad })
    | (s, st, _) => (s, { status := statOut st })

/-- OPT_STEP. -/
def State.opOptStep (s : State) (id : DescId) (env : Env) : State :=
  match s.engineCmd id 0x38 .tinder with
  | none => s
  | some (d, e) => let r := s.runOpt d e env none; r.1.decideDesc d r.2

end Sys2Proof.Machine
end

