-- ==== Sys2Proof/Machine/Coll.lean ====
section
/-! DEFINITION. Collective groups and collectives (R421 to R433). -/

namespace Sys2Proof.Machine

/-! ### Groups (R421, R422) -/

/-- A descriptor is run now by a collective core for an opcode: it has started, its core serves, and no stop holds
collective work (R250, R530).  The second part is the core. -/
def State.collCmd (s : State) (id : DescId) (op : Nat) : Option (Desc × Nat) :=
  match s.regionCmd id op with
  | some d =>
    match d.unit with
    | some (.kettle k) => if s.collCoreServes k ∧ s.coreOn ∧ ¬ s.stopped then some (d, k) else none
    | _ => none
  | none => none

/-- Set a group record. -/
def State.setGroup (s : State) (h : Nat) (g : Group) : State :=
  { s with eng := { s.eng with groups := SMap.set (fun _ => {}) s.eng.groups h g } }

/-- A free handle, the lowest (R422). -/
def State.freeGroup (s : State) : Option Nat := (List.range 256).find? fun h => !(s.groupAt h).used

/-- GROUP_HASH: CRC-32C of GROUP_ID and the member list (R422). -/
def groupHash (id : Nat) (members : List Nat) : Nat := crc32c (leBytes 4 id ++ members.flatMap (leBytes 2))

/-- The own number appears exactly once and no number twice (R422). -/
def membersOk (own : Nat) (ms : List Nat) : Bool := ms.contains own && decide ms.Nodup

/-- COLL_GROUP_CREATE (R421, R422). -/
def State.opGroupCreate (s : State) (id : DescId) (env : Env) : State :=
  match s.collCmd id 0x50 with
  | none => s
  | some (d, k) =>
    if ¬ d.groupOk then s.endCmd d 0x03
    else match s.freeGroup with
      | none => s.endCmd d 0xA1
      | some h =>
        match s.readVirt env id.pitch d.record (d.fld 5 56 0) (2 * d.fld 6 10 0) d.charge with
        | (s, .ok, bs) =>
          let ms := elemsOf 2 bs
          if ¬ membersOk s.deviceNumber ms then s.endCmd d 0xA4
          else
            let len := d.fld 8 39 0
            match s.oneExtent d.record (d.fld 7 56 0) len with
            | none => s.endCmd d 0xA2
            | some a =>
              if ¬ s.rangeRights id.pitch a len true then s.endCmd d 0xA2
              else
                let g : Group :=
                  { groupId := d.fld 4 31 0, pitch := id.pitch, members := ms, scratch := a, scratchBytes := len,
                    timeout := if d.fld 9 31 0 = 0 then 1000 else d.fld 9 31 0, chunk := d.fld 10 31 0,
                    hash := groupHash (d.fld 4 31 0) ms, core := s.collCore.getD k, started := 0, used := true }
                (s.setGroup h g).endCmd d 0 h
        | (s, st, _) => s.endCmd d (statOut st)

/-- A collective of the pitch names a group. -/
def Desc.namesGroup (d : Desc) (h : Nat) : Bool := inRange d.opcode 0x52 0x56 && d.groupHandle == h

/-- COLL_GROUP_DESTROY (R422). -/
def State.opGroupDestroy (s : State) (id : DescId) : State :=
  match s.collCmd id 0x51 with
  | none => s
  | some (d, _) =>
    let h := d.fld 4 7 0
    match s.groupOf id.pitch h with
    | none => s.endCmd d 0xA0
    | some _ =>
      if s.dispatchedOther id (·.namesGroup h) then s.endCmd d 0xA3
      else (s.setGroup h {}).endCmd d 0

/-- The groups of a core that stops serving are bound again (R416, R422). -/
def State.rebindGroups (s : State) (k : Nat) : State :=
  (s.eng.groups.filter fun e => e.2.core == k).foldl (fun s e =>
    match s.collCore with
    | some k' => s.setGroup e.1 { e.2 with core := k' }
    | none => s) s

/-! ### The schedule of steps (R424, R428) -/

/-- ceil(log2 n). -/
def ceilLog2 (n : Nat) : Nat := if n ≤ 1 then 0 else Nat.log2 (n - 1) + 1

/-- The depth of a rank in a tree (R428). -/
def treeDepth (r : Nat) : Nat := Nat.log2 (r + 1)

/-- The children of a rank in a tree of `n`. -/
def treeChildren (n r : Nat) : List Nat := [2 * r + 1, 2 * r + 2].filter fun c => decide (c < n)

/-- Steps of a chunk (R424). -/
def collSteps (op algo n : Nat) : Nat :=
  match op, algo with
  | 0x52, 0 => 3
  | 0x52, 1 => 2 * (n - 1)
  | 0x52, _ => 2 * ceilLog2 n
  | 0x53, 0 => 2
  | 0x53, _ => n - 1
  | 0x54, 0 => 1
  | 0x54, _ => n - 1
  | 0x55, 0 => 1
  | 0x55, 1 => n - 1
  | 0x55, _ => ceilLog2 n
  | _, _ => 3

/-- What a rank sends in a step: to whom, which shard (none is the whole chunk, or both streams), and whether the data
are finished. -/
structure CollSend where
  dest : Nat
  shard : Option Nat
  fin : Bool
  deriving DecidableEq, Repr

/-- What rank `me` sends in step `t` of a chunk (R428, R430). -/
def collSends (op algo n root me t : Nat) : List CollSend :=
  let next := (me + 1) % n
  if op = 0x56 then (if t = 1 then (otherRanks n me).map fun x => { dest := x, shard := none, fin := false } else [])
  else if op = 0x54 then
    (if algo = 0 then (otherRanks n me).map fun x => { dest := x, shard := some me, fin := true }
     else [{ dest := next, shard := some ((me + n - t % n) % n), fin := true }])
  else if op = 0x55 then
    (if algo = 0 then (if me = root then (otherRanks n me).map fun x => { dest := x, shard := none, fin := true } else [])
     else if algo = 1 then (if me = (root + t) % n then [{ dest := next, shard := none, fin := true }] else [])
     else
      let v := (me + n - root) % n
      if treeDepth v = t then (treeChildren n v).map fun c => { dest := (c + root) % n, shard := none, fin := true } else [])
  else if algo = 0 then
    (if t = 0 then (otherRanks n me).map fun x => { dest := x, shard := some x, fin := false }
     else if t = 2 then (otherRanks n me).map fun x => { dest := x, shard := some me, fin := true }
     else [])
  else if algo = 1 then
    (if t + 1 < n then [{ dest := next, shard := some ((me + 2 * n - t - 1) % n), fin := false }]
     else [{ dest := next, shard := some ((me + n - (t + 1 - n)) % n), fin := true }])
  else
    let depth := ceilLog2 n
    if t < depth then
      (if treeDepth me = depth - t then [{ dest := (me - 1) / 2, shard := none, fin := false }] else [])
    else if treeDepth me = t - depth then (treeChildren n me).map fun c => { dest := c, shard := none, fin := true }
    else []

/-- The ranks that send to `me` in a step. -/
def collSenders (op algo n root me t : Nat) : List Nat :=
  (otherRanks n me).filter fun x => (collSends op algo n root x t).any fun c => c.dest == me

/-! ### A collective's own numbers -/

/-- What a member needs to know of a collective under way. -/
structure CollInfo where
  d : Desc
  g : Group
  me : Nat
  run : CollRun
  deriving DecidableEq, Repr

/-- ALGO, which COMP_ALL_REDUCE does not have: it goes as MESH. -/
def CollInfo.algo (c : CollInfo) : Nat := if c.d.opcode = 0x56 then 0 else c.d.fld 4 9 8

/-- Members. -/
def CollInfo.n (c : CollInfo) : Nat := c.g.members.length

/-- Steps of a chunk. -/
def CollInfo.steps (c : CollInfo) : Nat := collSteps c.d.opcode c.algo c.n

/-- COUNT. -/
def CollInfo.count (c : CollInfo) : Nat := c.d.fld 7 39 0

/-- Chunks. -/
def CollInfo.chunks (c : CollInfo) : Nat := if c.d.opcode = 0x56 then 1 else cdiv c.count c.g.chunk

/-- Elements of the present chunk. -/
def CollInfo.len (c : CollInfo) : Nat := min c.g.chunk (c.count - c.run.chunk * c.g.chunk)

/-- ROOT. -/
def CollInfo.root (c : CollInfo) : Nat := c.d.fld 4 25 16

/-- What the member sends in a step of a chunk. -/
def CollInfo.sends (c : CollInfo) (t : Nat) : List CollSend := collSends c.d.opcode c.algo c.n c.root c.me t

/-- From whom it receives. -/
def CollInfo.senders (c : CollInfo) (t : Nat) : List Nat := collSenders c.d.opcode c.algo c.n c.root c.me t

/-- Bytes of an element. -/
def CollInfo.elem (c : CollInfo) : Nat := vecElem (c.d.fld 4 15 12)

/-- Byte length of one rank's two streams (R268, R430). -/
def CollInfo.streams (c : CollInfo) : Nat × Nat :=
  (streamBytes 8 (c.d.fld 9 40 32) (c.d.fld 9 12 0), streamBytes 8 (c.d.fld 9 40 32) (c.d.fld 9 28 16))

/-- First element of a shard in its chunk, and its length (R425). -/
def CollInfo.shard (c : CollInfo) : Option Nat → Nat × Nat
  | none => (0, c.len)
  | some j => (min c.len (j * cdiv c.len c.n), shardLen c.len c.n j)

/-- The scratch bytes that an algorithm needs (R424). -/
def CollInfo.needed (c : CollInfo) : Nat :=
  let sh := cdiv c.g.chunk c.n * 4
  64 * c.n + (if c.d.opcode = 0x56 then c.n * (c.streams.1 + c.streams.2)
    else if c.d.opcode = 0x52 ∨ c.d.opcode = 0x53 then
      (match c.algo with
        | 0 => (c.n - 1) * sh
        | 1 => 2 * sh
        | _ => 2 * c.g.chunk * 4)
    else 0)

/-- Where the scratch area holds what rank `x` sends to rank `y` in step `t`. -/
def CollInfo.slot (c : CollInfo) (x y t : Nat) : Nat :=
  let sh := cdiv c.g.chunk c.n * 4
  64 * c.n + (if c.d.opcode = 0x56 then x * (c.streams.1 + c.streams.2)
    else match c.algo with
      | 0 => (if x < y then x else x - 1) * sh
      | 1 => t % 2 * sh
      | _ => if t < ceilLog2 c.n then (x + 1) % 2 * (c.g.chunk * 4) else 0)

/-- Byte offset of an element of the present chunk in a whole buffer. -/
def CollInfo.bufAt (c : CollInfo) (e : Nat) : Nat := (c.run.chunk * c.g.chunk + e) * c.elem

/-- Byte offset of the own shard of the present chunk in a buffer of own shards (R425). -/
def CollInfo.ownAt (c : CollInfo) : Nat := c.run.chunk * shardLen c.g.chunk c.n c.me * c.elem

/-- The stamp of the present step (R426). -/
def CollInfo.stamp (c : CollInfo) : Nat :=
  c.d.launch + (c.run.chunk * c.steps + c.run.step) *
    (if c.d.opcode = 0x56 then Config.compStepTicks else c.d.fld 8 31 0)

/-- A flag of a sender shows that its data of a step of the present chunk are present. -/
def CollRun.present (r : CollRun) (x t : Nat) : Bool :=
  r.flags.any fun f => f.sender == x && (decide (r.chunk < f.chunk) || (f.chunk == r.chunk && decide (t ≤ f.step)))

/-- Every input of the present step is present. -/
def CollInfo.ready (c : CollInfo) : Bool :=
  c.run.step == 0 || (c.senders (c.run.step - 1)).all fun x => c.run.present x (c.run.step - 1)

/-- Everything that the present chunk brings is present. -/
def CollInfo.chunkIn (c : CollInfo) : Bool :=
  (List.range c.steps).all fun t => (c.senders t).all fun x => c.run.present x t

/-! ### Arithmetic (R427) -/

/-- ∘ of OP: a sum, the greater or the lesser; +0 is greater than −0 and a NaN gives 0x7FC0_0000. -/
def collOp (op a b : Nat) : Nat :=
  if op = 0 then fadd32 a b
  else
    let x := fp32.decode a
    let y := fp32.decode b
    if x = .nan ∨ y = .nan then 0x7FC00000
    else
      let bLess := if x.isZero ∧ y.isZero then y.sign && !x.sign else y.lt x
      if (op = 1) = bLess then a else b

/-- Elementwise. -/
def collZip (op : Nat) (a b : List Nat) : List Nat := (a.zip b).map fun x => collOp op x.1 x.2

/-- Input elements as FP32. -/
def CollInfo.widen (c : CollInfo) (bs : List Byte) : List Nat :=
  if c.elem = 4 then elemsOf 4 bs else (elemsOf 2 bs).map fun x => x * 65536

/-- FP32 values as output elements (R427). -/
def CollInfo.narrow (c : CollInfo) (xs : List Nat) : List Byte :=
  xs.flatMap fun x => leBytes c.elem (convertOut (c.d.fld 4 15 12) false x)

/-! ### Memory of a collective -/

/-- Read the scratch area. -/
def State.scratchRead (s : State) (env : Env) (c : CollInfo) (off len : Nat) : State × EngStat × List Byte :=
  s.poolRead env c.g.pitch (c.g.scratch + off) len c.d.charge

/-- Read FP32 values from the scratch area. -/
def State.scratchF32 (s : State) (env : Env) (c : CollInfo) (off n : Nat) : State × EngStat × List Nat :=
  let r := s.scratchRead env c off (4 * n)
  (r.1, r.2.1, elemsOf 4 r.2.2)

/-- Read elements of SRC. -/
def State.srcRead (s : State) (env : Env) (c : CollInfo) (off len : Nat) : State × EngStat × List Byte :=
  s.readVirt env c.g.pitch c.d.record (c.d.fld 5 56 0 + off) len c.d.charge

/-- Read bytes of DST. -/
def State.dstRead (s : State) (env : Env) (c : CollInfo) (off len : Nat) : State × EngStat × List Byte :=
  s.readVirt env c.g.pitch c.d.record (c.d.fld 6 56 0 + off) len c.d.charge

/-- Write bytes of DST. -/
def State.dstWrite (s : State) (env : Env) (c : CollInfo) (off : Nat) (bs : List Byte) : State × EngStat :=
  s.writeVirt env c.g.pitch c.d.record (c.d.fld 6 56 0 + off) bs c.d.charge

/-- The own input of a part of the chunk, as FP32. -/
def State.ownInput (s : State) (env : Env) (c : CollInfo) (j : Option Nat) : State × EngStat × List Nat :=
  let p := c.shard j
  let r := s.srcRead env c (c.bufAt p.1) (p.2 * c.elem)
  (r.1, r.2.1, c.widen r.2.2)

/-- Combine parts in order: each is the own input or a place in the scratch area. -/
def State.combine (s : State) (env : Env) (c : CollInfo) (j : Option Nat) (parts : List (Option Nat)) :
    State × EngStat × List Nat :=
  let n := (c.shard j).2
  let r := parts.foldl (fun (acc : State × EngStat × Option (List Nat)) p =>
    match acc with
    | (s, .ok, cur) =>
      let x := match p with
        | none => s.ownInput env c j
        | some off => s.scratchF32 env c off n
      (x.1, x.2.1, match cur with
        | none => some x.2.2
        | some v => some (collZip (c.d.fld 4 11 10) v x.2.2))
    | _ => acc) (s, .ok, none)
  (r.1, r.2.1, r.2.2.getD [])

/-! ### Sending (R31, R429) -/

/-- What a running collective descriptor needs. -/
def State.collInfo (s : State) (id : DescId) : Option CollInfo :=
  match s.eng.colls.find? fun r => r.desc == id, s.desc id with
  | some r, some d =>
    let g := s.groupAt r.handle
    some { d, g, me := s.rankIn g, run := r }
  | _, _ => none

/-- Set the state of a collective. -/
def State.setRun (s : State) (r : CollRun) : State :=
  { s with eng := { s.eng with colls := s.eng.colls.map fun x => if x.desc = r.desc then r else x } }

/-- Drop the state of a collective. -/
def State.dropRun (s : State) (id : DescId) : State :=
  { s with eng := { s.eng with colls := s.eng.colls.filter fun r => r.desc != id } }

/-- A collective completes. -/
def State.endColl (s : State) (c : CollInfo) (status : Nat) : State :=
  (s.dropRun c.d.id).decideDesc c.d { status, detail := b2n c.run.untimed, result := if status = 0 then c.run.result else 0 }

/-- A collective fails on this member, which writes FAILED to every other (R431). -/
def State.failColl (s : State) (c : CollInfo) (status : Nat) : State := (s.sendFailed c.d.id).endColl c status

/-- How a request to a member device ends: by its route, and by what the outside answers for the device's base address
(R31, R32, R253). -/
def State.memberEnd (s : State) (env : Env) (dev : Nat) : EngStat :=
  match s.routeOf (dev * 2 ^ 42) false with
  | .linkLost => .linkLost
  | _ => match env.remote.find? fun e => e.1 == dev * 2 ^ 42 with
    | some e => if e.2.status = .linkLost then .linkLost else if e.2.status = .timedOut then .timedOut else .ok
    | none => .ok

/-- Send step data; the first member that cannot be reached gives the status. -/
def State.sendAll (s : State) (env : Env) (c : CollInfo) (xs : List (CollSend × List Byte)) : State × EngStat :=
  xs.foldl (fun (acc : State × EngStat) x =>
    match acc with
    | (s, .ok) =>
      let dev := c.g.members.getD x.1.dest 0
      match s.memberEnd env dev with
      | .ok =>
        let dst := c.d.opcode == 0x54 || c.d.opcode == 0x55
        let off := if dst = true then c.bufAt (c.shard x.1.shard).1 else c.slot c.me x.1.dest c.run.step
        (s.emit (.collData dev c.g.pitch c.d.bclass dst off x.2), .ok)
      | st => (s, st)
    | _ => acc) (s, .ok)

/-! ### What a step forms (R427, R428, R430) -/

/-- Data for sends, or the status of an access that did not end well. -/
abbrev Formed := State × EngStat × List (CollSend × List Byte)

/-- Everything sends the same bytes. -/
def sameFor (xs : List CollSend) (bs : List Byte) : List (CollSend × List Byte) := xs.map fun x => (x, bs)

/-- FP32 values as they travel (R427). -/
def f32Bytes (xs : List Nat) : List Byte := xs.flatMap (leBytes 4)

/-- A finished part is written to the own DST, and is then what goes to others. -/
def State.finishPart (s : State) (env : Env) (c : CollInfo) (off : Nat) (r : State × EngStat × List Nat)
    (sends : List CollSend) : Formed :=
  match r with
  | (_, .ok, xs) =>
    let w := r.1.dstWrite env c off (c.narrow xs)
    (w.1, w.2, sameFor sends (f32Bytes (c.widen (c.narrow xs))))
  | (t, st, _) => ((if st = .ok then s else t), st, [])

/-- MESH steps of ALL_REDUCE and REDUCE_SCATTER. -/
def State.formMesh (s : State) (env : Env) (c : CollInfo) : Formed :=
  let sends := c.sends c.run.step
  if c.run.step = 0 then
    sends.foldl (fun (acc : Formed) x =>
      match acc with
      | (s, .ok, out) =>
        let r := s.ownInput env c x.shard
        (r.1, r.2.1, out ++ [(x, f32Bytes r.2.2)])
      | _ => acc) (s, .ok, [])
  else if c.run.step = 1 then
    let parts := (List.range c.n).map fun x => if x = c.me then none else some (c.slot x c.me 0)
    let off := if c.d.opcode = 0x52 then c.bufAt (c.shard (some c.me)).1 else c.ownAt
    s.finishPart env c off (s.combine env c (some c.me) parts) []
  else
    let p := c.shard (some c.me)
    match s.dstRead env c (c.bufAt p.1) (p.2 * c.elem) with
    | (s, .ok, bs) => (s, .ok, sameFor sends (f32Bytes (c.widen bs)))
    | (s, st, _) => (s, st, [])

/-- RING steps of ALL_REDUCE and REDUCE_SCATTER. -/
def State.formRing (s : State) (env : Env) (c : CollInfo) : Formed :=
  let t := c.run.step
  let sends := c.sends t
  let prev := c.me + c.n - 1
  let buf := c.slot (prev % c.n) c.me (t - 1)
  let j := (sends.head?.bind CollSend.shard)
  if t + 1 < c.n then
    match s.combine env c j (if t = 0 then [none] else [some buf, none]) with
    | (s, .ok, xs) => (s, .ok, sameFor sends (f32Bytes xs))
    | (s, st, _) => (s, st, [])
  else if t + 1 = c.n then
    s.finishPart env c (c.bufAt (c.shard (some c.me)).1) (s.combine env c (some c.me) [some buf, none]) sends
  else match s.scratchRead env c buf (4 * (c.shard j).2) with
    | (s, .ok, bs) => (s, .ok, sameFor sends bs)
    | (s, st, _) => (s, st, [])

/-- TREE steps of ALL_REDUCE. -/
def State.formTree (s : State) (env : Env) (c : CollInfo) : Formed :=
  let t := c.run.step
  let depth := ceilLog2 c.n
  let sends := c.sends t
  let up := none :: (treeChildren c.n c.me).map fun x => some (c.slot x c.me 0)
  if t < depth then
    (if sends = [] then (s, .ok, [])
     else match s.combine env c none up with
      | (s, .ok, xs) => (s, .ok, sameFor sends (f32Bytes xs))
      | (s, st, _) => (s, st, []))
  else if t = depth ∧ c.me = 0 then s.finishPart env c (c.bufAt 0) (s.combine env c none up) sends
  else if sends = [] then (s, .ok, [])
  else match s.scratchRead env c (c.slot 0 c.me t) (4 * c.len) with
    | (s, .ok, bs) => (s, .ok, sameFor sends bs)
    | (s, st, _) => (s, st, [])

/-- Steps of ALL_GATHER and BROADCAST: the own part is copied to DST, and parts go on from there. -/
def State.formCopy (s : State) (env : Env) (c : CollInfo) : Formed :=
  let sends := c.sends c.run.step
  let mine := c.d.opcode == 0x54 || c.me == c.root
  if c.run.step = 0 ∧ mine = true then
    let p := c.shard (if c.d.opcode = 0x54 then some c.me else none)
    match s.srcRead env c (if c.d.opcode = 0x54 then c.ownAt else c.bufAt 0) (p.2 * c.elem) with
    | (s, .ok, bs) =>
      let w := s.dstWrite env c (c.bufAt p.1) bs
      (w.1, w.2, sameFor sends bs)
    | (s, st, _) => (s, st, [])
  else if sends = [] then (s, .ok, [])
  else
    let p := c.shard (sends.head?.bind CollSend.shard)
    match s.dstRead env c (c.bufAt p.1) (p.2 * c.elem) with
    | (s, .ok, bs) => (s, .ok, sameFor sends bs)
    | (s, st, _) => (s, st, [])

/-- Step 0 of COMP_ALL_REDUCE: R286 with the streams in the own scratch area.  The last part is RESULT, or none when
R287 stops it. -/
def State.compressOwn (s : State) (env : Env) (c : CollInfo) : State × EngStat × Option Nat :=
  let m := c.d.fld 9 12 0
  let n := c.d.fld 9 28 16
  let r := c.d.fld 9 40 32
  let va := fun i => c.d.fld i 56 0
  match s.readRanges env c.d [(va 4, 4 * m * n), (va 5, 4 * m * n), (va 6, 4 * n * r)] with
  | (s, .ok, [g, e, q]) =>
    match gradCompress m n r (elemsOf 4 g) (elemsOf 4 e) (elemsOf 4 q) with
    | none => (s, .ok, none)
    | some z =>
      let own := c.g.scratch + c.slot c.me c.me 0
      let s := (s.writePool env c.g.pitch own z.u c.d.charge).writePool env c.g.pitch (own + c.streams.1) z.v c.d.charge
      let (s, st) := s.writeRanges env c.d [(va 5, f32Bytes z.e), (va 6, f32Bytes z.qs)]
      (s, st, some z.zeroed)
  | (s, st, _) => (s, st, some 0)

/-- Step 2 of COMP_ALL_REDUCE: the expansions of every rank's streams summed in ascending rank (R430). -/
def State.sumStreams (s : State) (env : Env) (c : CollInfo) : State × EngStat :=
  let m := c.d.fld 9 12 0
  let n := c.d.fld 9 28 16
  let r := c.d.fld 9 40 32
  let out := (List.range c.n).foldl (fun (acc : State × EngStat × Option (List Nat)) x =>
    match acc with
    | (s, .ok, cur) =>
      let bs := s.scratchRead env c (c.slot x c.me 0) (c.streams.1 + c.streams.2)
      let a := expandAll m n r (bs.2.2.drop 64) (bs.2.2.drop (c.streams.1 + 64))
      (bs.1, bs.2.1, some (match cur with
        | none => a
        | some v => collZip 0 v a))
    | _ => acc) (s, .ok, none)
  match out with
  | (s, .ok, some xs) => s.writeVirt env c.g.pitch c.d.record (c.d.fld 11 56 0) (f32Bytes xs) c.d.charge
  | (s, st, _) => (s, st)

/-- What a step forms. -/
def State.formStep (s : State) (env : Env) (c : CollInfo) : Formed :=
  match c.d.opcode with
  | 0x54 | 0x55 => s.formCopy env c
  | 0x56 =>
    if c.run.step = 1 then
      (match s.scratchRead env c (c.slot c.me c.me 0) (c.streams.1 + c.streams.2) with
        | (s, .ok, bs) => (s, .ok, sameFor (c.sends 1) bs)
        | (s, st, _) => (s, st, []))
    else if c.run.step = 2 then
      let r := s.sumStreams env c
      (r.1, r.2, [])
    else (s, .ok, [])
  | _ => match c.algo with
    | 0 => s.formMesh env c
    | 1 => s.formRing env c
    | _ => s.formTree env c

/-! ### The commands (R424 to R432) -/

/-- ALL_REDUCE, REDUCE_SCATTER, ALL_GATHER, BROADCAST and COMP_ALL_REDUCE: the checks, and the collective begins. -/
def State.beginColl (s : State) (id : DescId) (op : Nat) : State :=
  match s.collCmd id op with
  | none => s
  | some (d, _) =>
    if (s.eng.colls.any fun r => r.desc == id) = true then s
    else match s.groupOf id.pitch d.groupHandle with
      | none => s.endCmd d 0xA0
      | some g =>
        let r : CollRun := { desc := id, handle := d.groupHandle, seq := (g.started + 1) % 2 ^ 32, chunk := 0, step := 0,
                             started := false, untimed := false, flags := [], result := 0 }
        let c : CollInfo := { d, g, me := s.rankIn g, run := r }
        if ¬ d.timed then s.endCmd d 0xA6
        else if ¬ (if op = 0x56 then d.gradOk && s.algoOk op 0 g else s.collOk d g) then s.endCmd d 0x03
        else if g.scratchBytes < c.needed then s.endCmd d 0xA7 c.needed
        else
          let s := s.setGroup d.groupHandle { g with started := (g.started + 1) % 2 ^ 32 }
          { s with eng := { s.eng with colls := s.eng.colls ++ [r] } }

/-- DATA of the trace records of steps (R525). -/
def CollRun.traceData (r : CollRun) : Nat := r.chunk % 2 ^ 32 + r.step % 65536 * 2 ^ 32

/-- COLL_STEP_START (R426, R430, R432): the step's own arithmetic and the data it sends. -/
def State.opCollStepStart (s : State) (id : DescId) (env : Env) : State :=
  match s.collInfo id, s.collCmd id ((s.desc id).elim 0 Desc.opcode) with
  | some c, some (d, k) =>
    if c.run.started ∨ ¬ c.ready ∨ (¬ c.run.untimed ∧ s.now < c.stamp) then s
    else
      let s := if c.run.untimed then s.bump E.kettleStepsUntimed
        else if c.stamp < s.now then s.bump E.kettleStepsLate else s
      let s := s.descEvent d 3 0 (unitWord .kettle k) c.run.traceData
      let c := { c with run := { c.run with started := true } }
      if c.d.opcode = 0x56 ∧ c.run.step = 0 then
        if s.noneServes .bracken then s.failColl c 0x0B
        else match s.compressOwn env c with
          | (s, _, none) => s.failColl c 0xAB
          | (s, .ok, some z) => s.setRun { c.run with result := z }
          | (s, st, _) => s.failColl c (statOut st)
      else match s.formStep env c with
        | (s, .ok, out) =>
          (match s.sendAll env c out with
            | (s, .ok) => s.setRun c.run
            | (s, st) => s.failColl c (statOut st))
        | (s, st, _) => s.failColl c (statOut st)
  | _, _ => s

/-- COLL_STEP_END (R429): the flag lines follow the data; the last step of a chunk ends once everything of the chunk is
present, and the last of all ends the collective. -/
def State.opCollStepEnd (s : State) (id : DescId) : State :=
  match s.collInfo id, s.collCmd id ((s.desc id).elim 0 Desc.opcode) with
  | some c, some (d, k) =>
    let last := c.run.step + 1 = c.steps
    if ¬ c.run.started ∨ (last ∧ ¬ c.chunkIn) then s
    else
      let s := s.emitAll ((c.sends c.run.step).map fun x =>
        .collFlag (c.g.members.getD x.dest 0) c.g.pitch c.d.bclass c.me (flagLine c.g.hash c.run.seq c.run.chunk c.run.step false))
      let s := s.descEvent d 4 0 (unitWord .kettle k) c.run.traceData
      if last ∧ c.run.chunk + 1 = c.chunks then s.endColl c 0
      else s.setRun { c.run with
        started := false, step := if last then 0 else c.run.step + 1, chunk := if last then c.run.chunk + 1 else c.run.chunk }
  | _, _ => s

/-- What arrived with a flag is taken to DST where it is finished: results of ALL_REDUCE, and the last partial of a RING
REDUCE_SCATTER. -/
def State.takeData (s : State) (env : Env) (c : CollInfo) (x t : Nat) : State × EngStat :=
  match (collSends c.d.opcode c.algo c.n c.root x t).find? fun q => q.dest == c.me with
  | none => (s, .ok)
  | some q =>
    let p := c.shard q.shard
    if c.d.opcode = 0x52 ∧ q.fin then
      (match s.scratchF32 env c (c.slot x c.me t) p.2 with
        | (s, .ok, xs) => s.dstWrite env c (c.bufAt p.1) (c.narrow xs)
        | (s, st, _) => (s, st))
    else if c.d.opcode = 0x53 ∧ c.algo = 1 ∧ t + 2 = c.n then
      let r := s.finishPart env c c.ownAt (s.combine env c (some c.me) [some (c.slot x c.me t), none]) []
      (r.1, r.2.1)
    else (s, .ok)

/-- COLL_FLAG_RECEIVED (R429, R431): the flag line of a sender in the scratch area is examined. -/
def State.opCollFlag (s : State) (id : DescId) (x : Nat) (env : Env) : State :=
  match s.collInfo id with
  | none => s
  | some c =>
    if c.n ≤ x ∨ x = c.me ∨ s.stopped then s
    else match s.scratchRead env c (64 * x) 64 with
      | (s, .ok, bs) =>
        let w := fun i => leNat ((bs.drop (8 * i)).take 8)
        let chunk := w 1
        let t := bits (w 2) 31 0
        if bits (w 0) 31 0 ≠ c.g.hash ∨ bits (w 0) 63 32 ≠ c.run.seq then s.failColl c 0xA4
        else if bitOf (w 2) 32 then s.endColl c 0xA9
        else
          let f : CollFlag := { sender := x, chunk, step := t }
          let s := s.setRun { c.run with flags := c.run.flags ++ [f] }
          (match s.takeData env { c with run := { c.run with chunk } } x t with
            | (s, .ok) => s
            | (s, st) => s.failColl c (statOut st))
      | (s, st, _) => s.failColl c (statOut st)

/-- STEP_TIMEOUT_EXPIRY (R431): the inputs of a step, or the last data of a chunk, are missing. -/
def State.opStepTimeout (s : State) (id : DescId) : State :=
  match s.collInfo id with
  | none => s
  | some c =>
    let missing := (!c.run.started && !c.ready) || (c.run.started && c.run.step + 1 == c.steps && !c.chunkIn)
    if missing ∧ ¬ s.stopped then s.failColl c 0xA8 else s

end Sys2Proof.Machine
end

