-- ==== Sys2Proof/Machine/Ecdsa.lean ====
section
/-! DEFINITION. ECDSA over the curve P-384 (R409): verification as FIPS 186 lays it down, which the manual names and
does not repeat. -/

namespace Sys2Proof.Machine

/-- The field of P-384. -/
def ecP : Nat := 2 ^ 384 - 2 ^ 128 - 2 ^ 96 + 2 ^ 32 - 1

/-- The order of the base point. -/
def ecN : Nat := 0xffffffffffffffffffffffffffffffffffffffffffffffffc7634d81f4372ddf581a0db248b0a77aecec196accc52973

/-- The coefficient b of the curve y² = x³ − 3x + b. -/
def ecB : Nat := 0xb3312fa7e23ee7e4988e056be3f82d19181d9c6efe8141120314088f5013875ac656398d8a2ed19d2a85c8edd3ec2aef

/-- The base point. -/
def ecG : Nat × Nat :=
  (0xaa87ca22be8b05378eb1c71ef320ad746e1d3b628ba79b9859f741e082542a385502f25dbf55296c3a545e3872760ab7,
   0x3617de4a96262c6f5d9e98bf9292dc29f8f41dbd289a147ce9da3113b5f0b8c00a60b1ce1d7e819d7a431d7c90ea0e5f)

/-- b to the power e modulo m, by `fuel` bits of e. -/
def powMod (m : Nat) : Nat → Nat → Nat → Nat → Nat
  | 0, _, _, acc => acc
  | fuel + 1, b, e, acc => powMod m fuel (b * b % m) (e / 2) (if e % 2 = 1 then acc * b % m else acc)

/-- The inverse modulo a prime. -/
def invMod (m x : Nat) : Nat := powMod m 384 (x % m) (m - 2) 1

/-- Difference in the field. -/
def subP (a b : Nat) : Nat := (a + ecP - b % ecP) % ecP

/-- A point: none is the point at infinity. -/
abbrev EcPoint := Option (Nat × Nat)

/-- The sum of two points. -/
def ecAdd : EcPoint → EcPoint → EcPoint
  | none, q => q
  | p, none => p
  | some (x1, y1), some (x2, y2) =>
    if x1 = x2 ∧ (y1 + y2) % ecP = 0 then none
    else
      let l := if x1 = x2 then subP (3 * x1 * x1) 3 * invMod ecP (2 * y1) % ecP
        else subP y2 y1 * invMod ecP (subP x2 x1) % ecP
      let x := subP (subP (l * l) x1) x2
      some (x, subP (l * subP x1 x) y1)

/-- A multiple of a point, by `fuel` bits of k. -/
def ecMul : Nat → Nat → EcPoint → EcPoint
  | 0, _, _ => none
  | fuel + 1, k, p => ecAdd (if k % 2 = 1 then p else none) (ecMul fuel (k / 2) (ecAdd p p))

/-- The uncompressed point of 97 bytes (R465), if it lies on the curve. -/
def ecPoint (bs : List Byte) : EcPoint :=
  let x := beNat ((bs.drop 1).take 48)
  let y := beNat ((bs.drop 49).take 48)
  if bs.length = 97 ∧ bs.head? = some 0x04 ∧ x < ecP ∧ y < ecP ∧ (y * y) % ecP = (x * x * x + (ecP - 3) * x + ecB) % ecP
  then some (x, y) else none

/-- The signature r, s over a digest of 48 bytes is valid for the public key. -/
def ecdsaGood (key digest sig : List Byte) : Bool :=
  let r := beNat (sig.take 48)
  let t := beNat ((sig.drop 48).take 48)
  match ecPoint key with
  | none => false
  | some q =>
    if r = 0 ∨ ecN ≤ r ∨ t = 0 ∨ ecN ≤ t then false
    else
      let w := invMod ecN t
      let e := beNat digest
      match ecAdd (ecMul 384 (e * w % ecN) (some ecG)) (ecMul 384 (r * w % ecN) (some q)) with
      | none => false
      | some (x, _) => x % ecN == r

end Sys2Proof.Machine
end

