-- ==== Sys2Proof/Machine/Retire.lean ====
section
/-! DEFINITION. Stacked memory over its life: retirement, relocation and rebuild (R183 to R187, R499, R500), clearing (R62),
scrubbing (R178), the check-path test (R179) and GROUNDSHEET_BASE (R195). -/

namespace Sys2Proof.Machine

/-! ### What is retired (R184, R185) -/

/-- Slots of a stack in the unprotected part, and in the protected part. -/
def State.partSlots (s : State) (prot : Bool) : Nat :=
  if prot then stackSlots - s.protBase / 16 else s.protBase / 16

/-- Slots of retired units in a part. -/
def State.retiredSlots (s : State) (prot : Bool) : Nat :=
  sumBy (fun st => if s.stackState st = 5 then s.partSlots prot else s.retiredChannels st * (s.partSlots prot / 32))
    (List.range 16)

/-- Withdrawn pages of a part. -/
def State.withdrawnIn (s : State) (prot : Bool) : List Nat :=
  s.mem.withdrawn.filter fun p => (s.pagePlace p == .prot) == prot

/-- Pages that a part still has to withdraw. -/
def State.pagesLacking (s : State) (prot : Bool) : Nat :=
  cdiv (s.retiredSlots prot) 1024 - (s.withdrawnIn prot).length

/-- The stack and index of a line of a page; none without backing. -/
def State.lineSlot (s : State) (ln : Nat) : Option (Nat × Nat) :=
  match s.home ln with
  | .plain st k => some (st, k)
  | .prot _ _ st k => some (st, k)
  | .none => none

/-- Slots of withdrawn pages of a part that lie on retired units: they need no relocation. -/
def State.idleRetired (s : State) (prot : Bool) : Nat :=
  sumBy (fun p => ((List.range 1024).filter fun i => match s.lineSlot (1024 * p + i) with
    | some (st, k) => s.unitRetired st k
    | none => false).length) (s.withdrawnIn prot)

/-- Slots of a part that have been relocated. -/
def State.relocatedIn (s : State) (prot : Bool) : Nat :=
  (s.mem.reloc.filter fun e => decide (s.protBase / 16 ≤ e.1 % stackSlots) == prot).length

/-- RELOC_PENDING (R185): slots not yet relocated in the parts that lack pages. -/
def State.relocPending (s : State) : Nat :=
  sumBy (fun prot => if s.pagesLacking prot = 0 then 0
    else s.retiredSlots prot - s.relocatedIn prot - s.idleRetired prot) [false, true]

/-- The highest pages of free runs, the highest first. -/
def highestPages : Nat → List (Nat × Nat) → List Nat
  | _, [] => []
  | n, r :: rs =>
    let k := min n r.2
    ((List.range k).map fun i => r.1 + r.2 - 1 - i) ++ highestPages (n - k) rs

/-- Take the pages that a part lacks out of its free pool, from the highest local offsets (R184). -/
def State.withdraw (s : State) (prot : Bool) : State :=
  let n := s.pagesLacking prot
  if n = 0 then s
  else
    let ps := highestPages n (s.freeRuns (if prot then .prot else .plain)).reverse
    { s with mem := { s.mem with withdrawn := s.mem.withdrawn ++ ps } }

/-- Slots pass a test no more hold anything: words, relocations into them and out of them, and their use end. -/
def MemSt.dropSlots (m : MemSt) (f : Nat → Bool) : MemSt :=
  { m with
    bytes := SMap.keep (fun a => !f (a / 64)) m.bytes
    kinds := SMap.keep (fun k => !f k) m.kinds
    errs := SMap.keep (fun k => !f k) m.errs
    reloc := m.reloc.filter fun e => !f (e.2 - 1)
    used := SMap.keep (fun k => !f k) m.used
    fresh := SMap.keep (fun k => !f k) m.fresh }

/-- Pages are withdrawn for both parts. -/
def State.withdrawAll (s : State) : State := (s.withdraw false).withdraw true

/-- A channel of a stack is retired (R183, R184, R499). -/
def State.retireChannel (s : State) (st ch : Nat) : State :=
  if 16 ≤ st ∨ 32 ≤ ch ∨ s.stackState st = 5 ∨ bitOf (s.reg (E.stackRetiredChannels st)) ch then s
  else
    let s := s.setReg (E.stackRetiredChannels st) (s.reg (E.stackRetiredChannels st) + 2 ^ ch)
    let gone := fun slot => slot / stackSlots == st && channelOf (slot % stackSlots) == ch
    ({ s with mem := s.mem.dropSlots gone }.logEvent 0x0008 2 0xFFF (unitWord .stack st) (32 * st + ch)).withdrawAll

/-- A whole stack is retired (R183, R184). -/
def State.retireStack (s : State) (st : Nat) : State :=
  if 16 ≤ st ∨ s.stackState st = 5 then s
  else
    let s := s.setReg (E.stackState st) 5
    let m := s.mem.dropSlots fun slot => slot / stackSlots == st
    ({ s with mem := { m with stale := m.stale.filter (· != st) } }.logEvent 0x0009 3 0xFFF (unitWord .stack st) st).withdrawAll

/-- A write of RETIRE (R193). -/
def State.writeRetire (s : State) (st v : Nat) : State :=
  if v < 32 then s.retireChannel st v else if v = 32 then s.retireStack st else s.ignoreWrite

/-! ### REBUILD (R184, R187, R500) -/

/-- The next slot of a withdrawn page of a part that can take a relocated line. -/
def State.nextGoodSlot (s : State) (prot : Bool) : Option Nat :=
  (s.withdrawnIn prot).findSome? fun p => (List.range 1024).findSome? fun i =>
    match s.lineSlot (1024 * p + i) with
    | some (st, k) =>
      if s.stackState st = 3 ∧ ¬ s.unitRetired st k ∧ ¬ s.slotStale st k ∧
          ¬ SMap.get (fun _ => false) s.mem.used (slotOf st k) then some (slotOf st k) else none
    | none => none

/-- The data of protected slot `k` of stack `st` from its stripe: a data line as its contribution, or the parity
(R183, R554); and whether it could be had. -/
def State.stripeValue (s : State) (st k : Nat) : MemRes :=
  let t := k - s.protBase / 16
  if t % 16 = st then
    let r := s.readMates t 15
    let x := mateSum r.2
    ⟨r.1, x.2.isEmpty, x.1, otherStacks st⟩
  else
    let j := (st + 31 - t % 16) % 16
    let r := s.readParity t
    let q := r.1.readMates t j
    let x := mateSum q.2
    match r.2.1, x.2 with
    | some p, [] => ⟨q.1, true, p ^^^ x.1, otherStacks st⟩
    | _, _ => ⟨q.1, false, 0, otherStacks st⟩

/-- REBUILD has slots left on every stack of a cost this period (R187). -/
def State.systemFits (s : State) (a limit : Nat) (cost : List (Nat × Nat)) : Bool :=
  cost.all fun x => decide (SMap.get (fun _ => 0) (s.trailOf x.1).usedSys a + x.2 ≤ limit)

/-- Relocate protected slot `k` of stack `st` to a good slot. -/
def State.relocate (s : State) (st k slot : Nat) : State :=
  let m := s.stripeValue st k
  let s := m.s
  let t := k - s.protBase / 16
  let s := { s with mem := { s.mem with
      reloc := SMap.set (fun _ => 0) s.mem.reloc (slotOf st k) (slot + 1)
      used := SMap.set (fun _ => false) s.mem.used slot true
      exposed := if slot / stackSlots = st then s.mem.exposed else SMap.set (fun _ => false) s.mem.exposed t true } }
  let s := if m.ok then ((s.setSlot slot .codeword m.data 0).fixSecondStripe slot t 0 m.data).bump E.eccRebuiltLines
    else s.setSlot slot .poisoned 0 0
  s.chargeAll (.system 2) (m.cost ++ [(slot / stackSlots, 2)])

/-- Every protected slot of a stack that returned from a fence has been rewritten: the stack is whole again. -/
def State.settleStale (s : State) (st : Nat) : State :=
  if (s.mem.fresh.filter fun e => e.1 / stackSlots == st).length = s.partSlots true then
    { s with mem := { s.mem with
        stale := s.mem.stale.filter (· != st)
        fresh := SMap.keep (fun k => !(k / stackSlots == st)) s.mem.fresh } }
  else s

/-- REBUILD_LINE: slot `k` of stack `st` is relocated, or rewritten from its stripe after a fence (R184, R187, R500). -/
def State.opRebuild (s : State) (st k : Nat) : State :=
  let prot := decide (s.protBase / 16 ≤ k)
  let limit := s.reg E.eccRebuildSlots
  if ¬ s.coreOn then s
  else if s.unitRetired st k then
    if SMap.get (fun _ => 0) s.mem.reloc (slotOf st k) ≠ 0 then s
    else match s.nextGoodSlot prot with
      | none => s
      | some slot =>
        if prot then (if s.systemFits 2 limit (otherStacks st) then s.relocate st k slot else s)
        else if s.systemFits 2 limit [(slot / stackSlots, 1)] then
          let s := { s with mem := { s.mem with
              reloc := SMap.set (fun _ => 0) s.mem.reloc (slotOf st k) (slot + 1)
              used := SMap.set (fun _ => false) s.mem.used slot true } }
          (s.setSlot slot .poisoned 0 0).chargeAll (.system 2) [(slot / stackSlots, 1)]
        else s
  else if s.stackState st = 3 ∧ s.slotStale st k ∧ s.systemFits 2 limit (otherStacks st) then
    let m := s.stripeValue st k
    let s := m.s
    let s := if m.ok then (s.setSlot (slotOf st k) .codeword m.data 0).bump E.eccRebuiltLines
      else s.setSlot (slotOf st k) .poisoned 0 0
    let s := { s with mem := { s.mem with fresh := SMap.set (fun _ => false) s.mem.fresh (slotOf st k) true } }
    (s.chargeAll (.system 2) (m.cost ++ [(st, 1)])).settleStale st
  else s

/-! ### Clearing (R62) -/

/-- Move a clearing on to a line. -/
def State.clearNext (s : State) (i next : Nat) : State :=
  { s with region := { s.region with clearing := s.region.clearing.map fun c =>
      if c.index = i then { c with next } else c } }

/-- Clear a whole stripe: NW_WORD in all 16 slots that hold anything. -/
def State.clearStripe (s : State) (t : Nat) : State :=
  (List.range 16).foldl (fun s st => match s.place st (s.stripeIndex t) with
    | .here slot => s.setSlot slot .neverWritten 0 0
    | _ => s) s

/-- The slots that clearing a line takes, by stack. -/
def State.clearCost (s : State) (ln : Nat) : List (Nat × Nat) :=
  match s.home ln with
  | .plain st _ => [(st, 1)]
  | .prot t _ st _ => [(st, 2), (t % 16, 2)]
  | .none => []

/-- CLEAR_LINE: the next line of a region in CLEARING, or its whole stripe, is cleared within the slot limit (R62). -/
def State.opClearLine (s : State) (i ln : Nat) : State :=
  let r := s.regionAt i
  let stop := (r.basePage + r.pages) * 1024
  match s.region.clearing.find? fun c => c.index == i with
  | none => s
  | some c =>
    if c.next ≠ ln ∨ stop ≤ ln ∨ ¬ s.coreOn then s
    else match s.home ln with
      | .none => s.clearNext i (ln + 1)
      | .plain st k => match s.place st k with
        | .here _ =>
          if s.systemFits 0 4096 (s.clearCost ln) then
            let m := (s.settleLine ln).blankLine ln .neverWritten
            (m.s.chargeAll (.system 0) m.cost).clearNext i (ln + 1)
          else s
        | .lost => s.clearNext i (ln + 1)
        | _ => s
      | .prot t j st k =>
        let places := (List.range 16).map fun x => s.place x k
        if places.any fun q => q == .fenced || q == .offline then s
        else if j = 0 ∧ ln + 15 ≤ stop then
          let cost := ((List.range 16).filter fun x => s.place x k != .lost).map fun x => (x, 1)
          if s.systemFits 0 4096 cost then
            let s := (List.range 15).foldl (fun s n => s.settleLine (ln + n)) s
            ((s.clearStripe t).chargeAll (.system 0) cost).clearNext i (ln + 15)
          else s
        else if s.place st k = .lost then
          let m := (s.settleLine ln).blankLine ln .neverWritten
          (m.s.chargeAll (.system 0) m.cost).clearNext i (ln + 1)
        else if s.systemFits 0 4096 (s.clearCost ln) then
          let m := (s.settleLine ln).blankLine ln .neverWritten
          (m.s.chargeAll (.system 0) m.cost).clearNext i (ln + 1)
        else s

/-- CLEAR_DONE: every line is cleared and the peer has reported; the pages become free, or are withdrawn where a part
lacks pages, and the descriptor FREE; a lodged part's end is reported (R62, R185). -/
def State.opClearDone (s : State) (i : Nat) : State :=
  let r := s.regionAt i
  match s.region.clearing.find? fun c => c.index == i with
  | none => s
  | some c =>
    if c.peerOwed ∨ c.next < (r.basePage + r.pages) * 1024 ∨ r.state ≠ .clearing then s
    else
      let s := { s with region := { s.region with clearing := s.region.clearing.filter fun c => c.index != i } }
      let s := (s.setRegion i {}).withdrawAll
      if r.lodged then
        s.sendRegionMsg { peerPos := r.peerPos, kind := 1, index := r.peerIndex, originPos := s.reg E.idBoardPos,
                          originIndex := i }
      else s

/-! ### SCRUB (R178) -/

/-- The slot of a line whose word a physical slot holds: itself, or the retired slot relocated there. -/
def State.slotOwner (s : State) (slot : Nat) : Nat :=
  ((s.mem.reloc.find? fun e => e.2 == slot + 1).map fun e => e.1).getD slot

/-- The line at index `k` of stack `st`, none for a parity slot. -/
def State.lineAt (s : State) (st k : Nat) : Option Nat :=
  if k < s.protBase / 16 then some (16 * k + st)
  else
    let t := k - s.protBase / 16
    if t % 16 = st then none else some (s.protBase + 15 * t + (st + 31 - t % 16) % 16)

/-- SCRUB passes over a stack's slots; a pass over every serving stack counts (R195). -/
def State.scrubbed (s : State) (st k : Nat) : State :=
  if SMap.get (fun _ => 0) s.mem.scrub st ≠ k then s
  else
    let m := SMap.set (fun _ => 0) s.mem.scrub st (k + 1)
    if (List.range 16).all fun x => s.stackState x != 3 || SMap.get (fun _ => 0) m x == stackSlots then
      { s with mem := { s.mem with scrub := [] } }.bump E.eccScrubPasses
    else { s with mem := { s.mem with scrub := m } }

/-- SCRUB_LINE: a slot of a serving stack is read with the errors `err`; a correctable word is rewritten corrected, and an
uncorrectable one is handled as R173 states. -/
def State.opScrub (s : State) (st k err : Nat) : State :=
  if ¬ s.coreOn ∨ s.stackState st ≠ 3 ∨ s.unitRetired st k ∨ s.slotStale st k then s
  else
    let slot := slotOf st k
    let r := s.readSlot slot err
    let one := [(st, 1)]
    let s := match r with
      | .corrected d =>
        (((s.noteRead slot r).setSlot slot .codeword d 0).bump E.eccScrubCorrected).chargeAll (.system 1) [(st, 2)]
      | .uncorrectable =>
        let owner := s.slotOwner slot
        match s.lineAt (owner / stackSlots) (owner % stackSlots) with
        | some ln => let m := s.readLine ln err; m.s.chargeAll (.system 1) m.cost
        | none =>
          let m := s.stripeValue (owner / stackSlots) (owner % stackSlots)
          let s := (m.s.noteRead slot r).chargeAll (.system 1) (one ++ m.cost)
          if m.ok then s.setSlot slot .codeword m.data 0 else s
      | _ => s.chargeAll (.system 1) one
    s.scrubbed st k

/-! ### Writes of the protection entries (R179, R195) -/

/-- A write of TEST_ARM: 1 arms the test, 0 leaves it disarmed. -/
def State.writeTestArm (s : State) (v : Nat) : State := s.setReg E.eccTestArm (v % 2)

/-- A region in use has a page at or above a page of stacked memory. -/
def State.regionFrom (s : State) (page : Nat) : Bool :=
  s.region.table.any fun e => e.2.state != .free && decide (0 < e.2.pages) && decide (page < e.2.basePage + e.2.pages) &&
    decide (e.2.basePage < stackedLines / 1024)

/-- A write of GROUNDSHEET_BASE (R195). -/
def State.writeGroundsheet (s : State) (v : Nat) : State :=
  let none_ := (List.range 16).all fun st => s.stackState st != 5 && s.reg (E.stackRetiredChannels st) == 0
  let low := min v (s.reg E.eccGroundsheetBase)
  s.writeWhen (v % 0x400000000 == 0 && decide (v ≤ 0x10000000000) && none_ && !s.regionFrom (low / 65536)) fun s =>
    s.setRegs [(E.eccGroundsheetBase, v), (E.eccProtectedBytes, (0x10000000000 - v) / 16 * 15)]

/-- FULL_STRIPE_HOLD_EXPIRY: the held whole-line writes of a stripe go on as protected writes (R181). -/
def State.opHoldStripe (s : State) (t : Nat) : State :=
  if s.trail.gather.any fun g => g.1 == t then s.flushGather t else s

end Sys2Proof.Machine
end

