-- ==== Sys2Proof/Machine/Rv.lean ====
section
/-! DEFINITION. The scalar RISC-V subset of a Peg (R201, R202): field extraction, the integer operations of RV64I, M, Zba
and Zbb, the FP32 operations of F, and the expansion of compressed instructions.  R201 names published extensions;
what their instructions compute is taken from the published ISA (PRESUMED, note 40). -/

namespace Sys2Proof.Machine

/-- A 64-bit result. -/
def u64 (x : Nat) : Nat := x % 2 ^ 64

/-- A 32-bit result sign-extended to 64 bits. -/
def sx32 (x : Nat) : Nat := uns 64 (sgn 32 x)

/-- The two's complement of a number as 64 bits. -/
def ofInt64 (i : Int) : Nat := uns 64 i

/-- Sign extension of a `w`-bit field to 64 bits. -/
def sxw (w x : Nat) : Nat := uns 64 (sgn w x)

/-! ### Immediates -/

/-- I-type immediate. -/
def immI (w : Nat) : Nat := sxw 12 (bits w 31 20)

/-- S-type immediate. -/
def immS (w : Nat) : Nat := sxw 12 (bits w 31 25 * 32 + bits w 11 7)

/-- B-type immediate. -/
def immB (w : Nat) : Nat :=
  sxw 13 (bits w 31 31 * 4096 + bits w 7 7 * 2048 + bits w 30 25 * 32 + bits w 11 8 * 2)

/-- U-type immediate. -/
def immU (w : Nat) : Nat := sxw 32 (bits w 31 12 * 4096)

/-- J-type immediate. -/
def immJ (w : Nat) : Nat :=
  sxw 21 (bits w 31 31 * 2 ^ 20 + bits w 19 12 * 4096 + bits w 20 20 * 2048 + bits w 30 21 * 2)

/-! ### Integer operations -/

/-- Leading zeros of a `w`-bit number. -/
def clzW (w x : Nat) : Nat := if x % 2 ^ w = 0 then w else w - 1 - (x % 2 ^ w).log2

/-- Trailing zeros of a `w`-bit number. -/
def ctzW (w x : Nat) : Nat := ((List.range w).find? fun i => x.testBit i).getD w

/-- Set bits of a `w`-bit number. -/
def popW (w x : Nat) : Nat := ((List.range w).filter fun i => x.testBit i).length

/-- Rotate left. -/
def rolW (w x n : Nat) : Nat :=
  let x := x % 2 ^ w
  let n := n % w
  (x * 2 ^ n + x / 2 ^ (w - n)) % 2 ^ w

/-- Rotate right. -/
def rorW (w x n : Nat) : Nat := rolW w x (w - n % w)

/-- Arithmetic shift right of a `w`-bit number. -/
def sraW (w x n : Nat) : Nat := uns w (sgn w x / (2 ^ n : Nat))

/-- Signed division, rounding toward zero: −1 for a zero divisor, and the dividend on overflow. -/
def divS (w a b : Nat) : Nat :=
  if b % 2 ^ w = 0 then 2 ^ w - 1 else uns w ((sgn w a).tdiv (sgn w b))

/-- Unsigned division: all ones for a zero divisor. -/
def divU (w a b : Nat) : Nat := if b % 2 ^ w = 0 then 2 ^ w - 1 else a % 2 ^ w / (b % 2 ^ w)

/-- Signed remainder: the dividend for a zero divisor. -/
def remS (w a b : Nat) : Nat := if b % 2 ^ w = 0 then a % 2 ^ w else uns w ((sgn w a).tmod (sgn w b))

/-- Unsigned remainder. -/
def remU (w a b : Nat) : Nat := if b % 2 ^ w = 0 then a % 2 ^ w else a % 2 ^ w % (b % 2 ^ w)

/-- OR-combine of bytes. -/
def orcB (x : Nat) : Nat :=
  leNat ((leBytes 8 x).map fun b => if b = 0 then 0 else 0xFF)

/-- Byte reversal of 64 bits. -/
def rev8 (x : Nat) : Nat := leNat (leBytes 8 x).reverse

/-- OP: register and register, 64 bits; none is no instruction. -/
def aluOp (f7 f3 a b : Nat) : Option Nat :=
  let sa := sgn 64 a
  let sb := sgn 64 b
  match f7, f3 with
  | 0x00, 0 => some (u64 (a + b))
  | 0x20, 0 => some (u64 (a + 2 ^ 64 - b))
  | 0x00, 1 => some (u64 (a * 2 ^ (b % 64)))
  | 0x00, 2 => some (b2n (decide (sa < sb)))
  | 0x00, 3 => some (b2n (decide (a < b)))
  | 0x00, 4 => some (a ^^^ b)
  | 0x00, 5 => some (a / 2 ^ (b % 64))
  | 0x20, 5 => some (sraW 64 a (b % 64))
  | 0x00, 6 => some (a ||| b)
  | 0x00, 7 => some (a &&& b)
  | 0x01, 0 => some (u64 (a * b))
  | 0x01, 1 => some (uns 64 (sa * sb / (2 ^ 64 : Nat)))
  | 0x01, 2 => some (uns 64 (sa * (b : Int) / (2 ^ 64 : Nat)))
  | 0x01, 3 => some (u64 (a * b / 2 ^ 64))
  | 0x01, 4 => some (divS 64 a b)
  | 0x01, 5 => some (divU 64 a b)
  | 0x01, 6 => some (remS 64 a b)
  | 0x01, 7 => some (remU 64 a b)
  | 0x10, 2 => some (u64 (2 * a + b))
  | 0x10, 4 => some (u64 (4 * a + b))
  | 0x10, 6 => some (u64 (8 * a + b))
  | 0x20, 4 => some (2 ^ 64 - 1 - (a ^^^ b))
  | 0x20, 6 => some (a ||| (2 ^ 64 - 1 - b))
  | 0x20, 7 => some (a &&& (2 ^ 64 - 1 - b))
  | 0x05, 4 => some (if sa < sb then a else b)
  | 0x05, 5 => some (min a b)
  | 0x05, 6 => some (if sa < sb then b else a)
  | 0x05, 7 => some (max a b)
  | 0x30, 1 => some (rolW 64 a (b % 64))
  | 0x30, 5 => some (rorW 64 a (b % 64))
  | _, _ => none

/-- OP-32: the low words, the result sign-extended. -/
def aluOp32 (f7 f3 a b rs2 : Nat) : Option Nat :=
  let aw := a % 2 ^ 32
  let bw := b % 2 ^ 32
  match f7, f3 with
  | 0x00, 0 => some (sx32 (aw + bw))
  | 0x20, 0 => some (sx32 (aw + 2 ^ 32 - bw))
  | 0x00, 1 => some (sx32 (aw * 2 ^ (b % 32)))
  | 0x00, 5 => some (sx32 (aw / 2 ^ (b % 32)))
  | 0x20, 5 => some (sx32 (sraW 32 aw (b % 32)))
  | 0x01, 0 => some (sx32 (aw * bw))
  | 0x01, 4 => some (sx32 (divS 32 aw bw))
  | 0x01, 5 => some (sx32 (divU 32 aw bw))
  | 0x01, 6 => some (sx32 (remS 32 aw bw))
  | 0x01, 7 => some (sx32 (remU 32 aw bw))
  | 0x04, 0 => some (u64 (aw + b))
  | 0x10, 2 => some (u64 (2 * aw + b))
  | 0x10, 4 => some (u64 (4 * aw + b))
  | 0x10, 6 => some (u64 (8 * aw + b))
  | 0x04, 4 => if rs2 = 0 then some (a % 2 ^ 16) else none
  | 0x30, 1 => some (sx32 (rolW 32 aw (b % 32)))
  | 0x30, 5 => some (sx32 (rorW 32 aw (b % 32)))
  | _, _ => none

/-- OP-IMM: `w` is the instruction. -/
def aluImm (w a : Nat) : Option Nat :=
  let i := immI w
  let sh := bits w 25 20
  let f6 := bits w 31 26
  match bits w 14 12 with
  | 0 => some (u64 (a + i))
  | 2 => some (b2n (decide (sgn 64 a < sgn 64 i)))
  | 3 => some (b2n (decide (a < i)))
  | 4 => some (a ^^^ i)
  | 6 => some (a ||| i)
  | 7 => some (a &&& i)
  | 1 =>
    if f6 = 0 then some (u64 (a * 2 ^ sh))
    else match bits w 31 20 with
      | 0x600 => some (clzW 64 a)
      | 0x601 => some (ctzW 64 a)
      | 0x602 => some (popW 64 a)
      | 0x604 => some (sxw 8 a)
      | 0x605 => some (sxw 16 a)
      | _ => none
  | _ =>
    if f6 = 0 then some (a / 2 ^ sh)
    else if f6 = 0x10 then some (sraW 64 a sh)
    else if f6 = 0x18 then some (rorW 64 a sh)
    else if bits w 31 20 = 0x287 then some (orcB a)
    else if bits w 31 20 = 0x6B8 then some (rev8 a)
    else none

/-- OP-IMM-32. -/
def aluImm32 (w a : Nat) : Option Nat :=
  let sh := bits w 24 20
  let f7 := bits w 31 25
  let aw := a % 2 ^ 32
  match bits w 14 12 with
  | 0 => some (sx32 (aw + immI w))
  | 1 =>
    if f7 = 0 then some (sx32 (aw * 2 ^ sh))
    else if bits w 31 26 = 2 then some (u64 (aw * 2 ^ bits w 25 20))
    else match bits w 31 20 with
      | 0x600 => some (clzW 32 a)
      | 0x601 => some (ctzW 32 a)
      | 0x602 => some (popW 32 a)
      | _ => none
  | 5 =>
    if f7 = 0 then some (sx32 (aw / 2 ^ sh))
    else if f7 = 0x20 then some (sx32 (sraW 32 aw sh))
    else if f7 = 0x30 then some (sx32 (rorW 32 aw sh))
    else none
  | _ => none

/-- The condition of a branch; none is no instruction. -/
def branchTaken (f3 a b : Nat) : Option Bool :=
  match f3 with
  | 0 => some (a == b)
  | 1 => some (a != b)
  | 4 => some (decide (sgn 64 a < sgn 64 b))
  | 5 => some (decide (sgn 64 b ≤ sgn 64 a))
  | 6 => some (decide (a < b))
  | 7 => some (decide (b ≤ a))
  | _ => none

/-! ### FP32 (R202) -/

/-- The rounding mode that an rm field names; 7 is frm. -/
def rvRound (rm frm : Nat) : Option RoundMode :=
  match (if rm = 7 then frm else rm) with
  | 0 => some .rne
  | 1 => some .rtz
  | 2 => some .rdn
  | 3 => some .rup
  | 4 => some .rmm
  | _ => none

/-- Conversion of a value to an integer of `w` bits, saturated, with its flags. -/
def fvToInt (rm : RoundMode) (signed : Bool) (w : Nat) (v : Fv) : Nat × FFlags :=
  let lo : Int := if signed then -(2 ^ (w - 1) : Nat) else 0
  let hi : Int := if signed then (2 ^ (w - 1) : Nat) - 1 else (2 ^ w : Nat) - 1
  match v with
  | .nan => (uns w hi, ffNv)
  | .inf neg => (uns w (if neg then lo else hi), ffNv)
  | _ => match v.toInt rm with
    | some (i, nx) => if i < lo then (uns w lo, ffNv) else if hi < i then (uns w hi, ffNv) else (uns w i, b2n nx)
    | none => (0, ffNv)

/-- FCLASS. -/
def fclass (f : Fmt) (x : Nat) : Nat :=
  let neg := decide (f.signBit ≤ x % 2 ^ f.bits)
  match f.decode x with
  | .nan => if f.isSnan x then 2 ^ 8 else 2 ^ 9
  | .inf n => if n then 1 else 2 ^ 7
  | .fin _ m _ =>
    let sub := decide (m < 2 ^ (f.p - 1))
    if m = 0 then (if neg then 2 ^ 3 else 2 ^ 4)
    else if sub then (if neg then 2 ^ 2 else 2 ^ 5)
    else if neg then 2 ^ 1 else 2 ^ 6

/-- FMIN and FMAX: a NaN gives way to a number, and −0 is less than +0. -/
def fminmax (f : Fmt) (isMax : Bool) (a b : Nat) : Nat × FFlags :=
  let x := f.decode a
  let y := f.decode b
  let fl := nvFlag (f.isSnan a || f.isSnan b)
  if x = .nan ∧ y = .nan then (f.qnan, fl)
  else if x = .nan then (b, fl)
  else if y = .nan then (a, fl)
  else
    let less := x.lt y || (x.eq y && x.sign && !y.sign)
    (if less != isMax then a else b, fl)

/-- Sign injection: 0 copy, 1 negate, 2 XOR. -/
def fsgnj (f : Fmt) (mode a b : Nat) : Nat :=
  let m := a % f.signBit
  let sa := decide (f.signBit ≤ a)
  let sb := decide (f.signBit ≤ b)
  let s := match mode with
    | 0 => sb
    | 1 => !sb
    | _ => sa != sb
  m + if s then f.signBit else 0

/-- Comparisons: 2 equal, 1 less, 0 less or equal; the latter two signal on any NaN. -/
def fcompare (f : Fmt) (kind a b : Nat) : Nat × FFlags :=
  let x := f.decode a
  let y := f.decode b
  let nan := x == .nan || y == .nan
  match kind with
  | 2 => (b2n (x.eq y), nvFlag (f.isSnan a || f.isSnan b))
  | 1 => (b2n (x.lt y), nvFlag nan)
  | _ => (b2n (x.le y), nvFlag nan)

/-! ### Compressed instructions (C) -/

/-- An R-type word. -/
def encR (f7 rs2 rs1 f3 rd op : Nat) : Nat :=
  f7 * 2 ^ 25 + rs2 * 2 ^ 20 + rs1 * 2 ^ 15 + f3 * 2 ^ 12 + rd * 2 ^ 7 + op

/-- An I-type word. -/
def encI (imm rs1 f3 rd op : Nat) : Nat := imm % 4096 * 2 ^ 20 + rs1 * 2 ^ 15 + f3 * 2 ^ 12 + rd * 2 ^ 7 + op

/-- An S-type word. -/
def encS (imm rs2 rs1 f3 op : Nat) : Nat :=
  bits imm 11 5 * 2 ^ 25 + rs2 * 2 ^ 20 + rs1 * 2 ^ 15 + f3 * 2 ^ 12 + bits imm 4 0 * 2 ^ 7 + op

/-- A B-type word. -/
def encB (imm rs2 rs1 f3 : Nat) : Nat :=
  bits imm 12 12 * 2 ^ 31 + bits imm 10 5 * 2 ^ 25 + rs2 * 2 ^ 20 + rs1 * 2 ^ 15 + f3 * 2 ^ 12 + bits imm 4 1 * 2 ^ 8 +
    bits imm 11 11 * 2 ^ 7 + 0x63

/-- A J-type word. -/
def encJ (imm rd : Nat) : Nat :=
  bits imm 20 20 * 2 ^ 31 + bits imm 10 1 * 2 ^ 21 + bits imm 11 11 * 2 ^ 20 + bits imm 19 12 * 2 ^ 12 + rd * 2 ^ 7 + 0x6F

/-- The 6-bit immediate of CI forms, sign-extended to 12 bits. -/
def cImm (h : Nat) : Nat := uns 12 (sgn 6 (bits h 12 12 * 32 + bits h 6 2))

/-- Quadrant 0. -/
def expandC0 (h : Nat) : Option Nat :=
  let rd := 8 + bits h 4 2
  let rs := 8 + bits h 9 7
  let offW := bits h 12 10 * 8 + bits h 6 6 * 4 + bits h 5 5 * 64
  let offD := bits h 12 10 * 8 + bits h 6 5 * 64
  match bits h 15 13 with
  | 0 =>
    let imm := bits h 12 11 * 16 + bits h 10 7 * 64 + bits h 6 6 * 4 + bits h 5 5 * 8
    if imm = 0 then none else some (encI imm 2 0 rd 0x13)
  | 2 => some (encI offW rs 2 rd 0x03)
  | 3 => some (encI offD rs 3 rd 0x03)
  | 6 => some (encS offW rd rs 2 0x23)
  | 7 => some (encS offD rd rs 3 0x23)
  | _ => none

/-- Quadrant 1. -/
def expandC1 (h : Nat) : Option Nat :=
  let r := bits h 11 7
  let rs := 8 + bits h 9 7
  let rt := 8 + bits h 4 2
  let imm := cImm h
  let offJ := sxw 12 (bits h 12 12 * 2048 + bits h 11 11 * 16 + bits h 10 9 * 256 + bits h 8 8 * 1024 + bits h 7 7 * 64 +
    bits h 6 6 * 128 + bits h 5 3 * 2 + bits h 2 2 * 32)
  let offB := sxw 9 (bits h 12 12 * 256 + bits h 11 10 * 8 + bits h 6 5 * 64 + bits h 4 3 * 2 + bits h 2 2 * 32)
  match bits h 15 13 with
  | 0 => some (encI imm r 0 r 0x13)
  | 1 => if r = 0 then none else some (encI imm r 0 r 0x1B)
  | 2 => some (encI imm 0 0 r 0x13)
  | 3 =>
    if r = 2 then
      let i := uns 12 (sgn 10 (bits h 12 12 * 512 + bits h 6 6 * 16 + bits h 5 5 * 64 + bits h 4 3 * 128 + bits h 2 2 * 32))
      if i = 0 then none else some (encI i 2 0 2 0x13)
    else
      let i := uns 20 (sgn 6 (bits h 12 12 * 32 + bits h 6 2))
      if i = 0 then none else some (i * 4096 + r * 128 + 0x37)
  | 4 =>
    let sh := bits h 12 12 * 32 + bits h 6 2
    match bits h 11 10 with
    | 0 => some (encI sh rs 5 rs 0x13)
    | 1 => some (encI (0x400 + sh) rs 5 rs 0x13)
    | 2 => some (encI imm rs 7 rs 0x13)
    | _ => match bits h 12 12, bits h 6 5 with
      | 0, 0 => some (encR 0x20 rt rs 0 rs 0x33)
      | 0, 1 => some (encR 0 rt rs 4 rs 0x33)
      | 0, 2 => some (encR 0 rt rs 6 rs 0x33)
      | 0, _ => some (encR 0 rt rs 7 rs 0x33)
      | _, 0 => some (encR 0x20 rt rs 0 rs 0x3B)
      | _, 1 => some (encR 0 rt rs 0 rs 0x3B)
      | _, _ => none
  | 5 => some (encJ offJ 0)
  | 6 => some (encB offB 0 rs 0)
  | _ => some (encB offB 0 rs 1)

/-- Quadrant 2. -/
def expandC2 (h : Nat) : Option Nat :=
  let r := bits h 11 7
  let t := bits h 6 2
  match bits h 15 13 with
  | 0 => some (encI (bits h 12 12 * 32 + t) r 1 r 0x13)
  | 2 => if r = 0 then none else some (encI (bits h 12 12 * 32 + bits h 6 4 * 4 + bits h 3 2 * 64) 2 2 r 0x03)
  | 3 => if r = 0 then none else some (encI (bits h 12 12 * 32 + bits h 6 5 * 8 + bits h 4 2 * 64) 2 3 r 0x03)
  | 4 =>
    if bits h 12 12 = 0 then
      if t = 0 then (if r = 0 then none else some (encI 0 r 0 0 0x67)) else some (encR 0 t 0 0 r 0x33)
    else if t = 0 then (if r = 0 then some 0x00100073 else some (encI 0 r 0 1 0x67))
    else some (encR 0 t r 0 r 0x33)
  | 6 => some (encS (bits h 12 9 * 4 + bits h 8 7 * 64) t 2 2 0x23)
  | 7 => some (encS (bits h 12 10 * 8 + bits h 9 7 * 64) t 2 3 0x23)
  | _ => none

/-- The 32-bit instruction that a compressed one stands for; FP loads and stores of C need D and are none (R201). -/
def expandC (h : Nat) : Option Nat :=
  match h % 4 with
  | 0 => expandC0 h
  | 1 => expandC1 h
  | 2 => expandC2 h
  | _ => none

end Sys2Proof.Machine
end

