-- ==== Sys2Proof/Machine/Peg.lean ====
section
/-! DEFINITION. Pegs: the kernel that a Bivouac runs, its end, traps, addresses and accesses (R204 to R207, R223 to
R228). -/

namespace Sys2Proof.Machine

/-! ### The running kernel -/

/-- The descriptor and partition of the kernel that logical Bivouac `b` runs. -/
def State.kernelOf (s : State) (b : Nat) : Option (Desc × Nat) :=
  match (s.bivAt b).kernel with
  | some (id, part, _) => (s.desc id).map fun d => (d, part)
  | none => none

/-- Peg `g` of logical Bivouac `b`. -/
def State.peg (s : State) (b g : Nat) : Option Peg := (s.bivAt b).pegs[g]?

/-- Set a Peg. -/
def State.setPeg (s : State) (b g : Nat) (p : Peg) : State :=
  let x := s.bivAt b
  s.setBiv b { x with pegs := x.pegs.set g p }

/-- Integer register `r`; x0 reads as zero. -/
def Peg.reg (p : Peg) (r : Nat) : Nat := if r = 0 then 0 else SMap.get (fun _ => 0) p.x r

/-- Write integer register `r`; x0 discards it. -/
def Peg.setReg (p : Peg) (r v : Nat) : Peg :=
  if r = 0 then p else { p with x := SMap.set (fun _ => 0) p.x r (v % 2 ^ 64) }

/-- FP register `r`. -/
def Peg.freg (p : Peg) (r : Nat) : Nat := SMap.get (fun _ => 0) p.f r

/-- Write FP register `r`. -/
def Peg.setFreg (p : Peg) (r v : Nat) : Peg := { p with f := SMap.set (fun _ => 0) p.f r (v % 2 ^ 32) }

/-- Accrue FP flags. -/
def Peg.accrue (p : Peg) (fl : FFlags) : Peg := { p with fflags := p.fflags ||| fl }

/-- The instruction retires: the pc moves on by its length. -/
def Peg.retire (p : Peg) (n : Nat) : Peg :=
  { p with pc := (p.pc + n) % 2 ^ 64, instret := p.instret + 1, waiting := none, stageWait := false }

/-! ### The end of a kernel (R226, R227) -/

/-- The kernel of a Bivouac ends with a status: Pegs and Ridgepole stop, staged chunks of the partition are released,
and the partition ends. -/
def State.endKernel (s : State) (b : Nat) (o : DescOut) : State :=
  match (s.bivAt b).kernel with
  | none => s
  | some (id, part, _) =>
    let x := s.bivAt b
    let s := s.setBiv b { x with
      kernel := none, pegs := [], code := [], rpQueue := [], rpRun := false, rpBusy := false, rpWait := false
      bufs := x.bufs.filter fun c => !(c.desc == id && c.part == part)
      staged := x.staged.filter fun c => !(c.1 == id && c.2.1 == part) }
    let s := match s.physOf b with
      | some n => (s.setReg (E.bivState n) 1).bump (E.bivDescriptors n)
      | none => s
    s.endPart id part o

/-- A trap of Peg `g` ends the kernel at once (R227): CAUSE 0x40 is poison, anything else a kernel fault. -/
def State.pegTrap (s : State) (b g cause tval : Nat) : State :=
  let s := match s.physOf b with
    | some n =>
      let s := s.setRegs [(E.bivLastFault n, cause + g * 256), (E.bivLastFaultAddr n, tval % 2 ^ 64)]
      s.bump (if cause = 0x40 then E.bivPoisonEvents n else E.bivKernelFaults n)
    | none => s
  s.endKernel b { status := if cause = 0x40 then 0x08 else 0x09, detail := cause }

/-! ### The aperture (R205, R206) -/

/-- A line of the upper part of the Sward belongs to a mapped SWARD region that the pitch owns or aliases (R60, R206). -/
def State.swardRights (s : State) (b p line : Nat) (write : Bool) : Bool :=
  (s.engineViolation p p (0x20000000000 + (b * 65536 + line) * 64) write).isNone

/-- The staged copy, of a region of pitch `p` on Bivouac `b`, that holds a line of its Sward: its fill mark, and the
line's place in the region (R50, R206). -/
def State.copyLine (s : State) (b p line : Nat) : Option (Nat × Nat) :=
  let page := swardBase + 64 * b + line / 1024
  (s.sward.staged.find? fun c => c.biv == b && c.pages.contains page && (s.regionAt c.region).owner == p).map fun c =>
    (c.mark, c.pages.idxOf page * 1024 + line % 1024)

/-- A Peg may access a line of its Bivouac's Sward in a direction (R206). -/
def State.apertureOk (s : State) (b p line : Nat) (write : Bool) : Bool :=
  if line < 12288 then !write
  else if line < 16384 then true
  else decide (line < 65536) && (s.swardRights b p line write || (!write && (s.copyLine b p line).isSome))

/-- A line of a staged copy has not been filled yet: its readers wait (R190, R191). -/
def State.copyUnfilled (s : State) (b p line : Nat) : Bool :=
  match s.copyLine b p line with
  | some (mark, place) => decide (16384 ≤ line ∧ mark ≤ place)
  | none => false

/-- A line of an aperture range waits for its fill mark. -/
def State.rangeUnfilled (s : State) (b p off len : Nat) : Bool :=
  (List.range (cdiv len 64)).any fun i => s.copyUnfilled b p (off / 64 + i)

/-! ### Accesses of a Peg -/

/-- How an access of a Peg ends. -/
inductive PegEnd where
  | ok
  /-- CAUSE of the trap; 0x40 is poison. -/
  | trap (cause tval : Nat)
  /-- It waits for a staged copy to be filled (R191). -/
  | wait
  deriving DecidableEq, Repr

/-- Whose access it is: Bivouac, Peg, descriptor and partition. -/
structure PegWho where
  b : Nat
  g : Nat
  d : Desc
  part : Nat
  deriving DecidableEq, Repr

/-- The operand of a descriptor that covers an address, in a direction (R205, R245). -/
def operandAt (d : Desc) (va : Nat) (write : Bool) : Bool :=
  d.operands.any fun r => decide (r.va ≤ va) && decide (va < r.va + r.len) && (if write then r.write else r.read)

/-- The staged copy of the region that covers a local line, on Bivouac `b` (R51, R191): its fill mark and the line's
place in the region. -/
def State.stagedAt (s : State) (b off : Nat) : Option (Nat × Nat) :=
  match s.coverOf (off / 65536) with
  | some (i, r) =>
    if r.placement = 2 then
      (s.sward.staged.find? fun c => c.region == i && c.biv == b).map fun c => (c.mark, off / 64 - r.basePage * 1024)
    else none
  | none => none

/-- What an engine access ends in for a Peg (R227, R253). -/
def pegStat (st : EngStat) (cause va : Nat) : PegEnd :=
  match st with
  | .ok => .ok
  | .poison => .trap 0x40 va
  | _ => .trap cause va

/-- A Peg reads bytes of one line at a virtual address or in the aperture. -/
def State.pegReadLine (s : State) (env : Env) (w : PegWho) (va : Nat) (need : Mask) (cause : Nat) :
    State × PegEnd × Line :=
  let p := w.d.id.pitch
  let k := w.d.bclass
  if apertureBase ≤ va then
    let line := (va - apertureBase) / 64
    if ¬ s.apertureOk w.b p line false then (s, .trap cause va, 0)
    else if s.copyUnfilled w.b p line then (s, .wait, 0)
    else match s.swardRead (swardLine w.b line) with
      | (s, some d) => (s, .ok, d)
      | (s, none) => (s, .trap 0x40 va, 0)
  else if 2 ^ 57 ≤ va then (s, .trap cause va, 0)
  else match recordAddr w.d.record va with
    | none => (s, .trap cause va, 0)
    | some (x, a) =>
      let line := a / 64 * 64
      let off := bits line 41 0
      if x.host ∨ targetOf off ≠ .stacked then
        let r := s.targetRead env p x line (.cls k)
        (r.s, pegStat r.st cause va, r.data)
      else match (if bits line 51 42 = s.deviceNumber then s.stagedAt w.b off else none) with
        | some (mark, place) =>
          if mark ≤ place then (s, .wait, 0)
          else match s.engineViolation p p off false with
            | some c => (s.bump c, .ok, 0)
            | none => let m := s.readLine (off / 64) 0; (m.s, if m.ok then .ok else .trap 0x40 va, m.data)
        | none =>
          let r := s.wbRead env w.b p w.d.id line need k
          (r.s, pegStat r.st cause va, r.data)

/-- A Peg loads `len` bytes (R205, R207): every byte must lie in an operand range or in the aperture. -/
def State.pegLoad (s : State) (env : Env) (w : PegWho) (va len cause : Nat) : State × PegEnd × Nat :=
  let bad := decide (va < apertureBase) &&
    !((linePieces va len).all fun q => operandAt w.d (q.1 + q.2.1) false && operandAt w.d (q.1 + q.2.1 + q.2.2 - 1) false)
  if bad ∨ 2 ^ 64 < va + len then (s, .trap cause va, 0)
  else
    let r := (linePieces va len).foldl (fun (acc : State × PegEnd × List Byte) q =>
      match acc with
      | (s, .ok, bs) =>
        match s.pegReadLine env w (q.1 + q.2.1) (rangeMask q.2.1 q.2.2) cause with
        | (s, .ok, d) => (s, .ok, bs ++ pieceBytes d q.2.1 q.2.2)
        | (s, e, _) => (s, e, bs)
      | _ => acc) (s, .ok, [])
    (r.1, r.2.1, leNat r.2.2)

/-- Reservations of other Pegs on a line end (R150). -/
def State.loseReservations (s : State) (b g line : Nat) : State :=
  let x := s.bivAt b
  s.setBiv b { x with pegs := x.pegs.zipIdx.map fun q =>
    if q.2 ≠ g ∧ q.1.resv = some line then { q.1 with resv := none } else q.1 }

/-- A Peg writes bytes of one line. -/
def State.pegWriteLine (s : State) (env : Env) (w : PegWho) (va : Nat) (mask : Mask) (d : Line) : State × PegEnd :=
  let p := w.d.id.pitch
  let k := w.d.bclass
  if apertureBase ≤ va then
    let line := (va - apertureBase) / 64
    if ¬ s.apertureOk w.b p line true then (s, .trap 7 va) else ((s.swardWrite (swardLine w.b line) mask d).1, .ok)
  else if 2 ^ 57 ≤ va then (s, .trap 7 va)
  else match recordAddr w.d.record va with
    | none => (s, .trap 7 va)
    | some (x, a) =>
      let line := a / 64 * 64
      let off := bits line 41 0
      if x.host ∨ targetOf off ≠ .stacked then
        let r := s.targetWrite env p x line mask d (.cls k)
        (r.1, if r.2 = .linkLost ∨ r.2 = .timedOut then .trap 7 va else .ok)
      else
        let viol := if bits line 51 42 = s.deviceNumber then s.engineViolation p p off true else none
        match viol with
        | some c => (s.bump c, .ok)
        | none => ((s.wbStore env w.b p w.d.id line mask d k).loseReservations w.b w.g line, .ok)

/-- A Peg stores `len` bytes of a number. -/
def State.pegStore (s : State) (env : Env) (w : PegWho) (va len x : Nat) : State × PegEnd :=
  let bad := decide (va < apertureBase) &&
    !((linePieces va len).all fun q => operandAt w.d (q.1 + q.2.1) true && operandAt w.d (q.1 + q.2.1 + q.2.2 - 1) true)
  if bad ∨ 2 ^ 64 < va + len then (s, .trap 7 va)
  else (linePieces va len).foldl (fun (acc : State × PegEnd) q =>
    match acc with
    | (s, .ok) => s.pegWriteLine env w (q.1 + q.2.1) (rangeMask q.2.1 q.2.2)
        (placeBytes q.2.1 q.2.2 (x / 2 ^ (8 * (q.1 + q.2.1 - va)) % 2 ^ (8 * q.2.2)))
    | _ => acc) (s, .ok)

/-! ### Instruction fetch (R225) -/

/-- A line of code, from the shared instruction cache or from memory: none is no line. -/
def State.codeLine (s : State) (env : Env) (w : PegWho) (line : Nat) : State × Option Line :=
  match (s.bivAt w.b).code.find? fun c => c.1 == line with
  | some c => (s, c.2)
  | none =>
    match recordAddr w.d.record (max line (w.d.fld 4 56 0)) with
    | none => (s, none)
    | some (x, a) =>
      let r := s.targetRead env w.d.id.pitch x (a / 64 * 64) w.d.charge
      let v := if r.st = .ok then some r.data else none
      let y := r.s.bivAt w.b
      (r.s.setBiv w.b { y with code := (line, v) :: y.code }, v)

/-- Two bytes of code: none is an instruction access fault. -/
def State.codeHalf (s : State) (env : Env) (w : PegWho) (pc : Nat) : State × Option Nat :=
  let r := w.d.codeRange
  if pc < r.va ∨ r.va + r.len < pc + 2 then (s, none)
  else match s.codeLine env w (pc / 64 * 64) with
    | (s, some d) => (s, some (takeBytes d (pc % 64) 2))
    | (s, none) => (s, none)

/-- Fetch the instruction at the pc: its length, its bits as fetched, and its 32-bit form; none is an instruction access
fault. -/
def State.fetchInsn (s : State) (env : Env) (w : PegWho) (pc : Nat) : State × Option (Nat × Nat × Option Nat) :=
  match s.codeHalf env w pc with
  | (s, none) => (s, none)
  | (s, some lo) =>
    if lo % 4 ≠ 3 then (s, some (2, lo, expandC lo))
    else match s.codeHalf env w (pc + 2) with
      | (s, none) => (s, none)
      | (s, some hi) => (s, some (4, lo + hi * 65536, some (lo + hi * 65536)))

/-- The context of a command on a Peg: the kernel runs, the Peg has not exited, and no stop holds it (R530). -/
def State.pegContext (s : State) (b g : Nat) : Option (PegWho × Peg) :=
  if s.stopped ∨ ¬ s.coreOn then none
  else match s.kernelOf b, s.peg b g with
    | some (d, part), some p => if p.exited.isSome then none else some ({ b, g, d, part }, p)
    | _, _ => none

/-- Put a Peg back after an access that changed the device. -/
def State.finishPeg (s : State) (w : PegWho) (p : Peg) (e : PegEnd) : State :=
  match e with
  | .ok => s.setPeg w.b w.g p
  | .trap c v => s.pegTrap w.b w.g c v
  | .wait => match (s.bivAt w.b).pegs[w.g]? with
    | some q => s.setPeg w.b w.g { q with stageWait := true }
    | none => s

end Sys2Proof.Machine
end

