-- ==== Sys2Proof/Machine/PegExec.lean ====
section
/-! DEFINITION. Scalar instructions of a Peg (R201, R202, R204, R207) and its AMO, LR and SC instructions (R150). -/

namespace Sys2Proof.Machine

/-! ### Control and status registers of user mode (R201, R204) -/

/-- Read a CSR; none is no CSR of user mode. -/
def State.csrRead (s : State) (w : PegWho) (p : Peg) (n : Nat) : Option Nat :=
  match n with
  | 0x001 => some p.fflags
  | 0x002 => some p.frm
  | 0x003 => some (p.fflags + 32 * p.frm)
  | 0x008 => some p.vstart
  | 0x009 => some p.vxsat
  | 0x00A => some p.vxrm
  | 0x00F => some (p.vxsat + 2 * p.vxrm)
  | 0xC00 => some (match (s.bivAt w.b).kernel with
    | some (_, _, t) => s.cclk - t
    | none => 0)
  | 0xC01 => some s.now
  | 0xC02 => some p.instret
  | 0xC20 => some p.vl
  | 0xC21 => some p.vtype
  | 0xC22 => some 64
  | _ => none

/-- Write a CSR of user mode; none is one that cannot be written. -/
def csrWrite (p : Peg) (n v : Nat) : Option Peg :=
  match n with
  | 0x001 => some { p with fflags := v % 32 }
  | 0x002 => some { p with frm := v % 8 }
  | 0x003 => some { p with fflags := v % 32, frm := v / 32 % 8 }
  | 0x008 => some { p with vstart := v % 512 }
  | 0x009 => some { p with vxsat := v % 2 }
  | 0x00A => some { p with vxrm := v % 4 }
  | 0x00F => some { p with vxsat := v % 2, vxrm := v / 2 % 4 }
  | _ => none

/-- CSR instructions: none is an illegal instruction. -/
def State.csrOp (s : State) (w : PegWho) (p : Peg) (i : Nat) : Option Peg :=
  let n := bits i 31 20
  let f3 := bits i 14 12
  let rs := bits i 19 15
  let src := if f3 < 4 then p.reg rs else rs
  match s.csrRead w p n with
  | none => none
  | some old =>
    let writes := f3 % 4 = 1 ∨ rs ≠ 0
    let v := match f3 % 4 with
      | 1 => src
      | 2 => old ||| src
      | _ => old &&& (2 ^ 64 - 1 - src)
    if f3 % 4 = 0 then none
    else if writes then (csrWrite p n v).map fun p => p.setReg (bits i 11 7) old
    else some (p.setReg (bits i 11 7) old)

/-! ### FP32 register operations -/

/-- OP-FP: none is an illegal instruction. -/
def fpOp (p : Peg) (i : Nat) : Option Peg :=
  let rd := bits i 11 7
  let rm := bits i 14 12
  let a := p.freg (bits i 19 15)
  let b := p.freg (bits i 24 20)
  let rs2 := bits i 24 20
  let x := p.reg (bits i 19 15)
  let rounded := fun (f : RoundMode → Nat × FFlags) => (rvRound rm p.frm).map fun m =>
    let r := f m
    (p.setFreg rd r.1).accrue r.2
  let toInt := fun (signed : Bool) (wd : Nat) => (rvRound rm p.frm).map fun m =>
    let r := fvToInt m signed wd (fp32.decode a)
    (p.setReg rd (if wd = 32 then sx32 r.1 else r.1)).accrue r.2
  let ofInt := fun (v : Int) => rounded fun m => fp32.encode m (Fv.ofInt v)
  match bits i 31 25 with
  | 0x00 => rounded fun m => fp32.add m a b
  | 0x04 => rounded fun m => fp32.add m a (fsgnj fp32 1 b b)
  | 0x08 => rounded fun m => fp32.mul m a b
  | 0x0C => rounded fun m => fp32.div m a b
  | 0x2C => if rs2 = 0 then rounded fun m => fp32.sqrt m a else none
  | 0x10 => if rm ≤ 2 then some (p.setFreg rd (fsgnj fp32 rm a b)) else none
  | 0x14 => if rm ≤ 1 then let r := fminmax fp32 (rm == 1) a b; some ((p.setFreg rd r.1).accrue r.2) else none
  | 0x50 => if rm ≤ 2 then let r := fcompare fp32 rm a b; some ((p.setReg rd r.1).accrue r.2) else none
  | 0x60 => match rs2 with
    | 0 => toInt true 32
    | 1 => toInt false 32
    | 2 => toInt true 64
    | 3 => toInt false 64
    | _ => none
  | 0x68 => match rs2 with
    | 0 => ofInt (sgn 32 x)
    | 1 => ofInt (x % 2 ^ 32 : Nat)
    | 2 => ofInt (sgn 64 x)
    | 3 => ofInt (x : Nat)
    | _ => none
  | 0x70 =>
    if rs2 ≠ 0 then none
    else if rm = 0 then some (p.setReg rd (sx32 a))
    else if rm = 1 then some (p.setReg rd (fclass fp32 a))
    else none
  | 0x78 => if rs2 = 0 ∧ rm = 0 then some (p.setFreg rd x) else none
  | _ => none

/-- The fused multiply-adds. -/
def fmaOp (p : Peg) (i : Nat) : Option Peg :=
  if bits i 26 25 ≠ 0 then none
  else (rvRound (bits i 14 12) p.frm).map fun m =>
    let op := bits i 6 2
    let r := fp32.fma m (op == 0x12 || op == 0x13) (op == 0x11 || op == 0x13) (p.freg (bits i 19 15))
      (p.freg (bits i 24 20)) (p.freg (bits i 31 27))
    (p.setFreg (bits i 11 7) r.1).accrue r.2

/-! ### One scalar instruction -/

/-- What a scalar instruction does. -/
inductive ScalarEnd where
  /-- It has been performed; the Peg's pc and counts are set. -/
  | done (s : State) (p : Peg) (e : PegEnd)
  | illegal
  /-- It belongs to another command, or is a vector instruction. -/
  | other

/-- A load of the LOAD opcode: bytes and sign. -/
def loadForm (f3 : Nat) : Option (Nat × Bool) :=
  match f3 with
  | 0 => some (1, true)
  | 1 => some (2, true)
  | 2 => some (4, true)
  | 3 => some (8, true)
  | 4 => some (1, false)
  | 5 => some (2, false)
  | 6 => some (4, false)
  | _ => none

/-- One scalar instruction of `n` bytes whose 32-bit form is `i`. -/
def State.scalar (s : State) (env : Env) (w : PegWho) (p : Peg) (n i : Nat) : ScalarEnd :=
  let rd := bits i 11 7
  let f3 := bits i 14 12
  let a := p.reg (bits i 19 15)
  let b := p.reg (bits i 24 20)
  let f7 := bits i 31 25
  let fin := fun (q : Option Peg) => match q with
    | some q => ScalarEnd.done s (q.retire n) .ok
    | none => .illegal
  let put := fun (v : Option Nat) => fin (v.map fun v => p.setReg rd v)
  let jump := fun (t : Nat) (link : Bool) =>
    let q := if link then p.setReg rd (u64 (p.pc + n)) else p
    ScalarEnd.done s { q.retire n with pc := t } .ok
  match bits i 6 0 with
  | 0x37 => put (some (immU i))
  | 0x17 => put (some (u64 (p.pc + immU i)))
  | 0x6F => jump (u64 (p.pc + immJ i)) true
  | 0x67 => if f3 = 0 then jump (u64 (a + immI i) / 2 * 2) true else .illegal
  | 0x63 => match branchTaken f3 a b with
    | some t => if t then jump (u64 (p.pc + immB i)) false else fin (some p)
    | none => .illegal
  | 0x03 => match loadForm f3 with
    | some (len, signed) =>
      match s.pegLoad env w (u64 (a + immI i)) len 5 with
      | (s, .ok, v) => .done s ((p.setReg rd (if signed then sxw (8 * len) v else v)).retire n) .ok
      | (s, e, _) => .done s p e
    | none => .illegal
  | 0x07 =>
    if f3 = 2 then
      match s.pegLoad env w (u64 (a + immI i)) 4 5 with
      | (s, .ok, v) => .done s ((p.setFreg rd v).retire n) .ok
      | (s, e, _) => .done s p e
    else .other
  | 0x23 =>
    if f3 ≤ 3 then
      let r := s.pegStore env w (u64 (a + immS i)) (2 ^ f3) b
      .done r.1 (p.retire n) r.2
    else .illegal
  | 0x27 =>
    if f3 = 2 then
      let r := s.pegStore env w (u64 (a + immS i)) 4 (p.freg (bits i 24 20))
      .done r.1 (p.retire n) r.2
    else .other
  | 0x13 => put (aluImm i a)
  | 0x1B => put (aluImm32 i a)
  | 0x33 => put (aluOp f7 f3 a b)
  | 0x3B => put (aluOp32 f7 f3 a b (bits i 24 20))
  | 0x0F =>
    if f3 = 0 then fin (some p)
    else if f3 = 1 then
      let x := s.bivAt w.b
      .done (s.setBiv w.b { x with code := [] }) (p.retire n) .ok
    else .illegal
  | 0x73 =>
    if f3 = 0 then
      match i with
      | 0x00000073 => .done s p (.trap 8 0)
      | 0x00100073 => .done s p (.trap 3 p.pc)
      | 0x10500073 => fin (some p)
      | _ => .illegal
    else fin (s.csrOp w p i)
  | 0x43 | 0x47 | 0x4B | 0x4F => fin (fmaOp p i)
  | 0x53 => fin (fpOp p i)
  | 0x57 | 0x2F | 0x0B | 0x2B => .other
  | _ => .illegal

/-! ### AMO, LR and SC (R150, R207) -/

/-- The atomic of R146 that a RISC-V AMO is performed as; none for LR, SC and reserved codes. -/
def amoOp (f5 : Nat) : Option Nat :=
  match f5 with
  | 0x01 => some 0x10
  | 0x00 => some 0x12
  | 0x0C => some 0x13
  | 0x08 => some 0x14
  | 0x04 => some 0x15
  | 0x14 => some 0x16
  | 0x10 => some 0x17
  | 0x1C => some 0x18
  | 0x18 => some 0x19
  | _ => none

/-- The value of an AMO formed by the Peg itself, on memory that is not stacked. -/
def amoValue (f5 wd old src : Nat) : Nat :=
  let o := sgn wd old
  let x := sgn wd src
  match f5 with
  | 0x01 => src
  | 0x00 => (old + src) % 2 ^ wd
  | 0x0C => old &&& src
  | 0x08 => old ||| src
  | 0x04 => old ^^^ src
  | 0x14 => if o < x then src else old
  | 0x10 => if o < x then old else src
  | 0x1C => max old src
  | _ => min old src

/-- Where an AMO acts: the pool address of local or remote stacked memory, or elsewhere. -/
def stackedTarget (rec : List Extent) (va : Nat) : Option Nat :=
  match recordAddr rec va with
  | some (x, a) => if ¬ x.host ∧ targetOf (bits a 41 0) = .stacked ∧ va < 2 ^ 57 then some a else none
  | none => none

/-- The request of an atomic on an aligned operand of `len` bytes at a pool address (R146): opcode, and operands. -/
def atomicReq (addr len src : Nat) : Req :=
  { port := .utxon 0, addr := addr / 64 * 64, offset := addr % 64, width := if len = 4 then 0 else 1,
    opLo := BitVec.ofNat 64 src }

/-- An atomic of a Peg at the home lane of a line (R150): its Bivouac first writes the line's dirty bytes and drops
the line; the old value. -/
def State.homeAtomic (s : State) (env : Env) (w : PegWho) (addr op len src : Nat) : State × PegEnd × Nat :=
  let line := addr / 64 * 64
  let p := w.d.id.pitch
  let s := (s.wbDrop env w.b (wbMatch line p) (fun _ => true)).1
  if bits addr 51 42 = s.deviceNumber then
    match s.engineViolation p p (bits line 41 0) true with
    | some c => (s.bump c, .ok, 0)
    | none =>
      match s.cohAtomic env (bits line 41 6) op (atomicReq addr len src) w.d.charge with
      | (s, some d) => (s.loseReservations w.b w.g line, .ok, takeBytes d (addr % 64) len)
      | (s, none) => (s, .trap 0x40 0, 0)
  else
    let r := s.remoteEnd env addr
    let s := match r.s.routeOf addr false with
      | .via _ | .held _ => r.s.emit (.access none op line (rangeMask (addr % 64) len) (placeBytes (addr % 64) len src))
      | _ => r.s
    (s, pegStat r.st 7 addr, takeBytes r.data (addr % 64) len)

/-- PEG_AMO: an AMO, LR or SC of a Peg. -/
def State.pegAmoInsn (s : State) (env : Env) (w : PegWho) (p : Peg) (n i : Nat) : ScalarEnd :=
  let f5 := bits i 31 27
  let f3 := bits i 14 12
  let rd := bits i 11 7
  let va := p.reg (bits i 19 15)
  let src := p.reg (bits i 24 20)
  if f3 ≠ 2 ∧ f3 ≠ 3 then .illegal
  else
    let len := 2 ^ f3
    let wd := 8 * len
    let out := fun (v : Nat) => if len = 4 then sx32 v else v
    if va % len ≠ 0 then .done s p (.trap (if f5 = 2 then 4 else 6) va)
    else if f5 = 2 then
      if bits i 24 20 ≠ 0 then .illegal
      else match s.pegLoad env w va len 5 with
        | (s, .ok, v) =>
          let line := ((recordAddr w.d.record va).map fun x => x.2 / 64 * 64).getD (va / 64 * 64)
          .done s ({ (p.setReg rd (out v)) with resv := some line }.retire n) .ok
        | (s, e, _) => .done s p e
    else if f5 = 3 then
      let line := ((recordAddr w.d.record va).map fun x => x.2 / 64 * 64).getD (va / 64 * 64)
      if p.resv = some line then
        match s.pegStore env w va len (src % 2 ^ wd) with
        | (s, .ok) => .done s ({ (p.setReg rd 0) with resv := none }.retire n) .ok
        | (s, e) => .done s p e
      else .done s ({ (p.setReg rd 1) with resv := none }.retire n) .ok
    else match amoOp f5 with
      | none => .illegal
      | some op =>
        match stackedTarget w.d.record va with
        | some a =>
          if ¬ (operandAt w.d va true) then .done s p (.trap 7 va)
          else match s.homeAtomic env w a op len (src % 2 ^ wd) with
            | (s, .ok, v) => .done s ((p.setReg rd (out v)).retire n) .ok
            | (s, .trap c v, _) => .done s p (.trap c (if v = 0 then va else v))
            | (s, e, _) => .done s p e
        | none =>
          match s.pegLoad env w va len 7 with
          | (s, .ok, old) =>
            match s.pegStore env w va len (amoValue f5 wd old (src % 2 ^ wd)) with
            | (s, .ok) => .done s ((p.setReg rd (out old)).retire n) .ok
            | (s, e) => .done s p e
          | (s, e, _) => .done s p e

end Sys2Proof.Machine
end

