-- ==== Sys2Proof/Machine/Rvv.lean ====
section
/-! DEFINITION. The vector subset of a Peg: Zve64f with VLEN = 512, Zvfbfmin and Zvfhmin (R201 to R203).  What the
instructions compute is taken from the published ISA (PRESUMED, note 40); R203 fixes the order of sums.  Tail and
masked-off elements are left as they are under either policy (note 41). -/

namespace Sys2Proof.Machine

/-! ### Configuration -/

/-- SEW in bits. -/
def Peg.sew (p : Peg) : Nat := 8 * 2 ^ bits p.vtype 5 3

/-- LMUL in eighths; 0 is reserved. -/
def lmul8 (code : Nat) : Nat :=
  match code with
  | 0 => 8
  | 1 => 16
  | 2 => 32
  | 3 => 64
  | 5 => 1
  | 6 => 2
  | 7 => 4
  | _ => 0

/-- LMUL of a Peg in eighths. -/
def Peg.lmul8 (p : Peg) : Nat := Machine.lmul8 (bits p.vtype 2 0)

/-- vill. -/
def Peg.vill (p : Peg) : Bool := bitOf p.vtype 63

/-- VLMAX of a vtype, 0 when it is not supported: SEW up to 64, and SEW ≤ LMUL · ELEN. -/
def vlmaxOf (vt : Nat) : Nat :=
  let sew := 8 * 2 ^ bits vt 5 3
  let l := lmul8 (bits vt 2 0)
  if 256 ≤ vt ∨ 64 < sew ∨ l = 0 ∨ 8 * l < sew then 0 else 512 * l / 8 / sew

/-- Set vtype and vl. -/
def Peg.setVl (p : Peg) (vt avl : Nat) : Peg :=
  let m := vlmaxOf vt
  if m = 0 then { p with vtype := 2 ^ 63, vl := 0, vstart := 0 } else { p with vtype := vt, vl := min avl m, vstart := 0 }

/-- vsetvli, vsetivli and vsetvl. -/
def vset (p : Peg) (i : Nat) : Option Peg :=
  let rd := bits i 11 7
  let rs1 := bits i 19 15
  let go := fun (vt : Nat) =>
    let q := if rs1 ≠ 0 then p.setVl vt (p.reg rs1)
      else if rd ≠ 0 then p.setVl vt (2 ^ 64)
      else if vlmaxOf vt = vlmaxOf p.vtype ∧ ¬ p.vill then p.setVl vt p.vl
      else { p with vtype := 2 ^ 63, vl := 0, vstart := 0 }
    some (q.setReg rd q.vl)
  if bits i 31 31 = 0 then go (bits i 30 20)
  else if bits i 31 30 = 3 then
    let q := p.setVl (bits i 29 20) rs1
    some (q.setReg rd q.vl)
  else if bits i 31 25 = 0x40 then go (p.reg (bits i 24 20))
  else none

/-! ### Registers and elements -/

/-- Vector register `r`. -/
def Peg.vreg (p : Peg) (r : Nat) : Nat := SMap.get (fun _ => 0) p.v r

/-- Write vector register `r`. -/
def Peg.setVreg (p : Peg) (r x : Nat) : Peg := { p with v := SMap.set (fun _ => 0) p.v r (x % 2 ^ 512) }

/-- Element `i` of `w` bits of the group at register `r`. -/
def Peg.elem (p : Peg) (r w i : Nat) : Nat := p.vreg (r + i * w / 512) / 2 ^ (i * w % 512) % 2 ^ w

/-- Write element `i`. -/
def Peg.setElem (p : Peg) (r w i x : Nat) : Peg :=
  let n := r + i * w / 512
  let sh := i * w % 512
  let old := p.vreg n
  p.setVreg n (old - old / 2 ^ sh % 2 ^ w * 2 ^ sh + x % 2 ^ w * 2 ^ sh)

/-- Bit `i` of a mask register. -/
def Peg.maskBit (p : Peg) (r i : Nat) : Bool := (p.vreg r).testBit i

/-- Write bit `i` of a mask register. -/
def Peg.setMaskBit (p : Peg) (r i : Nat) (b : Bool) : Peg := p.setElem r 1 i (b2n b)

/-- Element `i` is active. -/
def Peg.active (p : Peg) (vm : Bool) (i : Nat) : Bool := vm || p.maskBit 0 i

/-- The body elements, from vstart to vl − 1. -/
def Peg.body (p : Peg) : List Nat := (List.range p.vl).filter fun i => decide (p.vstart ≤ i)

/-- End of a vector instruction. -/
def Peg.vdone (p : Peg) : Peg := { p with vstart := 0 }

/-! ### Register groups -/

/-- Registers of a group whose EMUL is `m` eighths. -/
def groupRegs (m : Nat) : Nat := max 1 (m / 8)

/-- A group starts at a multiple of its size and lies within the 32 registers. -/
def groupOk (r m : Nat) : Bool := decide (1 ≤ m) && decide (m ≤ 64) && r % groupRegs m == 0 && decide (r + groupRegs m ≤ 32)

/-- Two register ranges overlap. -/
def regsOverlap (a na b nb : Nat) : Bool := decide (a < b + nb) && decide (b < a + na)

/-- A destination group of EEW `dw` and EMUL `dm` may overlap a source of `sw` and `sm`. -/
def overlapOk (d dm dw s sm sw : Nat) : Bool :=
  let nd := groupRegs dm
  let ns := groupRegs sm
  if !regsOverlap d nd s ns then true
  else if dw = sw then true
  else if dw < sw then d == s
  else decide (8 ≤ sm) && s + ns == d + nd

/-- A masked instruction does not write v0, unless it writes a mask or a scalar. -/
def maskDestOk (vm : Bool) (d : Nat) : Bool := vm || d != 0

/-! ### Loops -/

/-- Apply `f` to every active body element: it gives the element's new value and the flags and saturation it raises. -/
def Peg.mapElems (p : Peg) (vm : Bool) (d w : Nat) (f : Nat → Nat × FFlags × Bool) : Peg :=
  (p.body.foldl (fun q i =>
    if p.active vm i then
      let r := f i
      let q := q.setElem d w i r.1
      { q with fflags := q.fflags ||| r.2.1, vxsat := if r.2.2 then 1 else q.vxsat }
    else q) p).vdone

/-- Write a mask bit for every active body element. -/
def Peg.mapMask (p : Peg) (vm : Bool) (d : Nat) (f : Nat → Bool × FFlags) : Peg :=
  (p.body.foldl (fun q i =>
    if p.active vm i then
      let r := f i
      { q.setMaskBit d i r.1 with fflags := q.fflags ||| r.2 }
    else q) p).vdone

/-! ### Fixed point -/

/-- The rounding increment of vxrm for a right shift by `d` of an integer. -/
def roundInc (mode : Nat) (v : Int) (d : Nat) : Int :=
  if d = 0 then 0
  else
    let bit := fun (k : Nat) => (v / (2 ^ k : Nat)) % 2
    let low := fun (k : Nat) => v % (2 ^ k : Nat)
    match mode with
    | 0 => bit (d - 1)
    | 1 => if bit (d - 1) = 1 ∧ (low (d - 1) ≠ 0 ∨ bit d = 1) then 1 else 0
    | 2 => 0
    | _ => if bit d = 0 ∧ low d ≠ 0 then 1 else 0

/-- A rounded right shift. -/
def roundShift (mode : Nat) (v : Int) (d : Nat) : Int := v / (2 ^ d : Nat) + roundInc mode v d

/-- Saturation to a signed or unsigned number of `w` bits. -/
def satTo (signed : Bool) (w : Nat) (v : Int) : Nat × Bool :=
  let lo : Int := if signed then -(2 ^ (w - 1) : Nat) else 0
  let hi : Int := if signed then (2 ^ (w - 1) : Nat) - 1 else (2 ^ w : Nat) - 1
  if v < lo then (uns w lo, true) else if hi < v then (uns w hi, true) else (uns w v, false)

/-! ### Single-width integer operations: operands are vs2 and the other (vs1, x or immediate) -/

/-- Plain integer operations of OPI. -/
def opiValue (f6 w a b vxrm : Nat) : Option (Nat × Bool) :=
  let sa := sgn w a
  let sb := sgn w b
  let m := 2 ^ w
  let sh := b % w
  let plain := fun (v : Nat) => some (v % m, false)
  match f6 with
  | 0 => plain (a + b)
  | 2 => plain (a + m - b)
  | 3 => plain (b + m - a)
  | 4 => plain (min a b)
  | 5 => plain (if sa < sb then a else b)
  | 6 => plain (max a b)
  | 7 => plain (if sa < sb then b else a)
  | 9 => plain (a &&& b)
  | 10 => plain (a ||| b)
  | 11 => plain (a ^^^ b)
  | 32 => some (satTo false w ((a : Int) + b))
  | 33 => some (satTo true w (sa + sb))
  | 34 => some (satTo false w ((a : Int) - b))
  | 35 => some (satTo true w (sa - sb))
  | 37 => plain (a * 2 ^ sh)
  | 39 => some (satTo true w (roundShift vxrm (sa * sb) (w - 1)))
  | 40 => plain (a / 2 ^ sh)
  | 41 => plain (sraW w a sh)
  | 42 => plain (uns w (roundShift vxrm a sh))
  | 43 => plain (uns w (roundShift vxrm sa sh))
  | _ => none

/-- Narrowing operations of OPI: `a` has 2w bits. -/
def opiNarrow (f6 w a b vxrm : Nat) : Option (Nat × Bool) :=
  let sh := b % (2 * w)
  match f6 with
  | 44 => some (a / 2 ^ sh % 2 ^ w, false)
  | 45 => some (sraW (2 * w) a sh % 2 ^ w, false)
  | 46 => some (satTo false w (roundShift vxrm a sh))
  | 47 => some (satTo true w (roundShift vxrm (sgn (2 * w) a) sh))
  | _ => none

/-- Comparisons of OPI. -/
def opiCompare (f6 w a b : Nat) : Option Bool :=
  match f6 with
  | 24 => some (a == b)
  | 25 => some (a != b)
  | 26 => some (decide (a < b))
  | 27 => some (decide (sgn w a < sgn w b))
  | 28 => some (decide (a ≤ b))
  | 29 => some (decide (sgn w a ≤ sgn w b))
  | 30 => some (decide (b < a))
  | 31 => some (decide (sgn w b < sgn w a))
  | _ => none

/-- Plain operations of OPM: `d` is the destination's old element. -/
def opmValue (f6 w a b d vxrm : Nat) : Option Nat :=
  let sa := sgn w a
  let sb := sgn w b
  let m := 2 ^ w
  match f6 with
  | 8 => some (uns w (roundShift vxrm ((a : Int) + b) 1))
  | 9 => some (uns w (roundShift vxrm (sa + sb) 1))
  | 10 => some (uns w (roundShift vxrm ((a : Int) - b) 1))
  | 11 => some (uns w (roundShift vxrm (sa - sb) 1))
  | 32 => some (divU w a b)
  | 33 => some (divS w a b)
  | 34 => some (remU w a b)
  | 35 => some (remS w a b)
  | 36 => some (a * b / m)
  | 37 => some (a * b % m)
  | 38 => some (uns w (sa * (b : Int) / (m : Nat)))
  | 39 => some (uns w (sa * sb / (m : Nat)))
  | 41 => some ((b * d + a) % m)
  | 43 => some (uns w ((a : Int) - b * d))
  | 45 => some ((b * a + d) % m)
  | 47 => some (uns w ((d : Int) - b * a))
  | _ => none

/-- Widening operations of OPM: the 2w-bit result from `w`-bit operands; for the .w forms `a` has 2w bits. -/
def opmWiden (f6 w a b d : Nat) : Option Nat :=
  let z := fun (v : Int) => some (uns (2 * w) v)
  let sa := sgn w a
  let sb := sgn w b
  let wa := sgn (2 * w) a
  match f6 with
  | 48 => z ((a : Int) + b)
  | 49 => z (sa + sb)
  | 50 => z ((a : Int) - b)
  | 51 => z (sa - sb)
  | 52 => z ((a : Int) + b)
  | 53 => z (wa + sb)
  | 54 => z ((a : Int) - b)
  | 55 => z (wa - sb)
  | 56 => z ((a : Int) * b)
  | 58 => z (sa * (b : Int))
  | 59 => z (sa * sb)
  | 60 => z ((a : Int) * b + d)
  | 61 => z (sa * sb + d)
  | 62 => z (sa * (b : Int) + d)
  | 63 => z ((a : Int) * sb + d)
  | _ => none

/-- Integer reductions. -/
def redValue (f6 w a b : Nat) : Nat :=
  match f6 with
  | 0 => (a + b) % 2 ^ w
  | 1 => a &&& b
  | 2 => a ||| b
  | 3 => a ^^^ b
  | 4 => min a b
  | 5 => if sgn w a < sgn w b then a else b
  | 6 => max a b
  | _ => if sgn w a < sgn w b then b else a

/-! ### Integer instructions of OPI -/

/-- Where the second operand of an instruction comes from. -/
inductive VSrc where
  | vec (r : Nat)
  | scalar (x : Nat)
  deriving DecidableEq, Repr

/-- The second operand's element `i` of `w` bits. -/
def Peg.src (p : Peg) (o : VSrc) (w i : Nat) : Nat :=
  match o with
  | .vec r => p.elem r w i
  | .scalar x => x % 2 ^ w

/-- The second operand, where it is a vector, is a group of `m` eighths that a destination may overlap. -/
def srcOk (o : VSrc) (m w d dm dw : Nat) : Bool :=
  match o with
  | .vec r => groupOk r m && overlapOk d dm dw r m w
  | .scalar _ => true

/-- The instruction's second operand is a vector register. -/
def isVec (o : VSrc) : Bool :=
  match o with
  | .vec _ => true
  | .scalar _ => false

/-- vrgather and vrgatherei16. -/
def vGather (p : Peg) (vm : Bool) (d s2 : Nat) (o : VSrc) (iw : Nat) : Option Peg :=
  let w := p.sew
  let m := p.lmul8
  let im := m * iw / w
  let n := groupRegs m
  let apart := !regsOverlap d n s2 n && (match o with
    | .vec r => groupOk r im && !regsOverlap d n r (groupRegs im)
    | .scalar _ => true)
  if groupOk d m ∧ groupOk s2 m ∧ apart ∧ maskDestOk vm d then
    let lim := vlmaxOf p.vtype
    some (p.mapElems vm d w fun i =>
      let k := match o with
        | .vec r => p.elem r iw i
        | .scalar x => x
      (if k < lim then p.elem s2 w k else 0, 0, false))
  else none

/-- vslideup and vslidedown by an offset. -/
def vSlide (p : Peg) (vm up : Bool) (d s2 off : Nat) : Option Peg :=
  let w := p.sew
  let m := p.lmul8
  if groupOk d m ∧ groupOk s2 m ∧ maskDestOk vm d ∧ ¬ (up ∧ regsOverlap d (groupRegs m) s2 (groupRegs m)) then
    let lim := vlmaxOf p.vtype
    if up then
      some ((p.body.foldl (fun q i => if off ≤ i ∧ p.active vm i then q.setElem d w i (p.elem s2 w (i - off)) else q) p).vdone)
    else some (p.mapElems vm d w fun i => (if i + off < lim then p.elem s2 w (i + off) else 0, 0, false))
  else none

/-- Add or subtract with carry, and their carry-outs (f6 16 to 19). -/
def vCarry (p : Peg) (vm : Bool) (f6 d s2 : Nat) (o : VSrc) : Option Peg :=
  let w := p.sew
  let m := p.lmul8
  let c := fun i => if vm then 0 else b2n (p.maskBit 0 i)
  let val := fun i =>
    let a := p.elem s2 w i
    let b := p.src o w i
    if f6 < 18 then a + b + c i else a + 2 ^ w - b - c i
  let carry := fun i => if f6 < 18 then decide (2 ^ w ≤ val i) else decide (p.elem s2 w i < p.src o w i + c i)
  if f6 = 16 ∨ f6 = 18 then
    if ¬ vm ∧ d ≠ 0 ∧ groupOk d m ∧ groupOk s2 m ∧ srcOk o m w d m w then
      some (p.mapElems true d w fun i => (val i % 2 ^ w, 0, false))
    else none
  else if groupOk s2 m ∧ srcOk o m w d 8 1 ∧ overlapOk d 8 1 s2 m w then some (p.mapMask true d fun i => (carry i, 0))
  else none

/-- OPIVV, OPIVX and OPIVI. -/
def vOpI (p : Peg) (i f6 d s2 : Nat) (o : VSrc) (vm : Bool) : Option Peg :=
  let w := p.sew
  let m := p.lmul8
  let same := groupOk d m && groupOk s2 m && srcOk o m w d m w
  match f6 with
  | 12 => vGather p vm d s2 (match o with
      | .vec r => .vec r
      | .scalar x => .scalar x) w
  | 14 => match o with
    | .vec r => vGather p vm d s2 (.vec r) 16
    | .scalar x => vSlide p vm true d s2 x
  | 15 => match o with
    | .vec _ => none
    | .scalar x => vSlide p vm false d s2 x
  | 16 | 17 | 18 | 19 => if 18 ≤ f6 ∧ bits i 14 12 = 3 then none else vCarry p vm f6 d s2 o
  | 23 =>
    if vm then
      if s2 = 0 ∧ groupOk d m ∧ srcOk o m w d m w then some (p.mapElems true d w fun i => (p.src o w i, 0, false)) else none
    else if same ∧ d ≠ 0 then
      some (p.mapElems true d w fun i => (if p.maskBit 0 i then p.src o w i else p.elem s2 w i, 0, false))
    else none
  | 24 | 25 | 26 | 27 | 28 | 29 | 30 | 31 =>
    if (isVec o ∧ 30 ≤ f6) ∨ (bits i 14 12 = 3 ∧ (f6 = 26 ∨ f6 = 27)) then none
    else if groupOk s2 m ∧ srcOk o m w d 8 1 ∧ overlapOk d 8 1 s2 m w then
      some (p.mapMask vm d fun i => ((opiCompare f6 w (p.elem s2 w i) (p.src o w i)).getD false, 0))
    else none
  | 44 | 45 | 46 | 47 =>
    if w ≤ 32 ∧ groupOk d m ∧ groupOk s2 (2 * m) ∧ srcOk o m w d m w ∧ overlapOk d m w s2 (2 * m) (2 * w) ∧ maskDestOk vm d then
      some (p.mapElems vm d w fun i =>
        let r := (opiNarrow f6 w (p.elem s2 (2 * w) i) (match o with
          | .vec r => p.elem r w i
          | .scalar x => x) p.vxrm).getD (0, false)
        (r.1, 0, r.2))
    else none
  | 48 | 49 =>
    match o with
    | .vec s1 =>
      if w ≤ 32 ∧ groupOk s2 m ∧ p.vstart = 0 then
        if p.vl = 0 then some p
        else
          let sum := (p.body.filter (p.active vm)).foldl (fun acc i =>
            let a := p.elem s2 w i
            uns (2 * w) ((acc : Int) + (if f6 = 48 then (a : Int) else sgn w a))) (p.elem s1 (2 * w) 0)
          some (p.setElem d (2 * w) 0 sum)
      else none
    | .scalar _ => none
  | 39 =>
    if bits i 14 12 = 3 then
      let n := bits i 19 15 + 1
      if (n = 1 ∨ n = 2 ∨ n = 4 ∨ n = 8) ∧ vm ∧ d % n = 0 ∧ s2 % n = 0 then
        some (((List.range n).foldl (fun q k => q.setVreg (d + k) (p.vreg (s2 + k))) p).vdone)
      else none
    else if w ≤ 32 ∧ same ∧ maskDestOk vm d then
      some (p.mapElems vm d w fun i =>
        let r := (opiValue 39 w (p.elem s2 w i) (p.src o w i) p.vxrm).getD (0, false)
        (r.1, 0, r.2))
    else none
  | _ =>
    let badForm := (f6 = 3 ∧ isVec o) ∨ (bits i 14 12 = 3 ∧ (f6 = 2 ∨ f6 = 4 ∨ f6 = 5 ∨ f6 = 6 ∨ f6 = 7 ∨ f6 = 34 ∨ f6 = 35))
    if badForm ∨ ¬ (same ∧ maskDestOk vm d) then none
    else match opiValue f6 w 0 0 0 with
      | none => none
      | some _ => some (p.mapElems vm d w fun i =>
        let r := (opiValue f6 w (p.elem s2 w i) (p.src o w i) p.vxrm).getD (0, false)
        (r.1, 0, r.2))

/-! ### OPM -/

/-- Mask logic (f6 24 to 31). -/
def maskLogic (f6 : Nat) (a b : Bool) : Bool :=
  match f6 with
  | 24 => a && !b
  | 25 => a && b
  | 26 => a || b
  | 27 => a != b
  | 28 => a || !b
  | 29 => !(a && b)
  | 30 => !(a || b)
  | _ => a == b

/-- The first active element whose mask bit is set. -/
def Peg.firstSet (p : Peg) (vm : Bool) (s2 : Nat) : Option Nat :=
  (List.range p.vl).find? fun i => p.active vm i && p.maskBit s2 i

/-- vmsbf, vmsof, vmsif, viota and vid. -/
def vMaskUnary (p : Peg) (vm : Bool) (s1 d s2 : Nat) : Option Peg :=
  let w := p.sew
  let m := p.lmul8
  let first := (p.firstSet vm s2).getD p.vl
  let mk := fun (f : Nat → Bool) =>
    if p.vstart = 0 ∧ d ≠ s2 ∧ maskDestOk vm d then some (p.mapMask vm d fun i => (f i, 0)) else none
  match s1 with
  | 1 => mk fun i => decide (i < first)
  | 2 => mk fun i => decide (i = first)
  | 3 => mk fun i => decide (i ≤ first)
  | 16 =>
    if p.vstart = 0 ∧ groupOk d m ∧ maskDestOk vm d ∧ ¬ regsOverlap d (groupRegs m) s2 1 then
      some (p.mapElems vm d w fun i =>
        (((List.range i).filter fun k => p.active vm k && p.maskBit s2 k).length, 0, false))
    else none
  | 17 => if s2 = 0 ∧ groupOk d m ∧ maskDestOk vm d then some (p.mapElems vm d w fun i => (i, 0, false)) else none
  | _ => none

/-- Sign and zero extension of narrower elements. -/
def vExtend (p : Peg) (vm : Bool) (s1 d s2 : Nat) : Option Peg :=
  let w := p.sew
  let m := p.lmul8
  let f := 2 ^ (4 - s1 / 2)
  if s1 < 2 ∨ 7 < s1 ∨ w < 8 * f ∨ m < f ∨ ¬ groupOk d m ∨ ¬ groupOk s2 (m / f) ∨ ¬ maskDestOk vm d ∨
      ¬ overlapOk d m w s2 (m / f) (w / f) then none
  else some (p.mapElems vm d w fun i =>
    let x := p.elem s2 (w / f) i
    (if s1 % 2 = 1 then uns w (sgn (w / f) x) else x, 0, false))

/-- OPMVV and OPMVX. -/
def vOpM (p : Peg) (i f6 d s2 : Nat) (o : VSrc) (vm : Bool) : Option Peg :=
  let w := p.sew
  let m := p.lmul8
  let s1 := bits i 19 15
  let same := groupOk d m && groupOk s2 m && srcOk o m w d m w
  match f6 with
  | 0 | 1 | 2 | 3 | 4 | 5 | 6 | 7 =>
    match o with
    | .vec r =>
      if groupOk s2 m ∧ p.vstart = 0 then
        if p.vl = 0 then some p
        else some (p.setElem d w 0 ((p.body.filter (p.active vm)).foldl (fun acc i => redValue f6 w acc (p.elem s2 w i)) (p.elem r w 0)))
      else none
    | .scalar _ => none
  | 14 => match o with
    | .vec _ => none
    | .scalar x =>
      if same ∧ maskDestOk vm d ∧ ¬ regsOverlap d (groupRegs m) s2 (groupRegs m) then
        some (p.mapElems vm d w fun i => (if i = 0 then x else p.elem s2 w (i - 1), 0, false))
      else none
  | 15 => match o with
    | .vec _ => none
    | .scalar x =>
      if same ∧ maskDestOk vm d then
        some (p.mapElems vm d w fun i => (if i + 1 = p.vl then x else p.elem s2 w (i + 1), 0, false))
      else none
  | 16 => match o with
    | .vec _ =>
      if s1 = 0 then (if vm then some ((p.setReg d (sxw w (p.elem s2 w 0))).vdone) else none)
      else if p.vstart ≠ 0 then none
      else if s1 = 16 then some (p.setReg d ((List.range p.vl).filter fun k => p.active vm k && p.maskBit s2 k).length)
      else if s1 = 17 then some (p.setReg d (match p.firstSet vm s2 with
        | some k => k
        | none => 2 ^ 64 - 1))
      else none
    | .scalar x => if s2 = 0 ∧ vm then some ((if p.vstart < p.vl then p.setElem d w 0 x else p).vdone) else none
  | 18 => if isVec o then vExtend p vm s1 d s2 else none
  | 20 => if isVec o then vMaskUnary p vm s1 d s2 else none
  | 23 => match o with
    | .vec r =>
      let n := groupRegs m
      if vm ∧ p.vstart = 0 ∧ groupOk d m ∧ groupOk s2 m ∧ ¬ regsOverlap d n s2 n ∧ ¬ regsOverlap d n r 1 then
        let ks := (List.range p.vl).filter (p.maskBit r)
        some (ks.zipIdx.foldl (fun q x => q.setElem d w x.2 (p.elem s2 w x.1)) p)
      else none
    | .scalar _ => none
  | 24 | 25 | 26 | 27 | 28 | 29 | 30 | 31 => match o with
    | .vec r =>
      if vm then some (p.mapMask true d fun i => (maskLogic f6 (p.maskBit s2 i) (p.maskBit r i), 0)) else none
    | .scalar _ => none
  | 48 | 49 | 50 | 51 | 56 | 58 | 59 | 60 | 61 | 62 | 63 =>
    if (f6 = 62 ∧ isVec o) ∨ 32 < w ∨ 32 < m ∨ ¬ groupOk d (2 * m) ∨ ¬ groupOk s2 m ∨ ¬ maskDestOk vm d ∨
        ¬ overlapOk d (2 * m) (2 * w) s2 m w ∨ ¬ srcOk o m w d (2 * m) (2 * w) then none
    else some (p.mapElems vm d (2 * w) fun i =>
      let a := p.elem s2 w i
      let b := p.src o w i
      let e := p.elem d (2 * w) i
      ((if f6 = 62 then opmWiden 62 w a b e else if f6 = 63 then opmWiden 63 w a b e else opmWiden f6 w a b e).getD 0, 0, false))
  | 52 | 53 | 54 | 55 =>
    if 32 < w ∨ 32 < m ∨ ¬ groupOk d (2 * m) ∨ ¬ groupOk s2 (2 * m) ∨ ¬ maskDestOk vm d ∨ ¬ srcOk o m w d (2 * m) (2 * w) then none
    else some (p.mapElems vm d (2 * w) fun i => ((opmWiden f6 w (p.elem s2 (2 * w) i) (p.src o w i) 0).getD 0, 0, false))
  | _ =>
    if ¬ (same ∧ maskDestOk vm d) ∨ (w = 64 ∧ (f6 = 36 ∨ f6 = 38 ∨ f6 = 39)) then none
    else match opmValue f6 w 0 0 0 0 with
      | none => none
      | some _ => some (p.mapElems vm d w fun i =>
        ((opmValue f6 w (p.elem s2 w i) (p.src o w i) (p.elem d w i) p.vxrm).getD 0, 0, false))

/-! ### OPF: FP32 (R202, R203) -/

/-- The 7-bit reciprocal estimate: nearest 7 bits of 1 ÷ the middle of the input's 1/128 step. -/
def rec7Sig (idx : Nat) : Nat := (2 * 65536 + (2 * idx + 257)) / (2 * (2 * idx + 257)) - 128

/-- The 7-bit reciprocal square root estimate, for an exponent whose last bit is `odd`. -/
def rsqrt7Sig (odd : Bool) (idx : Nat) : Nat :=
  let x := (2 * idx + 129) * (if odd then 1 else 2)
  (isqrt (2 ^ 23 * 2 ^ 26 / x) / 2 ^ 12 + 1) / 2 - 128

/-- vfrec7 of FP32. -/
def frec7 (rm : RoundMode) (x : Nat) : Nat × FFlags :=
  match fp32.decode x with
  | .nan => (fp32.qnan, nvFlag (fp32.isSnan x))
  | .inf n => (if n then fp32.signBit else 0, 0)
  | .fin n m e =>
    let sg := if n then fp32.signBit else 0
    if m = 0 then (sg + fp32.infBits, ffDz)
    else
      let top := e + (m.log2 : Nat)
      let sig := m * 2 ^ 24 / 2 ^ m.log2
      if top < -128 then
        let toMax := match rm with
          | .rtz => true
          | .rdn => !n
          | .rup => n
          | _ => false
        (sg + (if toMax then fp32.infBits - 1 else fp32.infBits), ffOf)
      else
        let s7 := rec7Sig (sig / 2 ^ 17 % 128)
        let ex : Int := 253 - (top + 127)
        if 0 < ex then (sg + ex.toNat * 2 ^ 23 + s7 * 2 ^ 16, 0)
        else (sg + (2 ^ 23 + s7 * 2 ^ 16) / 2 ^ (1 - ex).toNat, 0)

/-- vfrsqrt7 of FP32. -/
def frsqrt7 (x : Nat) : Nat × FFlags :=
  match fp32.decode x with
  | .nan => (fp32.qnan, nvFlag (fp32.isSnan x))
  | .inf n => if n then (fp32.qnan, ffNv) else (0, 0)
  | .fin n m e =>
    if m = 0 then ((if n then fp32.signBit else 0) + fp32.infBits, ffDz)
    else if n then (fp32.qnan, ffNv)
    else
      let top := e + (m.log2 : Nat)
      let sig := m * 2 ^ 24 / 2 ^ m.log2
      let be := top + 127
      let s7 := rsqrt7Sig (be % 2 == 1) (sig / 2 ^ 18 % 64)
      (((380 - be) / 2).toNat * 2 ^ 23 + s7 * 2 ^ 16, 0)

/-- Two-operand FP operations on vs2 `a` and the other `b`. -/
def fpValue (f6 : Nat) (rm : RoundMode) (a b : Nat) : Option (Nat × FFlags) :=
  let negate := fun x => fsgnj fp32 1 x x
  match f6 with
  | 0 => some (fp32.add rm a b)
  | 2 => some (fp32.add rm a (negate b))
  | 4 => some (fminmax fp32 false a b)
  | 6 => some (fminmax fp32 true a b)
  | 8 => some (fsgnj fp32 0 a b, 0)
  | 9 => some (fsgnj fp32 1 a b, 0)
  | 10 => some (fsgnj fp32 2 a b, 0)
  | 32 => some (fp32.div rm a b)
  | 33 => some (fp32.div rm b a)
  | 36 => some (fp32.mul rm a b)
  | 39 => some (fp32.add rm b (negate a))
  | _ => none

/-- Fused operations: vs2 `a`, the other `b`, the old destination `d`. -/
def fpFused (f6 : Nat) (rm : RoundMode) (a b d : Nat) : Option (Nat × FFlags) :=
  match f6 with
  | 40 => some (fp32.fma rm false false b d a)
  | 41 => some (fp32.fma rm true true b d a)
  | 42 => some (fp32.fma rm false true b d a)
  | 43 => some (fp32.fma rm true false b d a)
  | 44 => some (fp32.fma rm false false b a d)
  | 45 => some (fp32.fma rm true true b a d)
  | 46 => some (fp32.fma rm false true b a d)
  | 47 => some (fp32.fma rm true false b a d)
  | _ => none

/-- FP comparisons. -/
def fpCompare (f6 a b : Nat) : Option (Bool × FFlags) :=
  let c := fun (k x y : Nat) => let r := fcompare fp32 k x y; (r.1 == 1, r.2)
  match f6 with
  | 24 => some (c 2 a b)
  | 25 => some (c 0 a b)
  | 27 => some (c 1 a b)
  | 28 => let r := c 2 a b; some (!r.1, r.2)
  | 29 => some (c 1 b a)
  | 31 => some (c 0 b a)
  | _ => none

/-- A conversion's source and destination widths, and its operation on an element. -/
structure VCvt where
  sw : Nat
  dw : Nat
  op : Nat → Nat × FFlags

/-- The conversions of VFUNARY0 for SEW = `w`. -/
def cvtForm (s1 w : Nat) (rm : RoundMode) : Option VCvt :=
  let toI := fun (sg : Bool) (dw : Nat) (m : RoundMode) (x : Nat) => fvToInt m sg dw (fp32.decode x)
  let ofI := fun (sg : Bool) (sw : Nat) (x : Nat) => fp32.encode rm (Fv.ofInt (if sg then sgn sw x else (x : Int)))
  match s1, w with
  | 0, 32 => some ⟨32, 32, toI false 32 rm⟩
  | 1, 32 => some ⟨32, 32, toI true 32 rm⟩
  | 2, 32 => some ⟨32, 32, ofI false 32⟩
  | 3, 32 => some ⟨32, 32, ofI true 32⟩
  | 6, 32 => some ⟨32, 32, toI false 32 .rtz⟩
  | 7, 32 => some ⟨32, 32, toI true 32 .rtz⟩
  | 8, 32 => some ⟨32, 64, toI false 64 rm⟩
  | 9, 32 => some ⟨32, 64, toI true 64 rm⟩
  | 14, 32 => some ⟨32, 64, toI false 64 .rtz⟩
  | 15, 32 => some ⟨32, 64, toI true 64 .rtz⟩
  | 10, 16 => some ⟨16, 32, ofI false 16⟩
  | 11, 16 => some ⟨16, 32, ofI true 16⟩
  | 12, 16 => some ⟨16, 32, convertFmt fp16 fp32 rm⟩
  | 13, 16 => some ⟨16, 32, convertFmt bf16 fp32 rm⟩
  | 16, 16 => some ⟨32, 16, toI false 16 rm⟩
  | 17, 16 => some ⟨32, 16, toI true 16 rm⟩
  | 22, 16 => some ⟨32, 16, toI false 16 .rtz⟩
  | 23, 16 => some ⟨32, 16, toI true 16 .rtz⟩
  | 18, 32 => some ⟨64, 32, ofI false 64⟩
  | 19, 32 => some ⟨64, 32, ofI true 64⟩
  | 20, 16 => some ⟨32, 16, convertFmt fp32 fp16 rm⟩
  | 29, 16 => some ⟨32, 16, convertFmt fp32 bf16 rm⟩
  | _, _ => none

/-- Conversions. -/
def vConvert (p : Peg) (vm : Bool) (s1 d s2 : Nat) (rm : RoundMode) : Option Peg :=
  let w := p.sew
  match cvtForm s1 w rm with
  | none => none
  | some c =>
    let sm := p.lmul8 * c.sw / w
    let dm := p.lmul8 * c.dw / w
    if groupOk d dm ∧ groupOk s2 sm ∧ overlapOk d dm c.dw s2 sm c.sw ∧ maskDestOk vm d then
      some (p.mapElems vm d c.dw fun i => let r := c.op (p.elem s2 c.sw i); (r.1, r.2, false))
    else none

/-- FP reductions: one rounding per addition, in ascending element index (R203). -/
def vReduceF (p : Peg) (vm : Bool) (f6 d s2 s1 : Nat) (rm : RoundMode) : Option Peg :=
  if groupOk s2 p.lmul8 ∧ p.vstart = 0 then
    if p.vl = 0 then some p
    else
      let r := (p.body.filter (p.active vm)).foldl (fun (acc : Nat × FFlags) i =>
        let x := p.elem s2 32 i
        let y := match f6 with
          | 5 => fminmax fp32 false acc.1 x
          | 7 => fminmax fp32 true acc.1 x
          | _ => fp32.add rm acc.1 x
        (y.1, acc.2 ||| y.2)) (p.elem s1 32 0, 0)
      some ((p.setElem d 32 0 r.1).accrue r.2)
  else none

/-- OPFVV and OPFVF. -/
def vOpF (p : Peg) (i f6 d s2 : Nat) (o : VSrc) (vm : Bool) (rm : RoundMode) : Option Peg :=
  let w := p.sew
  let m := p.lmul8
  let s1 := bits i 19 15
  let same := groupOk d m && groupOk s2 m && srcOk o m w d m w
  let vf := !isVec o
  if f6 = 18 then (if vf then none else vConvert p vm s1 d s2 rm)
  else if w ≠ 32 then none
  else match f6 with
    | 1 | 3 | 5 | 7 => if vf then none else vReduceF p vm f6 d s2 s1 rm
    | 14 =>
      if vf ∧ same ∧ maskDestOk vm d ∧ ¬ regsOverlap d (groupRegs m) s2 (groupRegs m) then
        some (p.mapElems vm d w fun i => (if i = 0 then p.src o w 0 else p.elem s2 w (i - 1), 0, false))
      else none
    | 15 =>
      if vf ∧ same ∧ maskDestOk vm d then
        some (p.mapElems vm d w fun i => (if i + 1 = p.vl then p.src o w 0 else p.elem s2 w (i + 1), 0, false))
      else none
    | 16 =>
      if vf then (if s2 = 0 ∧ vm then some ((if p.vstart < p.vl then p.setElem d w 0 (p.src o w 0) else p).vdone) else none)
      else if s1 = 0 ∧ vm then some ((p.setFreg d (p.elem s2 w 0)).vdone) else none
    | 19 =>
      if vf ∨ ¬ groupOk d m ∨ ¬ groupOk s2 m ∨ ¬ maskDestOk vm d then none
      else match s1 with
        | 0 => some (p.mapElems vm d w fun i => let r := fp32.sqrt rm (p.elem s2 w i); (r.1, r.2, false))
        | 4 => some (p.mapElems vm d w fun i => let r := frsqrt7 (p.elem s2 w i); (r.1, r.2, false))
        | 5 => some (p.mapElems vm d w fun i => let r := frec7 rm (p.elem s2 w i); (r.1, r.2, false))
        | 16 => some (p.mapElems vm d w fun i => (fclass fp32 (p.elem s2 w i), 0, false))
        | _ => none
    | 23 =>
      if ¬ vf then none
      else if vm then
        if s2 = 0 ∧ groupOk d m then some (p.mapElems true d w fun i => (p.src o w i, 0, false)) else none
      else if same ∧ d ≠ 0 then
        some (p.mapElems true d w fun i => (if p.maskBit 0 i then p.src o w i else p.elem s2 w i, 0, false))
      else none
    | 24 | 25 | 27 | 28 | 29 | 31 =>
      if (29 ≤ f6 ∧ ¬ vf) ∨ ¬ groupOk s2 m ∨ ¬ srcOk o m w d 8 1 ∨ ¬ overlapOk d 8 1 s2 m w then none
      else some (p.mapMask vm d fun i => (fpCompare f6 (p.elem s2 w i) (p.src o w i)).getD (false, 0))
    | _ =>
      if ¬ (same ∧ maskDestOk vm d) ∨ ((f6 = 33 ∨ f6 = 39) ∧ ¬ vf) then none
      else if 40 ≤ f6 ∧ f6 ≤ 47 then
        some (p.mapElems vm d w fun i =>
          let r := (fpFused f6 rm (p.elem s2 w i) (p.src o w i) (p.elem d w i)).getD (0, 0)
          (r.1, r.2, false))
      else match fpValue f6 rm 0 0 with
        | none => none
        | some _ => some (p.mapElems vm d w fun i =>
          let r := (fpValue f6 rm (p.elem s2 w i) (p.src o w i)).getD (0, 0)
          (r.1, r.2, false))

/-- An instruction of the OP-V opcode: none is an illegal instruction. -/
def vectorOp (p : Peg) (i : Nat) : Option Peg :=
  let f3 := bits i 14 12
  let f6 := bits i 31 26
  let d := bits i 11 7
  let s2 := bits i 24 20
  let s1 := bits i 19 15
  let vm := bitOf i 25
  if f3 = 7 then vset p i
  else if f3 = 3 ∧ f6 = 39 then vOpI p i f6 d s2 (.scalar 0) vm
  else if p.vill then none
  else match f3 with
    | 0 => vOpI p i f6 d s2 (.vec s1) vm
    | 3 =>
      let unsignedImm := f6 = 12 ∨ f6 = 14 ∨ f6 = 15 ∨ f6 = 37 ∨ (40 ≤ f6 ∧ f6 ≤ 47)
      vOpI p i f6 d s2 (.scalar (if unsignedImm then s1 else sxw 5 s1)) vm
    | 4 => vOpI p i f6 d s2 (.scalar (p.reg s1)) vm
    | 2 => vOpM p i f6 d s2 (.vec s1) vm
    | 6 => vOpM p i f6 d s2 (.scalar (p.reg s1)) vm
    | 1 => (rvRound 7 p.frm).bind fun m => vOpF p i f6 d s2 (.vec s1) vm m
    | _ => (rvRound 7 p.frm).bind fun m => vOpF p i f6 d s2 (.scalar (p.freg s1)) vm m

/-! ### Vector loads and stores -/

/-- The form of a vector access: data EEW, its EMUL in eighths, index EEW when indexed, fields, elements, and kind. -/
structure VMem where
  dw : Nat
  dm : Nat
  iw : Nat
  nf : Nat
  evl : Nat
  masked : Bool
  /-- The byte address of field `f` of element `i`. -/
  addr : Nat → Nat → Nat
  firstOnly : Bool

/-- EEW of a width code. -/
def vWidth (f3 : Nat) : Option Nat :=
  match f3 with
  | 0 => some 8
  | 5 => some 16
  | 6 => some 32
  | 7 => some 64
  | _ => none

/-- Decode a vector load or store: none is an illegal instruction. -/
def vMemForm (p : Peg) (i : Nat) (store : Bool) : Option VMem :=
  match vWidth (bits i 14 12) with
  | none => none
  | some e =>
    let base := p.reg (bits i 19 15)
    let nf := bits i 31 29 + 1
    let masked := !bitOf i 25
    let d := bits i 11 7
    let s2 := bits i 24 20
    let em := p.lmul8 * e / p.sew
    let fits := fun (m : Nat) => groupOk d m && decide (groupRegs m * nf ≤ 8) && decide (d + groupRegs m * nf ≤ 32) &&
      maskDestOk (!masked || store) d
    if bitOf i 28 then none
    else match bits i 27 26 with
      | 0 =>
        if s2 = 8 then
          if masked ∨ ¬ (nf = 1 ∨ nf = 2 ∨ nf = 4 ∨ nf = 8) ∨ d % nf ≠ 0 ∨ (store ∧ e ≠ 8) then none
          else some ⟨e, 8 * nf, 0, 1, nf * 512 / e, false, fun i _ => u64 (base + i * (e / 8)), false⟩
        else if p.vill then none
        else if s2 = 0x0B then
          if masked ∨ nf ≠ 1 ∨ e ≠ 8 then none
          else some ⟨8, 8, 0, 1, (p.vl + 7) / 8, false, fun i _ => u64 (base + i), false⟩
        else if (s2 = 0 ∨ (s2 = 0x10 ∧ ¬ store)) ∧ fits em then
          some ⟨e, em, 0, nf, p.vl, masked, fun i f => u64 (base + (i * nf + f) * (e / 8)), s2 == 0x10⟩
        else none
      | 2 =>
        if p.vill ∨ ¬ fits em then none
        else
          let st := p.reg s2
          some ⟨e, em, 0, nf, p.vl, masked, fun i f => u64 (base + i * st + f * (e / 8)), false⟩
      | _ =>
        let w := p.sew
        let m := p.lmul8
        if p.vill ∨ ¬ fits m ∨ ¬ groupOk s2 em ∨ (¬ store ∧ nf = 1 ∧ ¬ overlapOk d m w s2 em e) ∨
            (¬ store ∧ 1 < nf ∧ regsOverlap d (groupRegs m * nf) s2 (groupRegs em)) then none
        else some ⟨w, m, e, nf, p.vl, masked, fun i f => u64 (base + p.elem s2 e i + f * (w / 8)), false⟩

/-- The elements of a vector access: element and field, in order. -/
def VMem.items (v : VMem) (p : Peg) : List (Nat × Nat) :=
  ((List.range v.evl).filter fun i => decide (p.vstart ≤ i) && (!v.masked || p.maskBit 0 i)).flatMap fun i =>
    (List.range v.nf).map fun f => (i, f)

/-- A vector load. -/
def State.vLoad (s : State) (env : Env) (w : PegWho) (p : Peg) (n d : Nat) (v : VMem) : ScalarEnd :=
  let r := (v.items p).foldl (fun (acc : State × PegEnd × Peg × Bool) x =>
    match acc with
    | (s, .ok, q, false) =>
      match s.pegLoad env w (v.addr x.1 x.2) (v.dw / 8) 5 with
      | (s, .ok, y) => (s, .ok, q.setElem (d + x.2 * groupRegs v.dm) v.dw x.1 y, false)
      | (s, .trap c t, _) => if v.firstOnly ∧ 0 < x.1 then (s, .ok, { q with vl := x.1 }, true) else (s, .trap c t, q, false)
      | (s, .wait, _) => (s, .wait, q, false)
    | _ => acc) (s, .ok, p, false)
  .done r.1 (r.2.2.1.vdone.retire n) r.2.1

/-- A vector store. -/
def State.vStore (s : State) (env : Env) (w : PegWho) (p : Peg) (n d : Nat) (v : VMem) : ScalarEnd :=
  let r := (v.items p).foldl (fun (acc : State × PegEnd) x =>
    match acc with
    | (s, .ok) => s.pegStore env w (v.addr x.1 x.2) (v.dw / 8) (p.elem (d + x.2 * groupRegs v.dm) v.dw x.1)
    | _ => acc) (s, .ok)
  .done r.1 (p.vdone.retire n) r.2

/-- Vector instructions of a Peg. -/
def State.vector (s : State) (env : Env) (w : PegWho) (p : Peg) (n i : Nat) : ScalarEnd :=
  match bits i 6 0 with
  | 0x57 => match vectorOp p i with
    | some q => .done s (q.retire n) .ok
    | none => .illegal
  | 0x07 => match vMemForm p i false with
    | some v => s.vLoad env w p n (bits i 11 7) v
    | none => .illegal
  | 0x27 => match vMemForm p i true with
    | some v => s.vStore env w p n (bits i 11 7) v
    | none => .illegal
  | _ => .other

end Sys2Proof.Machine
end

