-- ==== Sys2Proof/Machine/Ridge.lean ====
section
/-! DEFINITION. The custom instructions of a Peg (R208): the Ridgepole and its queue (R209 to R218), AMO.FADD.W, the Stile
instructions, PEG.EXIT, and the commands that issue one instruction of a Peg. -/

namespace Sys2Proof.Machine

/-! ### Issuing one instruction -/

/-- The outcome of an instruction is put back: `i` is its bits, for the trap value of an illegal one. -/
def State.endInsn (s : State) (w : PegWho) (i : Nat) (e : ScalarEnd) : State :=
  match e with
  | .done s p e => s.finishPeg w p e
  | .illegal => s.pegTrap w.b w.g 2 i
  | .other => s

/-- funct7 of a custom encoding is allowed (R208). -/
def customF7 (opc f3 f7 : Nat) : Bool :=
  if opc = 0x0B then (if 1 ≤ f3 ∧ f3 ≤ 4 then decide (f7 ≤ 1) else decide (f3 ≤ 6) && f7 == 0)
  else if f3 = 3 then decide (f7 ≤ 3)
  else decide (2 ≤ f3) && f7 == 0

/-- An encoding of the custom opcodes that the table of R208 holds. -/
def customKnown (i : Nat) : Bool := customF7 (bits i 6 0) (bits i 14 12) (bits i 31 25)

/-- PEG_INSTRUCTION: a Peg issues the instruction at its pc, unless another command stands for it. -/
def State.opPegInstruction (s : State) (b g : Nat) (env : Env) : State :=
  match s.pegContext b g with
  | none => s
  | some (w, p) =>
    match s.fetchInsn env w p.pc with
    | (s, none) => s.pegTrap b g 1 p.pc
    | (s, some (_, raw, none)) => s.pegTrap b g 2 raw
    | (s, some (n, raw, some i)) =>
      let op := bits i 6 0
      let vec := op == 0x57 || ((op == 0x07 || op == 0x27) && bits i 14 12 != 2)
      if op = 0x2F then s
      else if op = 0x0B ∨ op = 0x2B then (if customKnown i then s else s.pegTrap b g 2 raw)
      else s.endInsn w raw (if vec then s.vector env w p n i else s.scalar env w p n i)

/-- A command for one kind of instruction: nothing but a fetch happens where the instruction at the pc is of another
kind. -/
def State.issue (s : State) (b g : Nat) (env : Env) (mine : Nat → Bool)
    (f : State → PegWho → Peg → Nat → Nat → ScalarEnd) : State :=
  match s.pegContext b g with
  | none => s
  | some (w, p) =>
    match s.fetchInsn env w p.pc with
    | (s', some (n, raw, some i)) => if mine i then s'.endInsn w raw (f s' w p n i) else s'
    | _ => s

/-- PEG_AMO (R150). -/
def State.opPegAmo (s : State) (b g : Nat) (env : Env) : State :=
  s.issue b g env (fun i => bits i 6 0 == 0x2F) fun s w p n i => s.pegAmoInsn env w p n i

/-- The instruction is a custom one of the table with this opcode and funct3. -/
def isCustom (opc f3 i : Nat) : Bool := bits i 6 0 == opc && bits i 14 12 == f3 && customKnown i

/-! ### The Ridgepole queue (R209 to R212) -/

/-- Fields of a configuration word. -/
def cfgA (c : Nat) : Nat := bits c 3 0

/-- BFMT. -/
def cfgB (c : Nat) : Nat := bits c 7 4

/-- CFMT. -/
def cfgC (c : Nat) : Nat := bits c 11 8

/-- SAT. -/
def cfgSat (c : Nat) : Bool := bitOf c 12

/-- KBLK. -/
def cfgK (c : Nat) : Nat := bits c 22 16

/-- A configuration that RP.CFG accepts (R209, R215). -/
def cfgOk (c : Nat) : Bool :=
  let a := cfgA c
  let b := cfgB c
  let wide := a == 8 || a == 9 || b == 8 || b == 9
  (isMx a && isMx b || a == 8 && b == 8 || a == 9 && b == 9) && knownFormat (cfgC c) && inRange (cfgK c) 1 64 &&
    !(cfgC c == 5 && wide)

/-- Bytes that RP.STORE writes (R214). -/
def storeBytesOf (c : Nat) : Nat :=
  match cfgC c with
  | 10 => 16384
  | 8 | 9 => 8192
  | f => 2 * panelBlockBytes f

/-- An aperture range that a Ridgepole instruction may use (R212). -/
def State.apertureRange (s : State) (b p off len : Nat) (write : Bool) : Bool :=
  off % 64 == 0 && decide (off + len ≤ 4194304) &&
    (List.range (cdiv len 64)).all fun i => s.apertureOk b p (off / 64 + i) write

/-- Queue an entry, or stall while the queue is full (R210). -/
def State.rpPush (s : State) (w : PegWho) (p : Peg) (op : RpOp) (cfg : Nat) : ScalarEnd :=
  let x := s.bivAt w.b
  if 16 ≤ x.rpQueue.length then .done s p .ok
  else .done (s.setBiv w.b { x with rpCfg := cfg, rpQueue := x.rpQueue ++ [{ op, cfg, peg := w.g }] }) (p.retire 4) .ok

/-- A queue entry whose aperture ranges are checked at issue (R212): each range with its direction. -/
def State.rpPushChecked (s : State) (w : PegWho) (p : Peg) (op : RpOp) (ranges : List (Nat × Nat × Bool)) : ScalarEnd :=
  match ranges.find? fun r => !s.apertureRange w.b w.d.id.pitch r.1 r.2.1 r.2.2 with
  | some r => .done s p (.trap (if r.2.2 then 7 else 5) ((apertureBase + r.1) % 2 ^ 64))
  | none => s.rpPush w p op (s.bivAt w.b).rpCfg

/-- RP.CFG. -/
def State.opRpCfg (s : State) (b g : Nat) : State :=
  s.issue b g {} (isCustom 0x0B 0) fun s w p _ i =>
    let c := p.reg (bits i 19 15)
    if cfgOk c then s.rpPush w p .cfg (c % 2 ^ 23) else .illegal

/-- RP.MMA. -/
def State.opRpMma (s : State) (b g : Nat) : State :=
  s.issue b g {} (isCustom 0x0B 1) fun s w p _ i =>
    let c := (s.bivAt w.b).rpCfg
    let a := p.reg (bits i 19 15)
    let o := p.reg (bits i 24 20)
    s.rpPushChecked w p (.mma (bits i 25 25) a o)
      [(a, cfgK c * panelBlockBytes (cfgA c), false), (o, cfgK c * panelBlockBytes (cfgB c), false)]

/-- RP.ZERO. -/
def State.opRpZero (s : State) (b g : Nat) : State :=
  s.issue b g {} (isCustom 0x0B 2) fun s w p _ i => s.rpPush w p (.zero (bits i 25 25)) (s.bivAt w.b).rpCfg

/-- RP.LOADC. -/
def State.opRpLoadc (s : State) (b g : Nat) : State :=
  s.issue b g {} (isCustom 0x0B 3) fun s w p _ i =>
    let o := p.reg (bits i 19 15)
    s.rpPushChecked w p (.loadc (bits i 25 25) o) [(o, 16384, false)]

/-- RP.STORE. -/
def State.opRpStore (s : State) (b g : Nat) : State :=
  s.issue b g {} (isCustom 0x0B 4) fun s w p _ i =>
    let o := p.reg (bits i 19 15)
    s.rpPushChecked w p (.store (bits i 25 25) o) [(o, storeBytesOf (s.bivAt w.b).rpCfg, true)]

/-- The Ridgepole status word (R211). -/
def Biv.rpStatus (x : Biv) : Nat :=
  (packWord [(0, x.rpQueue.length), (8, b2n x.poison0), (9, b2n x.poison1), (16, b2n x.rpBusy)]).toNat

/-- RP.STAT. -/
def State.opRpStat (s : State) (b g : Nat) : State :=
  s.issue b g {} (isCustom 0x0B 5) fun s w p n i =>
    .done s ((p.setReg (bits i 11 7) (s.bivAt w.b).rpStatus).retire n) .ok

/-- RP.FENCE: it waits until the queue is empty. -/
def State.opRpFence (s : State) (b g : Nat) : State :=
  s.issue b g {} (isCustom 0x0B 6) fun s w p n i =>
    if (s.bivAt w.b).rpQueue = [] then .done s ((p.setReg (bits i 11 7) (s.bivAt w.b).rpStatus).retire n) .ok
    else .done s p .ok

/-! ### Performing an entry (R213 to R218) -/

/-- RIDGEPOLE_ENTRY_START: the first entry of the queue begins, once the one before it has ended. -/
def State.opEntryStart (s : State) (b : Nat) : State :=
  let x := s.bivAt b
  if x.rpRun ∨ x.rpQueue = [] ∨ s.stopped ∨ ¬ s.coreOn then s
  else s.setBiv b { x with rpRun := true, rpBusy := true }

/-- Read an aperture range: the bytes, and whether a line was poison. -/
def State.apertureRead (s : State) (b off len : Nat) : State × List Byte × Bool :=
  (List.range (cdiv len 64)).foldl (fun (acc : State × List Byte × Bool) i =>
    match acc.1.swardRead (swardLine b (off / 64 + i)) with
    | (s, some d) => (s, acc.2.1 ++ lineBytes d, acc.2.2)
    | (s, none) => (s, acc.2.1 ++ List.replicate 64 0, true)) (s, [], false)

/-- Write bytes to an aperture range, by whole lines. -/
def State.apertureWrite (s : State) (b off : Nat) (bs : List Byte) : State :=
  (List.range (cdiv bs.length 64)).foldl (fun s i =>
    (s.swardWrite (swardLine b (off / 64 + i)) fullMask (lineOfBytes ((bs.drop (64 * i)).take 64))).1) s

/-- C[a]ij. -/
def Biv.accAt (x : Biv) (a i j : Nat) : Nat := SMap.get (fun _ => 0) x.acc (4096 * a + 64 * i + j)

/-- Every element of an accumulator set from a function of row and column. -/
def Biv.setAcc (x : Biv) (a : Nat) (f : Nat → Nat → Nat) : Biv :=
  { x with acc := (List.range 4096).foldl (fun m k =>
      SMap.set (fun _ => 0) m (4096 * a + k) (f (k / 64) (k % 64))) x.acc }

/-- Set POISONn. -/
def Biv.setPoison (x : Biv) (a : Nat) (v : Bool) : Biv :=
  if a = 0 then { x with poison0 := v } else { x with poison1 := v }

/-- POISONn. -/
def Biv.poison (x : Biv) (a : Nat) : Bool := if a = 0 then x.poison0 else x.poison1

/-- C[a]ij after an RP.MMA (R213, R216, R217): blocks in ascending order. -/
def mmaElement (fa fb k : Nat) (as bs : List Byte) (i j c : Nat) : Nat :=
  (List.range k).foldl (fun c t => accumulate c (blockDot (panelRow fa t i as) (panelRow fb t j bs))) c

/-- The bytes of an RP.STORE (R214, R218). -/
def Biv.storeImage (x : Biv) (a cfg : Nat) : List Byte :=
  let f := cfgC cfg
  if isMx f then
    [0, 1].flatMap fun h =>
      let rows := (List.range 64).map fun i =>
        mxBlock f ((List.range 32).map fun e => fp32.decode (x.accAt a i (32 * h + e)))
      rows.flatMap (fun r => packElems (elemBits f) r.2) ++ rows.map fun r => BitVec.ofNat 8 r.1
  else (List.range 4096).flatMap fun k => leBytes (elemBits f / 8) (convertOut f (cfgSat cfg) (x.accAt a (k / 64) (k % 64)))

/-- What an entry does when it has been performed: the state, and the aperture offset of a store of a poisoned set. -/
def State.performEntry (s : State) (b : Nat) (e : RpItem) : State × Option Nat :=
  match e.op with
  | .cfg => (s, none)
  | .zero a => (s.setBiv b (((s.bivAt b).setAcc a fun _ _ => 0).setPoison a false), none)
  | .mma a oa ob =>
    let k := cfgK e.cfg
    let ra := s.apertureRead b oa (k * panelBlockBytes (cfgA e.cfg))
    let rb := ra.1.apertureRead b ob (k * panelBlockBytes (cfgB e.cfg))
    let x := rb.1.bivAt b
    if ra.2.2 ∨ rb.2.2 then (rb.1.setBiv b (x.setPoison a true), none)
    else (rb.1.setBiv b (x.setAcc a fun i j =>
      mmaElement (cfgA e.cfg) (cfgB e.cfg) k ra.2.1 rb.2.1 i j (x.accAt a i j)), none)
  | .loadc a o =>
    let r := s.apertureRead b o 16384
    let x := r.1.bivAt b
    (r.1.setBiv b ((x.setAcc a fun i j => leNat ((r.2.1.drop (256 * i + 4 * j)).take 4)).setPoison a r.2.2), none)
  | .store a o =>
    let x := s.bivAt b
    if x.poison a then (s, some o) else (s.apertureWrite b o (x.storeImage a e.cfg), none)

/-- The entry reads a line of a staged copy that is not filled yet (R191). -/
def State.entryWaits (s : State) (b : Nat) (e : RpItem) : Bool :=
  match s.kernelOf b with
  | some (d, _) =>
    let waits := s.rangeUnfilled b d.id.pitch
    match e.op with
    | .mma _ oa ob =>
      waits oa (cfgK e.cfg * panelBlockBytes (cfgA e.cfg)) || waits ob (cfgK e.cfg * panelBlockBytes (cfgB e.cfg))
    | .loadc _ o => waits o 16384
    | .cfg | .zero _ | .store _ _ => false
  | none => false

/-- RIDGEPOLE_ENTRY_END: the entry has been performed and frees its place; a store of a poisoned set traps (R227).  An
entry whose operand lies in the unfilled part of a staged copy waits (R191). -/
def State.opEntryEnd (s : State) (b : Nat) : State :=
  let x := s.bivAt b
  match x.rpRun, x.rpQueue with
  | true, e :: _ =>
    if s.entryWaits b e then s.setBiv b { x with rpWait := true }
    else
    let r := s.performEntry b e
    let y := r.1.bivAt b
    let s := r.1.setBiv b { y with
      rpRun := false, rpWait := false, rpQueue := y.rpQueue.drop 1, rpBusy := !(y.rpQueue.drop 1).isEmpty }
    match r.2 with
    | some o => s.pegTrap b e.peg 0x40 (apertureBase + o)
    | none => s
  | _, _ => s

/-! ### AMO.FADD.W and the Stile instructions (R148, R151, R208) -/

/-- AMO.FADD.W. -/
def State.opAmoFadd (s : State) (b g : Nat) (env : Env) : State :=
  s.issue b g env (isCustom 0x2B 2) fun s w p n i =>
    let va := p.reg (bits i 19 15)
    let src := p.reg (bits i 24 20) % 2 ^ 32
    let rd := bits i 11 7
    if va % 4 ≠ 0 then .done s p (.trap 6 va)
    else match stackedTarget w.d.record va with
      | some a =>
        if ¬ operandAt w.d va true then .done s p (.trap 7 va)
        else match s.homeAtomic env w a 0x1A 4 src with
          | (s, .ok, v) => .done s ((p.setReg rd v).retire n) .ok
          | (s, .trap c v, _) => .done s p (.trap c (if v = 0 then va else v))
          | (s, e, _) => .done s p e
      | none =>
        match s.pegLoad env w va 4 7 with
        | (s, .ok, old) =>
          match s.pegStore env w va 4 (fadd32 old src) with
          | (s, .ok) => .done s ((p.setReg rd old).retire n) .ok
          | (s, e) => .done s p e
        | (s, e, _) => .done s p e

/-- A Stile operation of a Peg on the lock at a pool address: result word 0 (R155, R208). -/
def State.pegStile (s : State) (env : Env) (p op addr arg : Nat) : State × EngStat × Nat :=
  if bits addr 51 42 = s.deviceNumber then
    let k := bits addr 21 6
    if targetOf (bits addr 41 0) ≠ .stile then (s.bump E.violUnmappedRange, .ok, 0)
    else if ¬ s.mayOperate p k then (s.bump E.violStileRange, .ok, 0)
    else
      let r := s.stileOp op k p 92 (bits arg 63 48) (arg % 2 ^ 33)
      (r.1, .ok, r.2.1.toNat)
  else
    let r := s.remoteEnd env addr
    match s.routeOf addr false with
    | .via _ | .held _ =>
      (r.s.emit (.access none op (addr / 64 * 64) 0 (BitVec.ofNat 512 arg)), r.st, (lineWord r.data 0).toNat)
    | _ => (r.s, r.st, 0)

/-- One Stile instruction: funct7 gives the operation. -/
def State.opStileInsn (s : State) (b g : Nat) (env : Env) (f7 : Nat) : State :=
  s.issue b g env (fun i => isCustom 0x2B 3 i && bits i 31 25 == f7) fun s w p n i =>
    let addr := p.reg (bits i 19 15)
    match s.pegStile env w.d.id.pitch (0x1C + f7) addr (p.reg (bits i 24 20)) with
    | (s, .ok, v) => .done s ((p.setReg (bits i 11 7) v).retire n) .ok
    | (s, st, _) => .done s p (pegStat st 7 addr)

/-! ### The end of a kernel (R226, R227) -/

/-- PEG.EXIT. -/
def State.opPegExit (s : State) (b g : Nat) : State :=
  s.issue b g {} (isCustom 0x2B 7) fun s _ p n i => .done s { p.retire n with exited := some (p.reg (bits i 19 15)) } .ok

/-- KERNEL_END: every Peg has exited and the Ridgepole queue is empty. -/
def State.opKernelEnd (s : State) (b : Nat) : State :=
  let x := s.bivAt b
  if x.kernel.isSome ∧ x.rpQueue = [] ∧ (x.pegs.all fun p => p.exited.isSome) ∧ ¬ s.stopped then
    s.endKernel b { status := 0, result := ((x.pegs.head?.bind fun p => p.exited).getD 0) }
  else s

/-- RUN_LIMIT_EXPIRY: the kernel has run longer than RUN_LIMIT. -/
def State.opRunLimit (s : State) (b : Nat) : State := s.endKernel b { status := 0x0A }

end Sys2Proof.Machine
end

