-- ==== Sys2Proof/Machine/Staging.lean ====
section
/-! DEFINITION. Access engines: chunk buffers (R221 to R223), staged copies (R190 to R192), STG instructions (R223, R224). -/

namespace Sys2Proof.Machine

/-- Bytes of a chunk. -/
def chunkBytes : Nat := 32768

/-- The chunks of a descriptor in order: virtual address and bytes (R221). -/
def Desc.chunks (d : Desc) : List (Nat × Nat) :=
  (d.operands.filter fun r => r.stage).flatMap fun r =>
    (List.range (cdiv r.len chunkBytes)).map fun i => (r.va + chunkBytes * i, min chunkBytes (r.len - chunkBytes * i))

/-- A buffer belongs to a partition of a descriptor. -/
def ChunkBuf.ofPart (c : ChunkBuf) (id : DescId) (part : Nat) : Bool := c.desc == id && c.part == part

/-- Next chunk to be staged of a window descriptor. -/
def Biv.nextChunk (x : Biv) (id : DescId) (part : Nat) : Nat :=
  ((x.staged.find? fun c => c.1 == id && c.2.1 == part).map fun c => c.2.2).getD 0

/-- Buffers that a window descriptor holds. -/
def Biv.holds (x : Biv) (id : DescId) (part : Nat) : Nat := (x.bufs.filter fun c => c.ofPart id part).length

/-- The window descriptor that a freed buffer is given to (R222). -/
def State.bufferTaker (s : State) (b : Nat) : Option (Desc × Part) :=
  let x := s.bivAt b
  let left := fun (q : Desc × Part) => decide (x.nextChunk q.1.id q.2.idx < q.1.chunks.length)
  let few := fun (q : Desc × Part) => decide (x.holds q.1.id q.2.idx < 12)
  let running := fun (q : Desc × Part) => match x.kernel with
    | some (id, part, _) => q.1.id == id && q.2.idx == part
    | none => false
  let win := s.window b
  match win.find? fun q => running q && few q && left q with
  | some q => some q
  | none => match win.find? fun q => !running q && x.holds q.1.id q.2.idx == 0 && left q with
    | some q => some q
    | none => win.find? fun q => !running q && few q && left q

/-- BUFFER_GRANT: a free chunk buffer is given to a window descriptor (R222). -/
def State.opBufferGrant (s : State) (b : Nat) : State :=
  let x := s.bivAt b
  if s.stopped ∨ ¬ s.coreOn ∨ ¬ s.bivServed b then s
  else match (List.range 24).find? fun i => !(x.bufs.any fun c => c.buffer == i), s.bufferTaker b with
    | some i, some (d, q) =>
      let n := x.nextChunk d.id q.idx
      s.setBiv b { x with
        bufs := x.bufs ++ [{ buffer := i, desc := d.id, part := q.idx, chunk := n, present := false }]
        staged := (d.id, q.idx, n + 1) :: x.staged.filter fun c => !(c.1 == d.id && c.2.1 == q.idx) }
    | _, _ => s

/-- The Sward line of a staged copy that holds line `i` of its region (R50). -/
def Staged.swardLine (c : Staged) (i : Nat) : Nat := (c.pages.getD (i / 1024) swardBase - swardBase) * 1024 + i % 1024

/-- Fill one line of a chunk: the bytes of the range that it covers, zero past its end (R221, R223); a request that ends
LINK_LOST or TIMED_OUT leaves the line unwritten. -/
def State.fillLine (s : State) (env : Env) (b sl : Nat) (d : Desc) (va len : Nat) : State × EngStat :=
  if len = 0 then (((s.bumpBiv b E.bivStagedLines 1).swardWrite sl fullMask 0).1, .ok)
  else
    let r := s.readVirt env d.id.pitch d.record va len d.charge
    match r.2.1 with
    | .ok => (((r.1.bumpBiv b E.bivStagedLines 1).swardWrite sl fullMask (lineOfBytes r.2.2)).1, .ok)
    | .poison => ((r.1.swardClear sl 1).bump (E.pitchOperandPoisons d.id.pitch), .ok)
    | st => (r.1.swardClear sl 1, st)

/-- Fill the lines of a chunk buffer from a range, in order; the first status that is not OK stays. -/
def State.fillChunk (s : State) (env : Env) (b buffer : Nat) (d : Desc) (va len : Nat) : State × EngStat :=
  (List.range 512).foldl (fun (acc : State × EngStat) i =>
    let q := acc.1.fillLine env b (swardLine b (512 * buffer + i)) d (va + 64 * i) (min 64 (len - 64 * i))
    (q.1, if acc.2 = .ok then q.2 else acc.2)) (s, .ok)

/-- A partition ends early: the kernel, where it runs, with it. -/
def State.failPart (s : State) (b : Nat) (id : DescId) (part : Nat) (o : DescOut) : State :=
  match (s.bivAt b).kernel with
  | some (k, q, _) => if k = id ∧ q = part then s.endKernel b o else s.endPart id part o
  | none => s.endPart id part o

/-- CHUNK_FILL_DONE: the oldest buffer that has been given and is not yet filled has its lines (R221 to R223); a staging
read that ends LINK_LOST or TIMED_OUT ends the partition (R253). -/
def State.opChunkFill (s : State) (b buffer : Nat) (env : Env) : State :=
  let x := s.bivAt b
  match x.bufs.find? fun c => !c.present with
  | none => s
  | some c =>
    if c.buffer ≠ buffer ∨ s.stopped ∨ ¬ s.coreOn then s
    else match s.desc c.desc with
      | none => s
      | some d =>
        let (va, len) := d.chunks.getD c.chunk (0, 0)
        let r := s.fillChunk env b buffer d va len
        let x := r.1.bivAt b
        let s := r.1.setBiv b { x with bufs := x.bufs.map fun k => if k.buffer = buffer then { k with present := true } else k }
        if r.2 = .ok then s else s.failPart b c.desc c.part { status := statOut r.2 }

/-! ### Staged copies (R190 to R192) -/

/-- The budget class to which fills of a pitch's regions are charged: the lowest that it may use. -/
def State.fillCharge (s : State) (p : Nat) : EngCharge :=
  match (List.range 32).find? fun k => bitOf (s.reg (E.pitchBudgetClasses p)) k with
  | some k => .cls k
  | none => .none

/-- STAGE_FILL: the next line of a staged copy; poison drops every copy of the region (R190, R192). -/
def State.opStageFill (s : State) (i b : Nat) (env : Env) : State :=
  match s.sward.staged.find? fun c => c.region == i && c.biv == b with
  | none => s
  | some c =>
    let r := s.regionAt i
    if r.pages * 1024 ≤ c.mark ∨ ¬ s.coreOn then s
    else match s.cohRead env (r.basePage * 1024 + c.mark) (s.fillCharge r.owner) with
      | (s, some data) =>
        let s := (s.swardWrite (c.swardLine c.mark) fullMask data).1
        { s with sward := { s.sward with staged := s.sward.staged.map fun k =>
            if k.region = i ∧ k.biv = b then { k with mark := k.mark + 1 } else k } }
      | (s, none) => (s.dropCopies i).bump (E.pitchStageFails r.owner)

/-! ### STG instructions (R223, R224) -/

/-- STG.WAIT. -/
def State.opStgWait (s : State) (b g : Nat) : State :=
  s.issue b g {} (isCustom 0x2B 4) fun s w p n i =>
    let j := p.reg (bits i 19 15)
    if w.d.chunks.length ≤ j then .illegal
    else match (s.bivAt w.b).bufs.find? fun c => c.ofPart w.d.id w.part && c.chunk == j && c.present with
      | some c =>
        let bad := (List.range 512).any fun k => !s.swardWritten (swardLine w.b (512 * c.buffer + k))
        .done s ((p.setReg (bits i 11 7) (chunkBytes * c.buffer + if bad then 2 ^ 63 else 0)).retire n) .ok
      | none => .done s { p with waiting := some j } .ok

/-- STG.DONE: a chunk that is not present or already released is ignored. -/
def State.opStgDone (s : State) (b g : Nat) : State :=
  s.issue b g {} (isCustom 0x2B 5) fun s w p n i =>
    let j := p.reg (bits i 19 15)
    let x := s.bivAt w.b
    let mine := fun (c : ChunkBuf) => c.ofPart w.d.id w.part && c.chunk == j && c.present
    .done (s.setBiv w.b { x with bufs := x.bufs.filter fun c => !mine c }) (p.retire n) .ok

/-- Copy lines from the Sward to a virtual address; a poisoned source line ends it. -/
def State.putLines (s : State) (env : Env) (w : PegWho) (src va n : Nat) : State × PegEnd :=
  (List.range n).foldl (fun (acc : State × PegEnd) i =>
    match acc with
    | (s, .ok) => match s.swardRead (swardLine w.b (src / 64 + i)) with
      | (s, some d) => s.pegWriteLine env w (va + 64 * i) fullMask d
      | (s, none) => (s, .trap 0x40 ((apertureBase + src + 64 * i) % 2 ^ 64))
    | _ => acc) (s, .ok)

/-- STG.PUT. -/
def State.opStgPut (s : State) (b g : Nat) (env : Env) : State :=
  s.issue b g env (isCustom 0x2B 6) fun s w p n i =>
    let va := p.reg (bits i 19 15)
    let x := p.reg (bits i 24 20)
    let src := bits x 21 0
    let lines := bits x 47 32
    let dest := decide (va < 2 ^ 57) && va % 64 == 0 && (List.range lines).all fun k =>
      operandAt w.d (va + 64 * k) true && operandAt w.d (va + 64 * k + 63) true && (recordAddr w.d.record (va + 64 * k)).isSome
    if ¬ inRange lines 1 1024 then .illegal
    else if ¬ dest then .done s p (.trap 7 va)
    else if ¬ s.apertureRange w.b w.d.id.pitch src (64 * lines) false then .done s p (.trap 5 (apertureBase + src))
    else if s.rangeUnfilled w.b w.d.id.pitch src (64 * lines) then .done s p .wait
    else
      let r := s.putLines env w src va lines
      .done r.1 (p.retire n) r.2

end Sys2Proof.Machine
end

