-- ==== Sys2Proof/Machine/Pitches.lean ====
section
/-! DEFINITION. Pitches: their states and what moves them (R63 to R68, R240, R395, R396), and the end of a hand-over (R55). -/

namespace Sys2Proof.Machine

/-! ### Ending descriptors early (R65, R68, R227) -/

/-- A Bivouac stops the kernel of a descriptor: Pegs and Ridgepole stop, and chunks are released. -/
def State.stopKernel (s : State) (b : Nat) (id : DescId) : State :=
  let x := s.bivAt b
  let mine := match x.kernel with
    | some (k, _, _) => k == id
    | none => false
  let x := { x with
    bufs := x.bufs.filter fun c => c.desc != id
    staged := x.staged.filter fun c => c.1 != id }
  if mine then
    let s := s.setBiv b { x with kernel := none, pegs := [], code := [], rpQueue := [], rpRun := false, rpBusy := false, rpWait := false }
    match s.physOf b with
    | some n => s.setReg (E.bivState n) 1
    | none => s
  else s.setBiv b x

/-- A descriptor completes with a status before its end: its kernels stop, its partitions end, and a collective tells its
peers (R431). -/
def State.cutDesc (s : State) (id : DescId) (status : Nat) : State :=
  match s.desc id with
  | none => s
  | some d =>
    if d.phase = .decided ∨ d.phase = .done then s
    else
      let s := d.parts.foldl (fun s q => s.stopKernel q.biv id) (s.sendFailed id)
      let s := (s.setDesc { d with parts := d.parts.map fun q => { q with done := true }, outcome := none }).decideDesc
        { d with parts := d.parts.map fun q => { q with done := true }, outcome := none } { status }
      let s := { s with eng := { s.eng with colls := s.eng.colls.filter fun r => r.desc != id } }
      s.settleRing id.pitch id.ring

/-- Every descriptor of a pitch that passes a test completes ABORTED. -/
def State.abortDescs (s : State) (p : Nat) (f : Desc → Bool) : State :=
  (s.work.descs.filter fun d => d.id.pitch == p && f d).foldl (fun s d => s.cutDesc d.id 0x01) s

/-! ### STATE (R63, R64) -/

/-- Pitches other than `p` that are not FREE. -/
def State.otherPitches (s : State) (p : Nat) : Bool :=
  s.regs.any fun e => decide (0x4000 ≤ e.1 / 256) && decide (e.1 / 256 < 0x5000) && e.1 % 256 == 1 && e.2 != 0 &&
    e.1 / 256 != 0x4000 + p

/-- PITCH_ACTIVATE: a write of 1 to STATE. -/
def State.activatePitch (s : State) (p : Nat) : State :=
  let st := s.pitchState p
  s.writeWhen ((st == 0 || st == 2) && (p == 0 || s.pitchState 0 == 1)) fun s => s.setReg (E.pitchState p) 1

/-- PITCH_QUIESCE: a write of 2 to STATE (R68 step 1); the pitch's hand-overs end CANCELLED (R57). -/
def State.quiescePitch (s : State) (p : Nat) : State :=
  s.writeWhen (s.pitchState p == 1 && (p != 0 || !s.otherPitches 0)) fun s =>
    (s.setReg (E.pitchState p) 3).cancelHandovers p

/-- The descriptor has been dispatched and has not completed. -/
def Desc.inUnit (d : Desc) : Bool :=
  !d.parts.isEmpty && d.phase != .decided && d.phase != .done || d.phase == .dispatched || d.phase == .running

/-- DRAIN_LIMIT_EXPIRY: dispatched descriptors still running complete ABORTED (R68 step 2). -/
def State.opDrainLimit (s : State) (p : Nat) : State :=
  if s.pitchState p = 3 then s.abortDescs p Desc.inUnit else s

/-- Bivouacs that serve a pitch and run nothing are released: their caches and staging areas hold nothing of it (R200). -/
def State.releaseBivs (s : State) (p : Nat) : State :=
  (List.range 512).foldl (fun s b => match s.physOf b with
    | some n =>
      if s.reg (E.bivPitch n) = p ∧ (s.bivAt b).kernel.isNone then
        ((s.switchPitch b).setReg (E.bivPitch n) 0xFFFF)
      else s
    | none => s) s

/-- QUIESCE_DONE: nothing of the pitch is dispatched any more (R68 steps 3 to 5). -/
def State.opQuiesceDone (s : State) (p : Nat) (env : Env) : State :=
  if s.pitchState p ≠ 3 ∨ (s.work.descs.any fun d => d.id.pitch == p && d.inUnit) then s
  else
    let s := (s.wbFlush env p fun l => l.pitch == p).1
    let owned := s.region.table.filter fun e => e.2.owner == p && e.2.held && !e.2.isAlias
    let s := owned.foldl (fun s e => s.dropCopies e.1) s
    (s.releaseBivs p).setReg (E.pitchState p) 2

/-! ### REVOKING and PITCH_RESET (R65, R66, R97, R240, R396) -/

/-- A migration of the pitch is in progress (R97). -/
def State.migrating (s : State) (p : Nat) : Bool := s.work.migrations.any fun m => m.pitch == p

/-- The rings and the fault queue of a pitch are emptied (R65 step 6, R97, R240); `config` clears RING_CONFIG too. -/
def State.emptyRings (s : State) (p : Nat) (config : Bool) : State :=
  let s := (List.range 16).foldl (fun s r =>
    let x := s.ring p r
    s.setRing p r (if config then {} else { x with tail := 0, fetched := 0, dispatched := 0, floor := 0 })) s
  let s := { s with work := { s.work with
      descs := s.work.descs.filter fun d => d.id.pitch != p
      faults := s.work.faults.filter fun e => e.pitch != p
      invals := s.work.invals.filter fun v => v.pitch != p } }
  s.setRegs [(E.pitchFaultTail p, 0), (E.pitchFaultHead p, 0), (E.pitchFaultDone p, 0)]

/-- The engine objects of a pitch are freed (R65 step 5, R301, R326, R423). -/
def State.freeObjects (s : State) (p : Nat) : State :=
  { s with eng := { s.eng with
      tables := s.eng.tables.filter fun e => !(e.2.used && e.2.owner == p)
      indices := s.eng.indices.filter fun e => !(e.2.used && e.2.owner == p)
      groups := s.eng.groups.filter fun e => !(e.2.used && e.2.pitch == p) } }

/-- PITCH_REVOKE: a write of 0 to STATE; steps 1 to 5 of R65. -/
def State.revokePitch (s : State) (p : Nat) : State :=
  let st := s.pitchState p
  s.writeWhen ((st == 1 || st == 2 || st == 3) && (p != 0 || !s.otherPitches 0)) fun s =>
    let s := (s.setReg (E.pitchState p) 4).releaseMeters p
    let s := (s.abortDescs p fun _ => true).breakPitchLocks p
    let s := s.cancelHandovers p
    let s := s.freeAliases fun a => a.owner == p
    let owned := s.region.table.filter fun e => e.2.owner == p && e.2.held && !e.2.isAlias
    let s := owned.foldl (fun s e => s.destroyRegion e.1) s
    ((s.freeObjects p).dropPitchCache p).releaseBivs p

/-- Every descriptor of a pitch has completed. -/
def State.descsEnded (s : State) (p : Nat) : Bool :=
  !(s.work.descs.any fun d => d.id.pitch == p && d.phase != .done)

/-- A pitch becomes FREE: RESERVED_SLOTS and both meters return to their defaults (R396). -/
def State.freePitch (s : State) (p : Nat) : State :=
  (((s.setReg (E.pitchReservedSlots p) 0).setMeter (meterKey p true) {}).setMeter (meterKey p false) {}).setReg
    (E.pitchState p) 0

/-- REVOKE_DONE: step 6 of R65. -/
def State.opRevokeDone (s : State) (p : Nat) : State :=
  if s.pitchState p = 4 ∧ ¬ s.migrating p ∧ s.descsEnded p then (s.emptyRings p true).freePitch p
  else if s.pitchState p = 1 ∧ s.reg (E.pitchPitchReset p) = 1 ∧ ¬ s.migrating p ∧ s.descsEnded p then
    (s.emptyRings p false).setReg (E.pitchPitchReset p) 0
  else s

/-- PITCH_RESET: a write of 1 on an ACTIVE pitch; steps 1, 2 and 3 at once, and step 6 where nothing is left to end
(R66, R97). -/
def State.resetPitch (s : State) (p : Nat) : State :=
  s.writeWhen (s.pitchState p == 1) fun s =>
    let s := (s.abortDescs p fun _ => true).breakPitchLocks p
    let s := (s.cancelHandovers p).setReg (E.pitchPitchReset p) 1
    s.opRevokeDone p

/-! ### SERVING (R69, R395) -/

/-- Sum of the PIR of the URGENT meters of the pitches that pass a test (R395). -/
def State.urgentSum (s : State) (f : Nat → Bool) : Nat :=
  sumBy (fun e => e.2.pir) (s.meter.meters.filter fun e => e.1 % 2 == 0 && f (e.1 / 2))

/-- SERVING = 1. -/
def State.serves (s : State) (p : Nat) : Bool := s.reg (E.pitchServing p) == 1

/-- SERVING_WRITE: only while FREE, and within URGENT_CAP. -/
def State.writeServing (s : State) (p v : Nat) : State :=
  let sum := s.urgentSum fun q => q == p || s.serves q
  s.writeWhen (s.pitchState p == 0 && (v % 2 == 0 || decide (sum ≤ s.reg E.trailUrgentCap))) fun s =>
    s.setReg (E.pitchServing p) (v % 2)

/-! ### The end of a hand-over (R55) -/

/-- Flush a region by range from every Bivouac's cache, for every pitch (R55 step 2). -/
def State.wbFlushRegion (s : State) (env : Env) (r : Region) : State :=
  (s.biv.bivs.map fun e => e.1).foldl (fun s b =>
    (s.wbDrop env b (fun l => s.meetsRegion r l.addr 64) fun _ => true).1) s

/-- HANDOVER_COMPLETE: the old owner's descriptors have ended; its lines are flushed, its copies dropped, and the region
changes hands. -/
def State.opHandoverComplete (s : State) (id : DescId) (env : Env) : State :=
  match s.desc id with
  | none => s
  | some d =>
    let i := d.regionIndex
    let r := s.regionAt i
    if d.opcode ≠ 0x0B ∨ d.phase ≠ .running ∨ ¬ (s.region.accepting.any fun a => a.index == i && a.target == id.pitch) ∨
        r.state ≠ .handover ∨ ¬ s.handoverQuiet d r then s
    else
      let s := s.wbFlushRegion env r
      let s := (s.dropCopies i).endHandover i 1
      s.decideDesc d { status := 0, result := regionResult i r.basePage }

end Sys2Proof.Machine
end

