-- ==== Sys2Proof/Machine/Kettle.lean ====
section
/-! DEFINITION. Firmware images and the Kettle cores (R406 to R419). -/

namespace Sys2Proof.Machine

/-! ### Images (R409 to R412) -/

/-- The halves of a class. -/
def State.halves (s : State) (c : Nat) : Halves := SMap.get (fun _ => {}) s.kettle.images c

/-- Set the halves of a class. -/
def State.setHalves (s : State) (c : Nat) (h : Halves) : State :=
  { s with kettle := { s.kettle with images := SMap.set (fun _ => {}) s.kettle.images c h } }

/-- Word `i` of an image's header. -/
def hdrWord (img : List Byte) (i : Nat) : Nat := leNat ((img.drop (8 * i)).take 8)

/-- IMAGE_VERSION of an image; 0 for an empty half. -/
def imageVersion (img : List Byte) : Nat := bits (hdrWord img 1) 31 0

/-- Four version entries of 4 bytes: major and greatest minor (R409). -/
def versionList (img : List Byte) (first : Nat) : List (Nat × Nat) :=
  (List.range 4).map fun i =>
    let e := leNat ((img.drop (8 * first + 4 * i)).take 4)
    (bits e 15 8, bits e 7 0)

/-- Every bit that R409 does not name is zero. -/
def headerClean (img : List Byte) : Bool :=
  let w := hdrWord img
  bits (w 0) 63 48 == 0 && bits (w 1) 63 48 == 0 && bits (w 3) 63 24 == 0 &&
    ((List.range 8).all fun i => bits (w (4 + i)) 15 8 == 0 && bits (w (4 + i)) 63 48 == 0) &&
    ((List.range 4).all fun i => bits (w (12 + i)) 31 16 == 0 && bits (w (12 + i)) 63 48 == 0) && w 22 == 0 && w 23 == 0

/-- The first check of R410 that an image fails. -/
def State.imageFault (s : State) (c : Nat) (img : List Byte) : Option Nat :=
  let w := hdrWord img
  let size := bits (w 2) 31 0
  let key := bits (w 3) 23 16
  let payload := (img.drop 192).take size
  if ¬ (bits (w 0) 31 0 = 0x4B544C31 ∧ bits (w 0) 47 40 = 1 ∧ bits (w 0) 39 32 = c ∧ bits (w 3) 15 8 ≤ 8 ∧ headerClean img)
  then some 1
  else if ¬ (inRange size 64 1048576 ∧ size % 64 = 0 ∧ img.length = 192 + size + 96) then some 2
  else if ¬ (key < 8 ∧ s.fuses.keyAt key = 1) then some 3
  else if ¬ (ecdsaGood (SMap.get (fun _ => []) s.fuses.keys key) (sha384 (img.take 192)) (img.drop (192 + size)) ∧
      sha384 payload = (img.drop 128).take 48) then some 4
  else if ¬ bitOf (bits (w 3) 7 0) (s.reg E.idStepping) then some 5
  else if bits (w 1) 47 32 < s.fuses.floorAt c then some 6
  else none

/-- An image names a version of a class in one of its PEER entries (R409, R411). -/
def namesPeer (img : List Byte) (c v : Nat) : Bool :=
  (List.range (bits (hdrWord img 3) 15 8)).any fun i =>
    let e := hdrWord img (4 + i)
    let p := bits e 47 16
    bits e 7 0 == c && (p == v || (p / 65536 == v / 65536 && p % 65536 == 0xFFFF))

/-- Every pair of a set of images, one per class, names one another (R411). -/
def peersAgree (set : List (Nat × List Byte)) : Bool :=
  set.all fun a => set.all fun b => a.1 == b.1 || namesPeer a.2 b.1 (imageVersion b.2)

/-- The classes of a mask. -/
def maskClasses (m : Nat) : List Nat := [1, 2, 3].filter fun c => bitOf m c

/-- The images that run after a swap of some classes (R411). -/
def State.runningSet (s : State) (cs : List Nat) : List (Nat × List Byte) :=
  ([1, 2, 3].map fun c => (c, if cs.contains c then (s.halves c).inactive else (s.halves c).active)).filter
    fun e => e.2 != []

/-- A transfer is in progress: over a mailbox, over the dictionary, or under check (R413). -/
def State.transferring (s : State) : Bool :=
  s.kettle.xfer.isSome || s.kettle.checking.isSome ||
    s.dict.transfers.any fun t => t.entry.index * 256 + t.entry.sub == E.kettleStageImage

/-- A transfer begins to write the inactive half of its class. -/
def State.emptyHalf (s : State) (c : Nat) : State :=
  (s.setHalves c { s.halves c with inactive := [], ran := false }).setRegs
    [(E.imageInactiveVersion c, 0), (E.imageInactiveState c, 0)]

/-- The last part of a transfer has arrived, and Ember begins its checks (R413). -/
def State.closeImage (s : State) (c : Nat) (img : List Byte) : State :=
  let s := s.emptyHalf c
  let s := (s.setHalves c { s.halves c with inactive := img }).setReg (E.imageInactiveVersion c) (imageVersion img)
  { s with kettle := { s.kettle with xfer := none, checking := some c } }

/-- The STAGE_IMAGE block is written whole (R413). -/
def State.stageImage (s : State) (img : List Byte) : State :=
  let c := s.reg E.kettleStageClass
  s.writeWhen (inRange c 1 3 && s.kettle.checking.isNone && s.kettle.xfer.isNone) fun s => s.closeImage c img

/-- IMAGE_CHECK_DONE (R410). -/
def State.opImageChecked (s : State) : State :=
  match s.kettle.checking with
  | none => s
  | some c =>
    let s := { s with kettle := { s.kettle with checking := none } }
    match s.imageFault c (s.halves c).inactive with
    | none => s.setRegs [(E.imageInactiveState c, 1), (E.kettleLoadResult, 1), (E.kettleRefuseReason, 0)]
    | some r => (s.setRegs [(E.imageInactiveState c, 2), (E.kettleLoadResult, 3), (E.kettleRefuseReason, r)]).bump
        (E.imageRefusals c)

/-! ### The cores (R407, R414, R436) -/

/-- Set STATE and ROLE of a core. -/
def State.setCore (s : State) (k st role : Nat) : State := s.setRegs [(E.coreState k, st), (E.coreRole k, role)]

/-- STATE of a core. -/
def State.core (s : State) (k : Nat) : Nat := s.reg (E.coreState k)

/-- The negotiated version of two sides: the highest major that both list, and the lower of their greatest minors (R418). -/
def negotiated (a b : List (Nat × Nat)) : Option (Nat × Nat) :=
  let greatest := fun (l : List (Nat × Nat)) (m : Nat) => ((l.filter fun e => e.1 == m).map fun e => e.2).foldl max 0
  let both := (a.filter fun e => e.1 != 0 && b.any fun f => f.1 == e.1).map fun e => e.1
  match both with
  | [] => none
  | m :: ms =>
    let top := (m :: ms).foldl max 0
    some (top, min (greatest a top) (greatest b top))

/-- The internal version is negotiated anew (R418, R419). -/
def State.negotiate (s : State) : State :=
  let a := (s.halves 1).active
  let b := (s.halves 2).active
  s.setReg E.kettleIntMsgVersion
    (if a = [] ∨ b = [] then 0
     else match negotiated (versionList a 14) (versionList b 14) with
      | some v => v.1 * 256 + v.2
      | none => 0)

/-- The collective cores. -/
def collCores : List Nat := [2, 3, 4, 5, 6, 7]

/-- COLL_STATE as the images, the cores and the internal version make it (R414, R416, R419). -/
def State.settleColl (s : State) : State :=
  let was := s.reg E.kettleCollState
  let st :=
    if (s.halves 2).active = [] then 0
    else if s.kettle.draining ∨ s.kettle.switching then (if was = 0 then 0 else 4)
    else if collCores.any s.collCoreServes then (if s.reg E.kettleIntMsgVersion = 0 then 3 else 1)
    else if collCores.any fun k => s.core k == 1 then was
    else 2
  s.setReg E.kettleCollState st

/-- A collective is running on some core. -/
def State.collRunning (s : State) : Bool :=
  s.work.descs.any fun d => d.phase == .running && opUnit d.opcode == .coll

/-- The collective cores load the ACTIVE half (R414). -/
def State.loadColl (s : State) : State :=
  let first := s.reg E.kettleCollState == 0
  let s := collCores.foldl (fun s k => if s.core k = 2 ∨ (first ∧ s.core k = 0) then s.setCore k 1 0 else s) s
  let loading := collCores.any fun k => s.core k == 1
  ({ s with kettle := { s.kettle with draining := false, switching := loading } }).negotiate.settleColl

/-- A drain for a COLL activation ends once nothing runs (R414). -/
def State.pumpColl (s : State) : State := if s.kettle.draining ∧ ¬ s.collRunning then s.loadColl else s

/-- A COLL activation (R414). -/
def State.activateColl (s : State) : State :=
  ({ s with kettle := { s.kettle with draining := true } }.settleColl).pumpColl

/-- A management core begins to take over; requests are held unless Ember still serves (R414, R444). -/
def State.takeOver (s : State) (k : Nat) (relieved : Option (Nat × Bool)) : State :=
  let s := { s with kettle := { s.kettle with takeover := some k, relieved } }
  if s.reg E.mgmtDictServer = 0 then s else s.setReg E.mgmtDictServer 3

/-- A MGMT activation (R414). -/
def State.activateMgmt (s : State) : State :=
  let a := s.reg E.kettleMgmtActive
  let fit := fun k => s.core k != 4 && s.core k != 5
  if 2 ≤ a then
    if fit 0 then
      let s := s.setCore 0 1 0
      (if fit 1 then s.setCore 1 1 0 else s).takeOver 0 none
    else if fit 1 then (s.setCore 1 1 0).takeOver 1 none
    else s
  else if s.core (1 - a) = 3 then (s.setCore (1 - a) 1 2).takeOver (1 - a) (some (a, true))
  else (s.setCore a 1 1).takeOver a none

/-- The units that MGMT brings up after a reset (R199, R480 step 8). -/
def State.bringUp (s : State) : State :=
  if (List.range 33).any fun q => s.reg (E.sliceState q) != 0 then s
  else
    let s := (List.range 33).foldl (fun s q => s.setReg (E.sliceState q) (if q < 32 then 1 else 4)) s
    let s := (List.range 528).foldl (fun s n => s.setReg (E.bivState n) (if s.reg (E.bivLogical n) = 0xFFFF then 3 else 1)) s
    [UnitKind.bracken, .clover, .tinder, .heather].foldl (fun s k =>
      (List.range (kindNumber k)).foldl (fun s e => s.setReg (kindState k e) 1) s) s

/-- A management core serves from now on. -/
def State.mgmtRuns (s : State) (k : Nat) : State :=
  let s := (s.setCore k 2 1).setRegs [(E.kettleMgmtActive, k), (E.mgmtDictServer, 1 + k)]
  (s.bringUp.negotiate).settleColl

/-- The end of a takeover (R414): the core that took over serves, and the relieved core reloads or is fenced. -/
def State.endTakeover (s : State) : State :=
  match s.kettle.takeover with
  | none => s
  | some k =>
    let s := if s.core k = 1 then s.setReg (E.coreLastResetTime k) s.now else s
    let r := s.kettle.relieved
    let s := { s with kettle := { s.kettle with takeover := none, relieved := none } }
    let s := s.mgmtRuns k
    match r with
    | some (o, true) => s.setCore o 1 0
    | some (o, false) => s.setCore o 5 0
    | none => s

/-- A core has loaded the ACTIVE half of its class (R414, R415). -/
def State.coreLoaded (s : State) (k : Nat) : State :=
  if k < 8 ∧ s.core k = 1 ∧ s.kettle.takeover ≠ some k then
    let s := s.setReg (E.coreLastResetTime k) s.now
    if k < 2 then
      if s.reg E.kettleMgmtActive = 0xFF ∧ s.kettle.takeover = none then s.mgmtRuns k else (s.setCore k 3 2).negotiate.settleColl
    else
      let s := s.setCore k 2 3
      let s := { s with kettle := { s.kettle with switching := s.kettle.switching && collCores.any fun j => s.core j == 1 } }
      s.negotiate.settleColl
  else s

/-! ### Activation (R411, R413, R414) -/

/-- The halves of a class swap (R412). -/
def State.swapHalves (s : State) (c : Nat) : State :=
  let h := s.halves c
  let s := s.setHalves c { active := h.inactive, inactive := h.active, ran := h.active != [] }
  (s.setRegs [(E.imageActiveVersion c, imageVersion h.inactive), (E.imageInactiveVersion c, imageVersion h.active),
    (E.imageInactiveState c, if h.active = [] then 0 else 3)]).bump (E.imageActivations c)

/-- An activation of classes whose inactive halves may run: refused as a whole under R411, or taken. -/
def State.activateSet (s : State) (cs : List Nat) : State :=
  if ¬ peersAgree (s.runningSet cs) then
    cs.foldl (fun s c => s.bump (E.imageRefusals c)) (s.setRegs [(E.kettleLoadResult, 3), (E.kettleRefuseReason, 7)])
  else
    let s := (cs.foldl State.swapHalves s).setReg E.kettleLoadResult 2
    let s := if cs.contains 1 then s.activateMgmt else s
    if cs.contains 2 then s.activateColl else s

/-- A write of ACTIVATE (R413, R482). -/
def State.writeActivate (s : State) (m : Nat) : State :=
  let cs := maskClasses m
  s.writeWhen (s.coreOn && cs != [] && cs.all fun c => s.reg (E.imageInactiveState c) == 1) fun s => s.activateSet cs

/-- A write of REVERT (R413, R482). -/
def State.writeRevert (s : State) (m : Nat) : State :=
  let cs := maskClasses m
  s.writeWhen (s.coreOn && cs != [] && cs.all fun c => (s.halves c).ran) fun s => s.activateSet cs

/-! ### Watchdogs and drains (R414 to R416) -/

/-- The collective that runs on a core is lost with it: it completes UNIT_FAILED and tells nobody (R415). -/
def State.loseColl (s : State) (k : Nat) : State :=
  (s.work.descs.filter fun d => d.unit == some (.kettle k) && d.phase == .running).foldl
    (fun s d => (s.dropRun d.id).cutDesc d.id 0x0B) s

/-- Collective descriptors given to a core that no longer serves, and not started, go to the core that now serves their
group (R416, R505). -/
def State.moveColl (s : State) (k : Nat) : State :=
  (s.unitWaiting (.kettle k)).foldl (fun s d =>
    match s.coreFor d with
    | some j => s.setDesc { d with unit := some (.kettle j) }
    | none => s.decideDesc d { status := 0xA5 }) s

/-- A collective core has left service for good: its groups and waiting descriptors move. -/
def State.releaseCore (s : State) (k : Nat) : State := ((s.rebindGroups k).settleColl).moveColl k

/-- A core becomes FAILED (R416). -/
def State.failCore (s : State) (k : Nat) : State :=
  let s := (s.setCore k 4 0).logEvent 0x0005 3 0xFFF (unitWord .kettle k) k
  if 2 ≤ k then s.releaseCore k
  else
    let o := 1 - k
    if s.reg E.kettleMgmtActive = k ∨ s.kettle.takeover = some k then
      if s.core o = 3 ∨ s.core o = 1 then (s.takeOver o none)
      else
        let s := { s with kettle := { s.kettle with takeover := none, relieved := none } }
        s.setRegs [(E.kettleMgmtActive, 0xFF), (E.mgmtDictServer, 0)]
    else s

/-- A core is reset and loads the ACTIVE half of its class again (R415). -/
def State.reloadCore (s : State) (k : Nat) : State :=
  if 2 ≤ k then ((s.setCore k 1 0).loseColl k).settleColl
  else
    let active := s.reg E.kettleMgmtActive == k
    let standby := s.core (1 - k) == 3
    let s := s.setCore k 1 0
    if active then (if standby then s.takeOver (1 - k) none else s.takeOver k none) else s

/-- WATCHDOG_EXPIRY (R415, R416, R530). -/
def State.opWatchdog (s : State) (k : Nat) : State :=
  if ¬ (k < 8 ∧ s.coreOn ∧ (s.core k = 2 ∨ s.core k = 3)) ∨ (2 ≤ k ∧ s.stopped) then s
  else
    let recent := (s.kettle.expiries.filter fun e => decide (s.cclk < e.2 + msCclk 10000)) ++ [(k, s.cclk)]
    let s := { s with kettle := { s.kettle with expiries := recent } }
    let s := (s.bump (E.coreWatchdogResets k)).logEvent 0x0004 1 0xFFF (unitWord .kettle k) k
    if s.reg E.kettlePersistLimit ≤ (recent.filter fun e => e.1 == k).length then (s.loseColl k).failCore k
    else s.reloadCore k

/-- COLL_DRAIN passes during a COLL switch: what still runs completes FW_SWITCH (R414). -/
def State.collDrainEnds (s : State) : State :=
  if s.kettle.draining ∧ ¬ s.stopped then
    let running := s.work.descs.filter fun d => d.phase == .running && opUnit d.opcode == .coll
    (running.foldl (fun s d => s.cutDesc d.id 0xAA) s).loadColl
  else s

end Sys2Proof.Machine
end

