-- ==== Sys2Proof/Machine/Search.lean ====
section
/-! DEFINITION. The Heather commands: similarity indices, their generations, inserts, deletes, compaction and queries
(R320 to R342). -/

namespace Sys2Proof.Machine

/-! ### Layout (R321 to R324) -/

/-- Set an index record. -/
def State.setIndex (s : State) (h : Nat) (x : Index) : State :=
  { s with eng := { s.eng with indices := SMap.set (fun _ => {}) s.eng.indices h x } }

/-- Bytes of an entry: its metadata block and its sketch. -/
def Index.entryBytes (x : Index) : Nat := 32 + sketchBytes x.sw

/-- SLOTS of a bucket (R322). -/
def Index.slots (x : Index) : Nat := (4096 - 64) / x.entryBytes

/-- Pool address of bucket number `g`. -/
def Index.bucket (x : Index) (g : Nat) : Nat := x.bucketBase + 4096 * g

/-- Bucket number of a pool address. -/
def Index.bucketNo (x : Index) (a : Nat) : Nat := (a - x.bucketBase) / 4096

/-- Pool address of entry `j` of the bucket at `a`. -/
def Index.entryAddr (x : Index) (a j : Nat) : Nat := a + 64 + j * x.entryBytes

/-- Pool address of place `i` of the free-slot ring. -/
def Index.ringAddr (x : Index) (i : Nat) : Nat :=
  x.bucketBase + 4096 * (2 ^ x.keyBits + x.ovfBuckets) + 4 * (i % x.capacity)

/-- LONGEST_CHAIN (R348). -/
def Index.longest (x : Index) : Nat := if x.used then 1 + x.chains.foldl (fun a e => max a e.2) 0 else 0

/-- The sets of `k` elements of a list, in ascending lexicographic order of their places. -/
def combos : Nat → List Nat → List (List Nat)
  | 0, _ => [[]]
  | _ + 1, [] => []
  | k + 1, a :: l => (combos k l).map (a :: ·) ++ combos (k + 1) l

/-- The keys that a query with home key `home` probes (R324). -/
def probeKeys (b home probes : Nat) : List Nat :=
  (((List.range (b + 1)).flatMap fun t => (combos t (List.range b)).map fun fs =>
    fs.foldl (fun k i => k ^^^ 2 ^ i) home)).take (min probes (2 ^ b))

/-- A bucket as it is read: LIVE, TOMB, NEXT and its bytes. -/
structure Bucket where
  addr : Nat
  live : Nat
  tomb : Nat
  next : Nat
  bytes : List Byte

/-- Interpret the bytes of a bucket. -/
def bucketOf (addr : Nat) (bs : List Byte) : Bucket :=
  { addr, live := (bs.getD 0 0).toNat, tomb := (bs.getD 1 0).toNat, next := bits (leNat ((bs.drop 8).take 8)) 51 0,
    bytes := bs }

/-- Word `i` of the metadata block of entry `j` of a bucket (R323). -/
def Bucket.meta (b : Bucket) (x : Index) (j i : Nat) : Nat := leNat ((b.bytes.drop (64 + j * x.entryBytes + 8 * i)).take 8)

/-- STATE of entry `j`. -/
def Bucket.state (b : Bucket) (x : Index) (j : Nat) : Nat := bits (b.meta x j 1) 49 48

/-- The sketch of entry `j`. -/
def Bucket.sketch (b : Bucket) (x : Index) (j : Nat) : Nat :=
  leNat ((b.bytes.drop (64 + j * x.entryBytes + 32)).take (sketchBytes x.sw))

/-- Read the bucket at a pool address: none is poison. -/
def State.readBucket (s : State) (env : Env) (p addr : Nat) (c : EngCharge) : State × Option Bucket :=
  match s.readPool env p addr 4096 c with
  | (s, .ok, bs) => (s, some (bucketOf addr bs))
  | (s, _, _) => (s, none)

/-- Read a chain from the bucket at `addr`, which its predecessor or its key names: the buckets up to the one whose NEXT is
zero, and whether one was poisoned. -/
def State.readChain (env : Env) (p : Nat) (c : EngCharge) : Nat → Nat → State → State × List Bucket × Bool
  | 0, _, s => (s, [], false)
  | n + 1, addr, s =>
    match s.readBucket env p addr c with
    | (s, none) => (s, [], true)
    | (s, some b) =>
      if b.next = 0 then (s, [b], false)
      else
        let r := readChain env p c n b.next s
        (r.1, b :: r.2.1, r.2.2)

/-- Write the header of a bucket. -/
def State.writeHeader (s : State) (env : Env) (p : Nat) (b : Bucket) (c : EngCharge) : State :=
  s.writePool env p b.addr (bytesOfWords [packWord [(0, b.live % 256), (8, b.tomb % 256)], packWord [(0, b.next)]]) c

/-! ### Creating and destroying (R325, R326) -/

/-- The lowest free index handle. -/
def State.freeIndex (s : State) : Option Nat :=
  ((List.range (s.eng.indices.length + 1)).find? fun h => !(s.indexAt h).used).filter fun h => decide (h < 512)

/-- Indices bound to a Heather. -/
def State.indicesBound (s : State) (e : Nat) : Nat := (s.eng.indices.filter fun x => x.2.heather == e).length

/-- The serving Heather with the fewest bound indices, the lowest number winning a tie (R325). -/
def State.chooseHeather (s : State) : Option Nat :=
  argMin s.indicesBound ((List.range 64).filter fun e => s.reg (E.heatherState e) == 1 && !s.fencing .heather e)

/-- Write the lines of a new bucket area: every entry EMPTY, the overflow buckets chained, the ring zero (R325). -/
def State.layIndex (s : State) (env : Env) (p : Nat) (x : Index) (c : EngCharge) : State :=
  let n := 2 ^ x.keyBits
  (List.range (bucketArea x.keyBits x.ovfBuckets x.capacity / 64)).foldl (fun s k =>
    let g := k / 64
    let next := if k % 64 = 0 ∧ n ≤ g ∧ g + 1 < n + x.ovfBuckets then x.bucket (g + 1) else 0
    s.writePool env p (x.bucketBase + 64 * k) (lineBytes (lineOfWords [0, BitVec.ofNat 64 next])) c) s

/-- IDX_CREATE (R325). -/
def State.opIdxCreate (s : State) (id : DescId) (env : Env) : State :=
  match s.engineCmd id 0x40 .heather with
  | none => s
  | some (d, _) =>
    let p := id.pitch
    if ¬ d.idxCreateOk then s.endCmd d 0x03
    else
      let cap := d.fld 7 31 0
      let ovf := d.fld 7 55 32
      let lb := bucketArea (d.fld 6 4 0) ovf cap
      let lv := cap * vecStride (d.fld 6 19 16) (d.fld 6 44 32)
      match s.freeIndex, s.chooseHeather with
      | some h, some e =>
        if s.reg E.indicesIndexLimit ≤ s.eng.indices.length then s.endCmd d 0x81
        else match s.oneExtent d.record (d.fld 4 56 0) lb, s.oneExtent d.record (d.fld 5 56 0) lv with
          | some bb, some vb =>
            if ¬ (s.rangeRights p bb lb true ∧ s.rangeRights p vb lv true) then s.endCmd d 0x82
            else
              let x : Index :=
                { owner := p, heather := e, params := d.fld 6 44 0, bucketBase := bb, vecBase := vb, capacity := cap,
                  ovfBuckets := ovf, ovfHead := if ovf = 0 then 0 else bb + 4096 * 2 ^ d.fld 6 4 0, ovfFree := ovf,
                  used := true }
              ((s.setIndex h x).layIndex env p x d.charge).endCmd d 0 h
          | _, _ => s.endCmd d 0x82
      | _, _ => s.endCmd d 0x81

/-- A descriptor names an index by its handle. -/
def Desc.namesIndex (d : Desc) (h : Nat) : Bool := inRange d.opcode 0x41 0x45 && d.fld 4 8 0 == h

/-- IDX_DESTROY (R326). -/
def State.opIdxDestroy (s : State) (id : DescId) : State :=
  match s.engineCmd id 0x45 .heather with
  | none => s
  | some (d, _) =>
    let h := d.fld 4 8 0
    match s.indexOf id.pitch h with
    | none => s.endCmd d 0x80
    | some _ =>
      if s.dispatchedOther id (·.namesIndex h) then s.endCmd d 0x83
      else (s.setIndex h {}).endCmd d 0

/-- The indices of a Heather that stops serving are bound again (R342). -/
def State.rebindIndices (s : State) (b : Nat) : State :=
  (s.eng.indices.filter fun e => e.2.heather == b).foldl (fun s e =>
    match s.chooseHeather with
    | some c => s.setIndex e.1 { s.indexAt e.1 with heather := c }
    | none => s) s

/-! ### Generations and snapshots (R327, R328) -/

/-- The greatest generation of an index that committed before a tick. -/
def Index.snapshot (x : Index) (t : Nat) : Nat := ((x.commits.find? fun c => decide (c.2 < t)).map fun c => c.1).getD 0

/-- The snapshot of a query descriptor, where it is fixed. -/
def State.snapOf (s : State) (id : DescId) : Option Nat := (s.eng.snaps.find? fun x => x.1 == id).map fun x => x.2.2

/-- Fix the snapshot of a query descriptor on an index, unless it is fixed. -/
def State.fixSnap (s : State) (d : Desc) (h : Nat) : State :=
  if (s.snapOf d.id).isSome then s
  else
    let g := (s.indexAt h).snapshot (if d.timed then d.launch else d.start.getD s.now)
    { s with eng := { s.eng with snaps := s.eng.snaps ++ [(d.id, h, g)] } }

/-- QUERY_SNAPSHOT_FIX: the count has reached the LAUNCH_TIME of a dispatched timed query. -/
def State.opSnapshotFix (s : State) (id : DescId) : State :=
  match s.desc id with
  | some d =>
    if d.opcode = 0x44 ∧ d.timed ∧ (d.phase = .dispatched ∨ d.phase = .running) ∧ d.launch ≤ s.now ∧
        (s.indexOf id.pitch (d.fld 4 8 0)).isSome then s.fixSnap d (d.fld 4 8 0)
    else s
  | none => s

/-- An earlier change of an index has not committed: the next one waits (R327). -/
def State.changing (s : State) (id : DescId) (h : Nat) : Bool := s.eng.gens.any fun g => g.2.1 == h && g.1 != id

/-- An insert or a delete takes its generation at its start (R327). -/
def State.takeGen (s : State) (id : DescId) (h : Nat) : State × Nat :=
  let g := (s.indexAt h).committed + 1
  ({ s with eng := { s.eng with gens := s.eng.gens ++ [(id, h, g)] } }, g)

/-- How a change of an index ends early: it is full, or it met poison. -/
inductive IndexStop where
  | full
  | poison
  | operand (st : EngStat)
  deriving DecidableEq, Repr

/-- The status of a change and the mark that poison leaves on the index (R331, R341). -/
def State.stopIndex (s : State) (h : Nat) (e : Option IndexStop) (done : Nat) : State × DescOut :=
  match e with
  | none => (s, { status := 0, result := done })
  | some .full => (s, { status := 0x84, result := done })
  | some .poison => (s.setIndex h { s.indexAt h with damaged := true }, { status := 0x08, result := done })
  | some (.operand st) => (s, { status := statOut st, result := done })

/-! ### IDX_INSERT (R330, R331) -/

/-- The vector slot that the next record takes, with the index after it; an outer none is poison, an inner one that none
is free. -/
def State.takeVecSlot (s : State) (env : Env) (x : Index) (c : EngCharge) : State × Option (Option (Nat × Index)) :=
  if 0 < x.ringCount then
    match s.readPool env x.owner (x.ringAddr x.ringHead) 4 c with
    | (s, .ok, bs) =>
      (s, some (some (leNat bs, { x with ringHead := (x.ringHead + 1) % x.capacity, ringCount := x.ringCount - 1 })))
    | (s, _, _) => (s, none)
  else if x.fresh < x.capacity then (s, some (some (x.fresh, { x with fresh := x.fresh + 1 })))
  else (s, some none)

/-- The first EMPTY entry of a chain. -/
def firstEmpty (x : Index) (chain : List Bucket) : Option (Bucket × Nat) :=
  chain.findSome? fun b => ((List.range x.slots).find? fun j => b.state x j == 0).map fun j => (b, j)

/-- The metadata block of an entry. -/
def metaBytes (vid vslot tag state ins del : Nat) : List Byte :=
  leBytes 8 vid ++ bytesOfWords [packWord [(0, vslot), (32, tag), (48, state)]] ++ leBytes 8 ins ++ leBytes 8 del

/-- Write an entry: its sketch, then its metadata line (R329). -/
def State.writeEntry (s : State) (env : Env) (x : Index) (addr j : Nat) (sketch mb : List Byte) (c : EngCharge) : State :=
  let a := x.entryAddr addr j
  (s.writePool env x.owner (a + 32) sketch c).writePool env x.owner a mb c

/-- Insert one record: the state, and its locator or why insertion stops. -/
def State.insertRecord (s : State) (env : Env) (h gen vid tag : Nat) (sketch vec : List Byte) (c : EngCharge) :
    State × Except IndexStop Nat :=
  let x := s.indexAt h
  match s.takeVecSlot env x c with
  | (s, none) => (s, .error .poison)
  | (s, some none) => (s, .error .full)
  | (s, some (some (slot, x1))) =>
    let key := leNat sketch % 2 ^ x.keyBits
    match s.readChain env x.owner c (x.ovfBuckets + 1) (x.bucket key) with
    | (s, _, true) => (s, .error .poison)
    | (s, chain, false) =>
      let data := vec ++ List.replicate (x.stride - vec.length) 0
      let mb := metaBytes vid slot tag 1 gen 0
      let putVec := fun s : State => s.writePool env x.owner (x.vecBase + slot * x.stride) data c
      match firstEmpty x chain with
      | some (b, j) =>
        let s := ((putVec (s.setIndex h x1)).writeEntry env x b.addr j sketch mb c).writeHeader env x.owner
          { b with live := b.live + 1 } c
        (s, .ok (x.bucketNo b.addr + j * 2 ^ 32))
      | none =>
        if x.ovfFree = 0 then (s, .error .full)
        else match s.readBucket env x.owner x.ovfHead c with
          | (s, none) => (s, .error .poison)
          | (s, some nb) =>
            let x2 := { x1 with ovfHead := nb.next, ovfFree := x.ovfFree - 1,
                                chains := SMap.upd (fun _ => 0) x1.chains key (· + 1) }
            let body := leBytes 8 1 ++ leBytes 56 0 ++ mb ++ sketch
            let s := (putVec (s.setIndex h x2)).writePool env x.owner nb.addr
              (body ++ List.replicate (4096 - body.length) 0) c
            let s := match chain.getLast? with
              | some t => s.writeHeader env x.owner { t with next := nb.addr } c
              | none => s
            (s, .ok (x.bucketNo nb.addr))

/-- The records of an insert in list order, up to `limit` where the engine fails: the records inserted and why it
stopped. -/
def State.insertAll (s : State) (env : Env) (d : Desc) (h gen limit : Nat) (ids sk vs tags : List Byte) :
    State × Nat × Option IndexStop :=
  let x := s.indexAt h
  let locs := d.fld 9 56 0
  (List.range (min limit (d.fld 10 20 0))).foldl (fun (acc : State × Nat × Option IndexStop) i =>
    match acc with
    | (s, n, none) =>
      let cut := fun (w : Nat) (bs : List Byte) => (bs.drop (w * i)).take w
      let vec := (cut x.stride vs).take (x.dim * vecElem x.fmt)
      match s.insertRecord env h gen (leNat (cut 8 ids)) (leNat (cut 2 tags)) (cut (sketchBytes x.sw) sk) vec d.charge with
      | (s, .ok loc) =>
        let s := if locs = 0 then s else (s.writeVirt env d.id.pitch d.record (locs + 8 * i) (leBytes 8 loc) d.charge).1
        (s, n + 1, none)
      | (s, .error e) => (s, n, some e)
    | _ => acc) (s, 0, none)

/-- The work of an IDX_INSERT. -/
def State.runInsert (s : State) (d : Desc) (env : Env) (limit : Nat) : State × DescOut :=
  let h := d.fld 4 8 0
  match s.indexOf d.id.pitch h with
  | none => (s, { status := 0x80 })
  | some x =>
    let (s, gen) := s.takeGen d.id h
    let n := d.fld 10 20 0
    if x.damaged then (s, { status := 0x85 })
    else if ¬ inRange n 1 1048576 then (s, { status := 0x03 })
    else if d.operands = [] then (s, { status := 0x80 })
    else match s.readRanges env d [(d.fld 5 56 0, 8 * n), (d.fld 6 56 0, n * sketchBytes x.sw),
        (d.fld 7 56 0, n * x.stride), (d.fld 8 56 0, if d.fld 8 56 0 = 0 then 0 else 2 * n)] with
      | (s, .ok, bs) =>
        match s.insertAll env d h gen limit (bs.getD 0 []) (bs.getD 1 []) (bs.getD 2 []) (bs.getD 3 []) with
        | (s, n, e) => s.stopIndex h e n
      | (s, st, _) => s.stopIndex h (some (.operand st)) 0

/-- An index change that waits its turn does nothing yet; else it runs and is decided. -/
def State.runChange (s : State) (id : DescId) (op : Nat) (run : State → Desc → State × DescOut) : State :=
  match s.engineCmd id op .heather with
  | none => s
  | some (d, _) =>
    if s.changing id (d.fld 4 8 0) then s
    else let r := run s d; r.1.decideDesc d r.2

/-- IDX_INSERT. -/
def State.opIdxInsert (s : State) (id : DescId) (env : Env) : State :=
  s.runChange id 0x41 fun s d => s.runInsert d env (d.fld 10 20 0)

/-! ### IDX_DELETE (R332) -/

/-- Delete the entry that a locator names: none is poison, else whether it was deleted. -/
def State.deleteRecord (s : State) (env : Env) (h gen loc vid : Nat) (c : EngCharge) : State × Option Bool :=
  let x := s.indexAt h
  let g := bits loc 31 0
  let j := bits loc 39 32
  if ¬ (g < 2 ^ x.keyBits + x.ovfBuckets ∧ j < x.slots) then (s.bump E.indicesDeleteMisses, some false)
  else match s.readBucket env x.owner (x.bucket g) c with
    | (s, none) => (s, none)
    | (s, some b) =>
      if b.state x j = 1 ∧ b.meta x j 0 = vid then
        let w1 := b.meta x j 1
        let mb := metaBytes vid (bits w1 31 0) (bits w1 47 32) 2 (b.meta x j 2) gen
        let s := s.writePool env x.owner (x.entryAddr b.addr j) mb c
        (s.writeHeader env x.owner { b with live := b.live - 1, tomb := b.tomb + 1 } c, some true)
      else (s.bump E.indicesDeleteMisses, some false)

/-- The work of an IDX_DELETE. -/
def State.runDelete (s : State) (d : Desc) (env : Env) (limit : Nat) : State × DescOut :=
  let h := d.fld 4 8 0
  match s.indexOf d.id.pitch h with
  | none => (s, { status := 0x80 })
  | some x =>
    let (s, gen) := s.takeGen d.id h
    let n := d.fld 7 20 0
    if x.damaged then (s, { status := 0x85 })
    else if ¬ inRange n 1 1048576 then (s, { status := 0x03 })
    else if d.operands = [] then (s, { status := 0x80 })
    else match s.readRanges env d [(d.fld 5 56 0, 8 * n), (d.fld 6 56 0, 8 * n)] with
      | (s, .ok, bs) =>
        let locs := elemsOf 8 (bs.getD 0 [])
        let ids := elemsOf 8 (bs.getD 1 [])
        let r := (List.range (min limit n)).foldl (fun (acc : State × Nat × Option IndexStop) i =>
          match acc with
          | (s, k, none) =>
            match s.deleteRecord env h gen (locs.getD i 0) (ids.getD i 0) d.charge with
            | (s, some b) => (s, k + b2n b, none)
            | (s, none) => (s, k, some .poison)
          | _ => acc) (s, 0, none)
        r.1.stopIndex h r.2.2 r.2.1
      | (s, st, _) => s.stopIndex h (some (.operand st)) 0

/-- IDX_DELETE. -/
def State.opIdxDelete (s : State) (id : DescId) (env : Env) : State :=
  s.runChange id 0x42 fun s d => s.runDelete d env (d.fld 7 20 0)

/-! ### IDX_COMPACT (R333, R334) -/

/-- The horizon of a compaction (R333). -/
def State.horizon (s : State) (h : Nat) : Nat :=
  (((s.eng.snaps.filter fun x => x.2.1 == h).map fun x => x.2.2).min?).getD (s.indexAt h).committed

/-- Reclaim the entries of a bucket that no snapshot can see: the state, the bucket afterwards, and how many. -/
def State.reclaimBucket (s : State) (env : Env) (h hor : Nat) (b : Bucket) (c : EngCharge) : State × Bucket × Nat :=
  let x := s.indexAt h
  let dead := (List.range x.slots).filter fun j => b.state x j == 2 && decide (b.meta x j 3 ≤ hor)
  let s := dead.foldl (fun (s : State) j =>
    let x := s.indexAt h
    let s := s.writePool env x.owner (x.entryAddr b.addr j) (List.replicate 32 0) c
    let s := s.writePool env x.owner (x.ringAddr (x.ringHead + x.ringCount)) (leBytes 4 (bits (b.meta x j 1) 31 0)) c
    s.setIndex h { x with ringCount := x.ringCount + 1 }) s
  let b := { b with tomb := b.tomb - dead.length }
  (if dead = [] then s else s.writeHeader env x.owner b c, b, dead.length)

/-- The query descriptors that hold an unlinked bucket back (R334). -/
def State.holders (s : State) (h : Nat) : List DescId := (s.eng.snaps.filter fun x => x.2.1 == h).map fun x => x.1

/-- Unlink an overflow bucket: its predecessor now leads to what follows it. -/
def State.unlinkBucket (s : State) (env : Env) (h key : Nat) (prev b : Bucket) (c : EngCharge) : State × Bucket :=
  let x := s.indexAt h
  let prev := { prev with next := b.next }
  ((s.writeHeader env x.owner prev c).setIndex h
    { x with unlinked := x.unlinked ++ [(b.addr, s.holders h)]
             chains := SMap.upd (fun _ => 0) x.chains key (· - 1) }, prev)

/-- Compact one chain: none in the last place is no poison. -/
def State.compactChain (s : State) (env : Env) (h hor key : Nat) (c : EngCharge) : State × Nat × Option IndexStop :=
  let x := s.indexAt h
  match s.readChain env x.owner c (x.ovfBuckets + 1) (x.bucket key) with
  | (s, _, true) => (s, 0, some .poison)
  | (s, chain, false) =>
    let r := chain.foldl (fun (acc : State × Nat × Option Bucket) b =>
      let (s, b, n) := acc.1.reclaimBucket env h hor b c
      match acc.2.2 with
      | none => (s, acc.2.1 + n, some b)
      | some prev =>
        if b.live = 0 ∧ b.tomb = 0 then
          let (s, prev) := s.unlinkBucket env h key prev b c
          (s, acc.2.1 + n, some prev)
        else (s, acc.2.1 + n, some b)) (s, 0, none)
    (r.1, r.2.1, none)

/-- The work of an IDX_COMPACT; `limit` is where a failing engine stops. -/
def State.runCompact (s : State) (d : Desc) (env : Env) (limit : Option Nat) : State × DescOut :=
  let h := d.fld 4 8 0
  match s.indexOf d.id.pitch h with
  | none => (s, { status := 0x80 })
  | some x =>
    let first := d.fld 5 31 0
    let n := if d.fld 5 63 32 = 0 then 2 ^ x.keyBits - first else d.fld 5 63 32
    if x.damaged then (s, { status := 0x85 })
    else if 2 ^ x.keyBits ≤ first ∨ 2 ^ x.keyBits < first + n then (s, { status := 0x03 })
    else
      let hor := s.horizon h
      let r := (List.range n).foldl (fun (acc : State × Nat × Option IndexStop) i =>
        match acc with
        | (s, k, none) =>
          if limit.any fun l => decide (l ≤ k) then (s, k, none)
          else
            let q := s.compactChain env h hor (first + i) d.charge
            (q.1, k + q.2.1, q.2.2)
        | _ => acc) (s, 0, none)
      r.1.stopIndex h r.2.2 r.2.1

/-- IDX_COMPACT. -/
def State.opIdxCompact (s : State) (id : DescId) (env : Env) : State := s.runChange id 0x43 fun s d => s.runCompact d env none

/-- OVF_BUCKET_RETURN: the oldest unlinked bucket that no query holds back goes to the front of the free list (R334). -/
def State.opBucketReturn (s : State) (h : Nat) (env : Env) : State :=
  let x := s.indexAt h
  match x.unlinked.find? fun u => u.2.isEmpty with
  | none => s
  | some u =>
    if ¬ (x.used ∧ s.coreOn) then s
    else
      let s := s.writeHeader env x.owner { addr := u.1, live := 0, tomb := 0, next := x.ovfHead, bytes := [] } .none
      s.setIndex h { x with unlinked := removeFirst (fun y => y == u) x.unlinked, ovfHead := u.1, ovfFree := x.ovfFree + 1 }

/-! ### IDX_QUERY (R335 to R340) -/

/-- A visible entry that a query examined (R336). -/
structure Cand where
  vid : Nat
  slot : Nat
  tag : Nat
  hamming : Nat
  score : Nat := 0

/-- Set bits of a number of `w` bits. -/
def popcount (w x : Nat) : Nat := ((List.range w).filter fun i => bitOf x i).length

/-- The visible entries of a bucket in order (R328, R336). -/
def Bucket.visible (b : Bucket) (x : Index) (snap sketch : Nat) : List Cand :=
  (List.range x.slots).filterMap fun j =>
    let ok := (b.state x j == 1 || b.state x j == 2) && decide (b.meta x j 2 ≤ snap) &&
      (b.meta x j 3 == 0 || decide (snap < b.meta x j 3))
    if ok then
      some { vid := b.meta x j 0, slot := bits (b.meta x j 1) 31 0, tag := bits (b.meta x j 1) 47 32,
             hamming := popcount (8 * sketchBytes x.sw) (sketch ^^^ b.sketch x j) }
    else none

/-- The order of two scores: the first is strictly better (R337). -/
def better (metric a b : Nat) : Bool :=
  if metric = 1 then (fp32.decode a).lt (fp32.decode b) else (fp32.decode b).lt (fp32.decode a)

/-- The sum of products of FP32 values, with no stop at a value that is not finite. -/
def sumProd (a b : List Nat) : Nat := (a.zip b).foldl (fun c x => accumulate c ((fp32.decode x.1).mul (fp32.decode x.2))) 0

/-- The score of a candidate (R337). -/
def scoreOf (metric : Nat) (q x : List Nat) : Nat :=
  match metric with
  | 1 => let d := (q.zip x).map fun y => fsub32 y.1 y.2; sumProd d d
  | 0 => sumProd q x
  | _ =>
    let norm := fmul32 (fp32.sqrt .rne (sumProd q q)).1 (fp32.sqrt .rne (sumProd x x)).1
    (fp32.div .rne (sumProd q x) norm).1

/-- A stored vector as FP32 values. -/
def vecValues (fmt dim : Nat) (bs : List Byte) : List Nat :=
  ((elemsOf (vecElem fmt) bs).take dim).map fun x => (fp32.encode .rne ((wideFmt fmt).decode x)).1

/-- What a query has found. -/
structure QueryOut where
  seen : Nat := 0
  buckets : Nat := 0
  cands : List Cand := []
  scored : Nat := 0
  poison : Bool := false
  nonfinite : Bool := false

/-- Examine the probed chains of a query. -/
def State.probe (s : State) (env : Env) (h snap sketch probes : Nat) (c : EngCharge) : State × QueryOut :=
  let x := s.indexAt h
  (probeKeys x.keyBits (sketch % 2 ^ x.keyBits) probes).foldl (fun (acc : State × QueryOut) key =>
    let r := acc.1.readChain env x.owner c (x.ovfBuckets + 1) (x.bucket key)
    let found := r.2.1.flatMap fun b => b.visible x snap sketch
    let o := acc.2
    (r.1, { o with seen := o.seen + found.length, buckets := o.buckets + r.2.1.length + b2n r.2.2,
                   cands := o.cands ++ found, poison := o.poison || r.2.2 })) (s, {})

/-- Score the candidates of a query in their order. -/
def State.scoreAll (s : State) (env : Env) (h : Nat) (q : List Nat) (c : EngCharge) (o : QueryOut) : State × QueryOut :=
  let x := s.indexAt h
  o.cands.foldl (fun (acc : State × QueryOut) k =>
    let r := acc.1.readPool env x.owner (x.vecBase + k.slot * x.stride) x.stride c
    let o := acc.2
    if r.2.1 ≠ .ok then (r.1, { o with poison := true })
    else
      let sc := scoreOf x.metric q (vecValues x.fmt x.dim r.2.2)
      if (fp32.decode sc).finite then
        (r.1, { o with scored := o.scored + 1, cands := o.cands ++ [{ k with score := sc }] })
      else (r.1.bump E.indicesNonfiniteScores, { o with scored := o.scored + 1, nonfinite := true }))
    (s, { o with cands := [] })

/-- The result block of a query (R339): its bytes, and SHORT. -/
def queryBlock (x : Index) (d : Desc) (snap : Nat) (truncated : Bool) (o : QueryOut) : List Byte × Bool :=
  let k := d.fld 8 26 16
  let pass := o.cands.filter fun c => Nat.land c.tag (d.fld 9 15 0) == d.fld 9 31 16
  let best := (sortBy (fun a b => !better x.metric b.score a.score) pass).take k
  let short := decide (pass.length < k)
  let head := bytesOfWords
    [packWord [(0, best.length), (16, o.scored), (32, b2n short), (33, b2n truncated), (34, b2n o.poison),
       (35, b2n o.nonfinite)],
     packWord [(0, min (2 ^ 32 - 1) o.seen), (32, min 65535 o.buckets)], BitVec.ofNat 64 snap, 0]
  let body := best.flatMap fun c => leBytes 8 c.vid ++ bytesOfWords [packWord [(0, c.score), (32, c.hamming), (48, c.tag)]]
  let all := head ++ body
  (all ++ List.replicate (resStride k - all.length) 0, short)

/-- Answer query `i` of a descriptor: the state, the flags SHORT, TRUNCATED and POISON. -/
def State.oneQuery (s : State) (env : Env) (d : Desc) (e h snap i : Nat) (sk qv : List Byte) : State × Bool × Bool × Bool :=
  let x := s.indexAt h
  let (s, o) := s.probe env h snap (leNat sk) (d.fld 4 24 16) d.charge
  let cand := d.fld 8 12 0
  let truncated := decide (cand < o.seen)
  let near := (sortBy (fun a b => decide (a.hamming ≤ b.hamming)) o.cands).take cand
  let (s, o) := s.scoreAll env h (vecValues x.fmt x.dim qv) d.charge { o with cands := near }
  let (bytes, short) := queryBlock x d snap truncated o
  let s := (s.writeVirt env d.id.pitch d.record (d.fld 7 56 0 + i * resStride (d.fld 8 26 16)) bytes d.charge).1
  let s := ((s.bump (E.heatherQueries e)).bumpBy (E.heatherBucketsRead e) o.buckets).bumpBy (E.heatherReranks e) o.scored
  let s := if short then s.bump E.indicesShortQueries else s
  (if truncated then s.bump E.indicesTruncatedQueries else s, short, truncated, o.poison)

/-- IDX_QUERY. -/
def State.opIdxQuery (s : State) (id : DescId) (env : Env) : State :=
  match s.engineCmd id 0x44 .heather with
  | none => s
  | some (d, e) =>
    let h := d.fld 4 8 0
    match s.indexOf id.pitch h with
    | none => s.endCmd d 0x80
    | some x =>
      let n := d.fld 8 44 32
      let s := s.fixSnap d h
      if x.damaged then s.endCmd d 0x85
      else if ¬ d.idxQueryOk then s.endCmd d 0x03
      else if d.operands = [] then s.endCmd d 0x80
      else match s.readRanges env d [(d.fld 5 56 0, n * sketchBytes x.sw), (d.fld 6 56 0, n * x.stride)] with
        | (s, .ok, bs) =>
          let cut := fun (w i : Nat) (b : List Byte) => (b.drop (w * i)).take w
          let r := (List.range n).foldl (fun (acc : State × Nat × Bool × Bool) i =>
            let q := acc.1.oneQuery env d e h ((s.snapOf id).getD 0) i (cut (sketchBytes x.sw) i (bs.getD 0 []))
              (cut x.stride i (bs.getD 1 []))
            (q.1, acc.2.1 + b2n q.2.1, acc.2.2.1 || q.2.2.1, acc.2.2.2 || q.2.2.2)) (s, 0, false, false)
          let short := r.2.1
          r.1.endCmd d (if r.2.2.2 then 0x08 else 0) short (b2n (decide (0 < short)) + 2 * b2n r.2.2.1)
        | (s, st, _) => s.endCmd d (statOut st)

end Sys2Proof.Machine
end

