-- ==== Sys2Proof/Machine/Service.lean ====
section
/-! DEFINITION. Units that leave service and return: the procedures of the FM and of the device (R492 to R507, R131, R228,
R282, R315, R342). -/

namespace Sys2Proof.Machine

/-! ### The procedure entries (R492 to R494) -/

/-- A procedure of the FM is in progress. -/
def State.procBusy (s : State) : Bool := inRange (s.reg E.procProcState) 1 4

/-- The present procedure names a unit. -/
def State.procOn (s : State) (k : UnitKind) (u : Nat) : Bool := s.procBusy && s.reg E.procProcUnit == unitWord k u

/-- PROC_STATE of a procedure. -/
def State.setProc (s : State) (st : Nat) : State := s.setReg E.procProcState st

/-- The procedure on a unit ends: DONE, or FAILED where the unit failed during it (R493, R494). -/
def State.endProc (s : State) (k : UnitKind) (u : Nat) (ok : Bool) : State :=
  if s.procOn k u then
    let good := ok && !s.proc.failed
    let s := { s with proc := { s.proc with failed := false } }
    if good then (s.setProc 5).bump E.procProcedures else s.setProc 7
  else s

/-- The unit of the present procedure has failed (R494). -/
def State.markProc (s : State) (k : UnitKind) (u : Nat) : State :=
  if s.procOn k u then { s with proc := { s.proc with failed := true } } else s

/-- A write of FENCE or UNFENCE (R492): ignored while a procedure runs; refused, with nothing else changed; or taken, the
procedure beginning in state `st`. -/
def State.takeProc (s : State) (k : UnitKind) (u st : Nat) (allowed : Bool) (f : State → State) : State :=
  s.writeWhen (s.coreOn && !s.procBusy) fun s =>
    if allowed && decide (u < kindNumber k) then
      f ({ s.setRegs [(E.procProcState, st), (E.procProcUnit, unitWord k u)] with proc := { s.proc with failed := false } })
    else s.setProc 6

/-- STATE of a unit. -/
def State.unitState (s : State) (k : UnitKind) (u : Nat) : Nat := s.reg (kindState k u)

/-! ### Bivouacs (R495 to R498, R228) -/

/-- Die of a physical Bivouac. -/
def dieOf (n : Nat) : Nat := n / 264

/-- The spare that replaces physical Bivouac `n`: the lowest on its die, else the lowest on the other (R495 step 3). -/
def State.spareFor (s : State) (n : Nat) : Option Nat :=
  let free := (List.range 528).filter fun x => s.unitState .bivouac x == 3 && !s.fencing .bivouac x
  match free.find? fun x => dieOf x == dieOf n with
  | some x => some x
  | none => free.head?

/-- First page of logical Bivouac `b` in the Sward window. -/
def swardFirst (b : Nat) : Nat := swardBase + 64 * b

/-- SWARD regions on logical `b` become DAMAGED, and staged copies on it are dropped (R497). -/
def State.loseSward (s : State) (b : Nat) : State :=
  let hit := fun (r : Region) => r.placement == 1 && decide (swardFirst b ≤ r.basePage) &&
    decide (r.basePage < swardFirst b + 64) && (r.state == .live || r.state == .handover)
  let table := s.region.table.map fun e => if hit e.2 then (e.1, { e.2 with state := .damaged }) else e
  { s with
    region := { s.region with table }
    sward := { s.sward with staged := s.sward.staged.filter fun c => c.biv != b } }

/-- Partitions for an unserved `b` join the window of the next served logical Bivouac, in their order (R497). -/
def State.handParts (s : State) (b : Nat) : State :=
  match s.servingBiv b with
  | none => s
  | some b' => (s.window b).foldl (fun s x =>
      match s.desc x.1.id with
      | none => s
      | some d =>
        let o := s.work.nextOrder
        let move := fun (q : Part) => if q.idx = x.2.idx then { q with biv := b', order := o, started := false } else q
        let s := { s with work := { s.work with nextOrder := o + 1 } }
        s.setDesc { d with parts := d.parts.map move }) s

/-- No spare is free: logical `b` becomes unserved, and its cluster reads `st` (R497). -/
def State.unserve (s : State) (n b st : Nat) : State :=
  let s := s.setRegs [(E.bivLogical n, 0xFFFF), (E.bivPitch n, 0xFFFF), (E.bivState n, st)]
  (((s.swardClear (swardLine b 0) swardLines).setBiv b {}).loseSward b).handParts b

/-- The replacement of cluster `n` of logical `b` begins (R495 step 3): a spare is chosen and the Sward moves to it. -/
def State.startMove (s : State) (n b : Nat) (failed : Bool) : State :=
  match s.spareFor n with
  | none => (s.unserve n b (if failed then 5 else 4)).endProc .bivouac n true
  | some x =>
    let s := s.setReg (E.bivState x) 1
    let m : BivMove := { old := n, logical := b, spare := x, failed }
    let s := { s with proc := { s.proc with moves := s.proc.moves ++ [m] } }
    if s.procOn .bivouac n then s.setProc 3 else s

/-- A free spare is given at once to the lowest unserved logical Bivouac (R497). -/
def State.giveSpare (s : State) (n : Nat) : State :=
  if s.unitState .bivouac n ≠ 3 then s
  else match (List.range 512).find? s.bivUnserved with
    | none => s
    | some b =>
      let s := s.setRegs [(E.bivLogical n, b), (E.bivState n, 1)]
      (s.swardClear (swardLine b 0) swardLines).setBiv b {}

/-- SPARE_FREED. -/
def State.opSpareFreed (s : State) (n : Nat) : State := if s.coreOn ∧ n < 528 then s.giveSpare n else s

/-- FENCE of a physical Bivouac (R492, R495). -/
def State.fenceBiv (s : State) (n : Nat) : State :=
  let busy := s.proc.moves.any fun m => m.old == n || m.spare == n
  s.takeProc .bivouac n 2 (inRange (s.unitState .bivouac n) 1 3 && !busy) id

/-- The drain of a Bivouac has ended: its cache is written back and its Sward begins to move; a spare stops at once. -/
def State.drainedBiv (s : State) (env : Env) (n : Nat) : State :=
  if s.unitState .bivouac n = 3 then (s.setReg (E.bivState n) 4).endProc .bivouac n true
  else
    let b := s.reg (E.bivLogical n)
    if (s.bivAt b).kernel.isSome ∨ ¬ inRange (s.unitState .bivouac n) 1 2 then s
    else (s.wbDrop env b (fun _ => true) (fun _ => true)).1.startMove n b false

/-- Lines of a failed cluster that could not be read arrive with their flags clear, and a staged copy that held one is
dropped on its Bivouac (R496). -/
def State.loseLines (s : State) (b : Nat) (lost : List Nat) : State :=
  let lost := (lost.filter fun i => inRange i 16384 65535).eraseDups
  let runs := s.freeRuns (.sward b)
  let inCopy := lost.any fun i =>
    let page := swardFirst b + i / 1024
    (s.coverOf page).isNone && !runs.any fun r => decide (r.1 ≤ page) && decide (page < r.1 + r.2)
  let s := lost.foldl (fun s i => s.swardClear (swardLine b i) 1) s
  let staged := if inCopy then s.sward.staged.filter fun c => c.biv != b else s.sward.staged
  { s with sward := { s.sward with staged } }.bumpBy E.procSwardLinesLost lost.length

/-- SWARD_MOVE_DONE (R495 steps 4 and 5, R496): `lost` are the lines of a failed cluster that could not be read. -/
def State.opSwardMoveDone (s : State) (n : Nat) (lost : List Nat) : State :=
  match s.proc.moves.find? fun m => m.old == n with
  | none => s
  | some m =>
    let b := m.logical
    let s := if m.failed then s.loseLines b lost else s
    let s := { s with proc := { s.proc with moves := s.proc.moves.filter fun x => x.old != n } }
    let s := s.setRegs [(E.bivPitch m.spare, s.reg (E.bivPitch n)), (E.bivLogical m.spare, b), (E.bivState m.spare, 1),
      (E.bivLogical n, 0xFFFF), (E.bivPitch n, 0xFFFF), (E.bivState n, if m.failed then 5 else 4)]
    ((s.swardClear (swardLine b 0) 16384).setBiv b {}).endProc .bivouac n true

/-- The work of a failed cluster (R228): what ran is dispatched again from its start, unless it must not be. -/
def State.reissue (s : State) (n b : Nat) : State :=
  match (s.bivAt b).kernel with
  | none => s.setBiv b { s.bivAt b with wb := [], bufs := [], staged := [] }
  | some (id, idx, _) =>
    let s := s.setBiv b {}
    match s.desc id with
    | none => s
    | some d =>
      if d.noReissue then s.endPart id idx { status := 0x0B }
      else
        let again := fun (q : Part) => if q.idx = idx then { q with started := false } else q
        (s.setDesc { d with parts := d.parts.map again }).bump (E.bivReissues n)

/-- BIVOUAC_FAILURE (R228, R494, R495, R497). -/
def State.opBivFailure (s : State) (n : Nat) : State :=
  if ¬ (s.coreOn ∧ n < 528 ∧ inRange (s.unitState .bivouac n) 1 3) then s
  else
    let s := (s.logEvent 0x000A 3 0xFFF (unitWord .bivouac n) (s.reg (E.bivLogical n))).markProc .bivouac n
    if s.proc.moves.any fun m => m.old == n then
      let moves := s.proc.moves.map fun m => if m.old == n then { m with failed := true } else m
      { s with proc := { s.proc with moves } }
    else match s.proc.moves.find? fun m => m.spare == n with
      | some m =>
        let s := { s.setReg (E.bivState n) 5 with proc := { s.proc with moves := s.proc.moves.filter fun x => x.old != m.old } }
        s.startMove m.old m.logical m.failed
      | none =>
        if s.unitState .bivouac n = 3 then (s.setReg (E.bivState n) 5).endProc .bivouac n false
        else
          let b := s.reg (E.bivLogical n)
          ((s.reissue n b).setReg (E.bivState n) 1).startMove n b true

/-- The drain limit of a Bivouac fence has passed: what runs is dispatched again as R228 states, and the cluster, whose
cache can be written back, goes on leaving (R493). -/
def State.cutBiv (s : State) (env : Env) (n : Nat) : State :=
  let b := s.reg (E.bivLogical n)
  let x := s.bivAt b
  if x.kernel.isSome ∧ inRange (s.unitState .bivouac n) 1 2 then
    let s := (s.wbDrop env b (fun _ => true) (fun _ => true)).1
    ((s.reissue n b).setReg (E.bivState n) 1).startMove n b false
  else s.drainedBiv env n

/-! ### Stacks (R500) -/

/-- FENCE of a stack. -/
def State.fenceStack (s : State) (st : Nat) : State :=
  let other := (List.range 16).any fun x => x != st && (s.stackState x == 4 || s.stackState x == 5)
  s.takeProc .stack st 2 (s.stackState st == 3 && !other && s.relocPending == 0 && s.mem.exposed == []) id

/-- The accesses accepted for a stack are completed, parity writes included, and it enters self-refresh. -/
def State.drainedStack (s : State) (st : Nat) : State :=
  let ts := (s.trail.gather.map fun g => g.1).eraseDups
  let s := ts.foldl (fun s t => s.flushGather t) s
  let lines := ((s.trail.queue.filter fun a => (s.accessHome a.line).1 == st).map fun a => a.line).eraseDups
  let s := lines.foldl (fun s ln => s.drainLine ln) s
  (s.setReg (E.stackState st) 4).endProc .stack st true

/-- UNFENCE of a stack: it is verified under R483. -/
def State.unfenceStack (s : State) (st : Nat) : State := s.takeProc .stack st 4 (s.stackState st == 4) id

/-- A retirement of the stack that a procedure handles ends that procedure FAILED (R494). -/
def State.opStackRetire (s : State) (st : Nat) : State :=
  if ¬ s.coreOn ∨ s.stackState st = 5 ∨ 16 ≤ st then s
  else ((s.retireStack st).markProc .stack st).endProc .stack st false

/-! ### Ports (R502, R503) -/

/-- FENCE of a Utxon port. -/
def State.fenceUtxon (s : State) (n : Nat) : State :=
  s.takeProc .utxon n 2 (s.unitState .utxon n != 0 && s.unitState .utxon n != 6) id

/-- FENCE of a host port. -/
def State.fenceHost (s : State) (n : Nat) : State :=
  s.takeProc .host n 2 (s.unitState .host n != 0 && s.unitState .host n != 4) id

/-- A Utxon port is fenced; the frames that it still holds follow R370 (R502 steps 2 and 3). -/
def State.drainedUtxon (s : State) (n : Nat) : State := (s.leaveService n 6).endProc .utxon n true

/-- HOLD_EXPIRY: the end of a fence's wait for acknowledgements, and otherwise that of a retrain (R370, R502). -/
def State.opPortHoldExpiry (s : State) (n : Nat) : State :=
  if n < 24 ∧ s.coreOn ∧ s.reg E.procProcState = 2 ∧ s.fencing .utxon n then s.drainedUtxon n else s.opHoldExpiry n

/-- The admitted requests of a host port have been answered, or 10 µs have passed (R503). -/
def State.drainedHost (s : State) (n : Nat) : State :=
  (if s.unitState .host n = 2 then s.hostDown n 4 else s.setReg (E.hostState n) 4).endProc .host n true

/-- UNFENCE of a port: it is set to train. -/
def State.unfencePort (s : State) (k : UnitKind) (n : Nat) : State :=
  let fenced := k == .utxon && s.unitState k n == 6 || k == .host && s.unitState k n == 4
  let off := k == .utxon && s.unitState k n == 0 && s.reg (E.utxonEnable n) == 1 ||
    k == .host && s.unitState k n == 0 && s.reg (E.hostEnable n) == 1
  s.takeProc k n 4 (fenced || off) fun s =>
    let s := s.setReg (kindState k n) 1
    let s := if k = .utxon then s.setLink n { s.link n with trained := false, resume := false } else s
    s.endProc k n true

/-! ### Kettle cores (R505) -/

/-- FENCE of a Kettle core. -/
def State.fenceCore (s : State) (k : Nat) : State :=
  let st := s.core k
  let alone := decide (k < 2) && st == 2 && s.core (1 - k) != 3
  s.takeProc .kettle k 2 ((st == 2 || st == 3) && !alone) fun s =>
    if 2 ≤ k then s
    else if st = 3 then ((s.setCore k 5 0).settleColl).endProc .kettle k true
    else (s.takeOver (1 - k) (some (k, false))).setProc 3

/-- A collective runs on a core. -/
def State.coreBusy (s : State) (k : Nat) : Bool :=
  s.work.descs.any fun d => d.unit == some (.kettle k) && d.phase == .running

/-- A collective core stops, and its groups and waiting descriptors move. -/
def State.stopCore (s : State) (k : Nat) : State := ((s.setCore k 5 0).releaseCore k).endProc .kettle k true

/-- The drain of a collective core has ended. -/
def State.drainedCore (s : State) (k : Nat) : State := if k < 2 ∨ s.coreBusy k then s else s.stopCore k

/-- A collective still running on a core at the end of its drain completes UNIT_FAILED, and the core stops. -/
def State.cutCore (s : State) (k : Nat) : State :=
  if k < 2 then s
  else
    let running := s.work.descs.filter fun d => d.unit == some (.kettle k) && d.phase == .running
    (running.foldl (fun s d => s.cutDesc d.id 0x0B) s).stopCore k

/-- UNFENCE of a Kettle core: it loads the ACTIVE half of its class. -/
def State.unfenceCore (s : State) (k : Nat) : State :=
  let loaded := (s.halves (if k < 2 then 1 else 2)).active != []
  s.takeProc .kettle k 4 ((s.core k == 5 || s.core k == 0) && loaded) fun s => s.setCore k 1 0

/-- CORE_RELOAD_DONE (R415, R505). -/
def State.opCoreReload (s : State) (k : Nat) : State :=
  if s.coreOn ∧ k < 8 ∧ s.core k = 1 ∧ s.kettle.takeover ≠ some k then
    let s := s.coreLoaded k
    if s.reg E.procProcState = 4 then s.endProc .kettle k true else s
  else s

/-- COLL_DRAIN_EXPIRY: of a COLL switch (R414), or of a core's fence (R505). -/
def State.opCollDrain (s : State) : State :=
  if ¬ s.coreOn ∨ s.stopped then s
  else
    let s := s.collDrainEnds
    match ([2, 3, 4, 5, 6, 7] : List Nat).find? fun k => s.fencing .kettle k with
    | some k => s.cutCore k
    | none => s

/-! ### Slices (R131, R504) -/

/-- The entries of a logical slice. -/
def State.sliceEntries (s : State) (l : Nat) : List (Nat × DirEntry) :=
  s.dir.entries.filter fun e => homeSlice e.1 == l

/-- The stable entries of a slice that cannot be read any more are gone. -/
def State.dropEntries (s : State) (l : Nat) : State :=
  (s.sliceEntries l).foldl (fun s e => if s.stable e.1 then s.putEntry e.1 noEntry else s) s

/-- The spare slice, while it is free. -/
def State.spareSlice (s : State) : Option Nat :=
  if s.reg E.dirSpareState = 0 then (List.range 33).find? fun q => s.unitState .slice q == 4 else none

/-- Step 3 of R131: the logical slice is mapped to the spare, or left without entries where there is none (R504). -/
def State.mapSlice (s : State) (q : Nat) : State :=
  let l := s.reg (E.sliceLogical q)
  let sp := s.spareSlice
  let s := s.setRegs [(E.sliceLogical q, 0xFF), (E.sliceState q, 3)]
  let s := match sp with
    | some x => s.setRegs [(E.sliceLogical x, l), (E.sliceState x, 1), (E.dirSpareState, 1)]
    | none => s
  s.endProc .slice q true

/-- SLICE_RECALL_DONE: every holder of the slice's lines has been sent SNP_INV and the slice is empty; until then the walk
goes on with the stable entries that are left (R131 steps 2 and 3). -/
def State.opRecallDone (s : State) (q : Nat) : State :=
  if ¬ (s.coreOn ∧ q < 33 ∧ s.unitState .slice q = 2) then s
  else
    let l := s.reg (E.sliceLogical q)
    let s := (s.sliceEntries l).foldl (fun s e =>
      if ¬ s.stable e.1 then s
      else if agentsOf e.2.sharers = [] then s.setLine e.1 .i 0 0
      else s.beginTrans e.1 0x21 (agentsOf e.2.sharers) none (e.2.state == .x)) s
    if (s.sliceEntries l).any fun e => e.2.state != .i then s else (s.dropEntries l).mapSlice q

/-- FENCE of a directory slice (R504). -/
def State.fenceSlice (s : State) (q : Nat) : State :=
  let st := s.unitState .slice q
  s.takeProc .slice q 2 ((st == 1 && s.reg E.dirSpareState == 0) || st == 4) fun s =>
    if st = 4 then (s.setRegs [(E.sliceState q, 3), (E.dirSpareState, 2)]).endProc .slice q true
    else s.setReg (E.sliceState q) 2

/-- SLICE_FAILURE (R131, R504). -/
def State.opSliceFailure (s : State) (q : Nat) (readable : Bool) : State :=
  let st := s.unitState .slice q
  if ¬ (s.coreOn ∧ q < 33 ∧ (st = 1 ∨ st = 2 ∨ st = 4)) then s
  else
    let s := (s.logEvent 0x000C 3 0xFFF (unitWord .slice q) (s.reg (E.sliceLogical q))).markProc .slice q
    if st = 4 then (s.setRegs [(E.sliceState q, 3), (E.dirSpareState, 2)]).endProc .slice q false
    else if readable then s.setReg (E.sliceState q) 2
    else (s.dropEntries (s.reg (E.sliceLogical q))).mapSlice q

/-- UNFENCE of a slice: a self-test runs. -/
def State.unfenceSlice (s : State) (q : Nat) : State :=
  let st := s.unitState .slice q
  s.takeProc .slice q 4 (st == 3 || st == 0) id

/-- A slice that has passed its self-test is the spare, and takes the lowest cache-less logical slice at once (R504). -/
def State.spareReturns (s : State) (q : Nat) : State :=
  let s := s.setRegs [(E.sliceLogical q, 0xFF), (E.sliceState q, 4), (E.dirSpareState, 0)]
  match (List.range 32).find? fun l => (s.ownSlice l).isNone with
  | some l => s.setRegs [(E.sliceLogical q, l), (E.sliceState q, 1), (E.dirSpareState, 1)]
  | none => s

/-! ### Fixed-function engines (R506, R282, R315, R342) -/

/-- The objects bound to an instance are bound again. -/
def State.rebind (s : State) (k : UnitKind) (e : Nat) : State :=
  match k with
  | .bracken => s.rebindViews e
  | .clover => s.rebindTables e
  | .heather => s.rebindIndices e
  | _ => s

/-- The instance that takes a descriptor moved off another: the one its object is bound to, or the serving one with the
shortest queue. -/
def State.engineMove (s : State) (k : UnitKind) (d : Desc) : Option Nat :=
  match s.fixedEngine d with
  | some e => if s.engineServes k e then some e else none
  | none => argMin (s.engineQueue k) ((List.range (kindNumber k)).filter fun e => s.engineServes k e && !s.fencing k e)

/-- Descriptors given to an instance and not started move in their dispatch order; with no instance left they complete
UNIT_FAILED. -/
def State.moveEngine (s : State) (k : UnitKind) (e : Nat) : State :=
  (s.unitWaiting (.engine k e)).foldl (fun s d =>
    match s.engineMove k d with
    | some x => s.setDesc { d with unit := some (.engine k x) }
    | none => s.decideDesc d { status := 0x0B }) s

/-- FENCE of an engine instance; the last serving one of its kind stays (R506). -/
def State.fenceEngine (s : State) (k : UnitKind) (e : Nat) : State :=
  let others := (List.range (kindNumber k)).any fun x => x != e && s.engineServes k x
  s.takeProc k e 2 (s.unitState k e == 1 && others) id

/-- The descriptor that runs on an instance. -/
def State.engineRunning (s : State) (k : UnitKind) (e : Nat) : Option Desc :=
  s.work.descs.find? fun d => d.unit == some (.engine k e) && d.phase == .running

/-- An instance leaves service with the state `st`. -/
def State.stopEngine (s : State) (k : UnitKind) (e st : Nat) : State :=
  ((s.setReg (kindState k e) st).rebind k e).moveEngine k e

/-- The drain of an engine instance has ended. -/
def State.drainedEngine (s : State) (k : UnitKind) (e : Nat) : State :=
  if (s.engineRunning k e).isSome then s else (s.stopEngine k e 2).endProc k e true

/-- What a descriptor that ran on a failed instance completes with, after the part of it that was done (R315, R342); none
where it is dispatched again. -/
def State.failedWork (s : State) (env : Env) (d : Desc) (e done : Nat) : State × Option DescOut :=
  let cut := (done, s.freeCount)
  let take := fun (r : State × DescOut) => (r.1, some { status := 0x0B, result := r.2.result : DescOut })
  match d.opcode with
  | 0x33 => let r := s.runUpdate d e env (some cut); (r.1.drawFree.2, some { status := 0x0B, result := done })
  | 0x34 => let r := s.runOpt d e env (some cut); (r.1.drawFree.2, some { status := 0x0B, result := done })
  | 0x41 => take (s.runInsert d env done)
  | 0x42 => take (s.runDelete d env done)
  | 0x43 => take (s.runCompact d env (some done))
  | 0x40 => (s, some { status := 0x0B })
  | _ => if d.noReissue then (s, some { status := 0x0B }) else (s, none)

/-- The running descriptor of a failed instance ends, or goes to another instance to be run again. -/
def State.failRunning (s : State) (env : Env) (k : UnitKind) (e done : Nat) : State :=
  match s.engineRunning k e with
  | none => s
  | some d => match s.failedWork env d e done with
    | (s, some o) => s.decideDesc d o
    | (s, none) => s.setDesc { d with phase := .dispatched }

/-- ENGINE_FAILURE: an instance fails, `done` of its descriptor's records, rows or elements being done (R315, R342, R506). -/
def State.opEngineFailure (s : State) (k : UnitKind) (e done : Nat) : State :=
  if ¬ (s.coreOn ∧ 7 ≤ kindCode k ∧ e < kindNumber k ∧ s.unitState k e = 1) then s
  else
    let s := (s.logEvent 0x000B 3 0xFFF (unitWord k e) 0).markProc k e
    let s := s.failRunning {} k e done
    (s.stopEngine k e 3).endProc k e true

/-- UNFENCE of an engine instance: a self-test runs. -/
def State.unfenceEngine (s : State) (k : UnitKind) (e : Nat) : State :=
  s.takeProc k e 4 (decide (7 ≤ kindCode k) && (s.unitState k e == 2 || s.unitState k e == 0)) id

/-! ### UNFENCE of a Bivouac, and self-tests (R498, R504) -/

/-- UNFENCE of a physical Bivouac. -/
def State.unfenceBiv (s : State) (n : Nat) : State :=
  s.takeProc .bivouac n 4 (s.unitState .bivouac n == 4 || s.unitState .bivouac n == 0) id

/-- SELF_TEST_DONE. -/
def State.opSelfTest (s : State) (k : UnitKind) (u : Nat) (pass : Bool) : State :=
  if ¬ (s.reg E.procProcState = 4 ∧ s.procOn k u) then s
  else match k, pass with
    | .bivouac, true => ((s.setReg (E.bivState u) 3).endProc k u true).giveSpare u
    | .bivouac, false => (s.setReg (E.bivState u) 5).endProc k u false
    | .slice, true => (s.spareReturns u).endProc k u true
    | .slice, false => (s.setReg (E.sliceState u) 3).endProc k u false
    | .bracken, p | .clover, p | .tinder, p | .heather, p =>
      (s.setReg (kindState k u) (if p then 1 else 3)).endProc k u p
    | _, _ => s

/-! ### The drain (R493) -/

/-- DRAIN_DONE: the work that the unit had accepted has ended; a Utxon port still has to see its frames acknowledged. -/
def State.opDrainDone (s : State) (env : Env) : State :=
  if ¬ (s.coreOn ∧ s.reg E.procProcState = 2) then s
  else
    let w := s.reg E.procProcUnit
    let u := w % 65536
    match kindOfCode (w / 2 ^ 24) with
    | some .bivouac => s.drainedBiv env u
    | some .stack => s.drainedStack u
    | some .utxon => if (s.link u).heldMsgs.isEmpty then s.drainedUtxon u else s
    | some .host => s.drainedHost u
    | some .kettle => s.drainedCore u
    | some .slice => s.setProc 3
    | some k => s.drainedEngine k u
    | none => s

/-- FENCE_DRAIN_LIMIT_EXPIRY: the drain is cut short, and what runs is handled as if the unit had failed (R493). -/
def State.opDrainLimitEnds (s : State) : State :=
  if ¬ (s.coreOn ∧ s.reg E.procProcState = 2) ∨ s.stopped then s
  else
    let w := s.reg E.procProcUnit
    let u := w % 65536
    match kindOfCode (w / 2 ^ 24) with
    | some .bivouac => s.cutBiv {} u
    | some .stack => s.drainedStack u
    | some .utxon => s.drainedUtxon u
    | some .host => s.drainedHost u
    | some .kettle => s.cutCore u
    | some .slice => s.setProc 3
    | some k => ((s.failRunning {} k u 0).stopEngine k u 2).endProc k u true
    | none => s

/-! ### Re-training (R501) -/

/-- A pass begins on a stack. -/
def State.startRecal (s : State) (st : Nat) : State :=
  if bitOf (s.reg E.procRecalActive) st then s
  else { s.setReg E.procRecalActive (s.reg E.procRecalActive + 2 ^ st) with
         proc := { s.proc with recal := SMap.set (fun _ => 0) s.proc.recal st 0 } }

/-- The stack can be re-trained now: SERVING with a refresh interval of 3.9 µs. -/
def State.recalReady (s : State) (st : Nat) : Bool :=
  decide (st < 16) && s.stackState st == 3 && s.reg (E.stackRefreshInterval st) == 3900

/-- A write of RECAL. -/
def State.writeRecal (s : State) (st : Nat) : State := s.writeWhen (s.coreOn && s.recalReady st) fun s => s.startRecal st

/-- RECAL_PERIODIC: the device starts a pass; one stack at a time. -/
def State.opRecalPeriodic (s : State) (st : Nat) : State :=
  if s.coreOn ∧ s.reg E.procRecalHours ≠ 0 ∧ s.reg E.procRecalActive = 0 ∧ s.recalReady st then s.startRecal st else s

/-- The channels of a mask are retired. -/
def State.retireChannels (s : State) (st : Nat) (channels : BitVec 32) : State :=
  ((List.range 32).filter fun c => channels.getLsbD c).foldl (fun s c => s.retireChannel st c) s

/-- RECAL_STEP: one of the 120 steps of a pass; a channel that fails is retired. -/
def State.opRecalStep (s : State) (st : Nat) (failed : BitVec 32) : State :=
  if ¬ (s.coreOn ∧ bitOf (s.reg E.procRecalActive) st ∧ s.recalReady st) then s
  else
    let s := s.retireChannels st failed
    let n := SMap.get (fun _ => 0) s.proc.recal st + 1
    if n < 120 then { s with proc := { s.proc with recal := SMap.set (fun _ => 0) s.proc.recal st n } }
    else
      let s := { s with proc := { s.proc with recal := SMap.set (fun _ => 0) s.proc.recal st 0 } }
      (s.setReg E.procRecalActive (s.reg E.procRecalActive - 2 ^ st)).bump E.procRecalPasses

end Sys2Proof.Machine
end

