-- ==== Sys2Proof/Machine/Partition.lean ====
section
/-! DEFINITION. Fences around agents and peers (R508 to R510, R515), and the audit of conserved quantities (R511 to R513). -/

namespace Sys2Proof.Machine

/-! ### Agents (R508, R126) -/

/-- The snoops outstanding to an agent end as for one that has not answered, without the repeat (R508 step 2). -/
def State.endSnoops (s : State) (a : Nat) : State :=
  (s.dir.trans.filter fun t => t.waiting.contains a).foldl (fun s t =>
    match s.dir.trans.find? fun x => x.tag == t.tag with
    | some t => (s.suspect t a).stepTrans (unanswered t [a])
    | none => s) s

/-- Bit `a` of AGENT_FENCE is set: steps 1 to 3 of R508 begin. -/
def State.fenceAgent (s : State) (a : Nat) : State :=
  if bitOf (s.reg E.fenceAgentFence) a then s
  else
    let s := s.setReg E.fenceAgentFence (s.reg E.fenceAgentFence + 2 ^ a)
    let s := s.endSnoops a
    { s with dir := { s.dir with fenceWalks := s.dir.fenceWalks ++ [a] } }

/-- An entry loses a fenced agent: its bit is cleared; a line that it owned is written as poisoned and goes to I. -/
def State.dropAgent (s : State) (ln a : Nat) (e : DirEntry) : State :=
  if e.state = .x ∧ e.owner = a then
    (s.poisonLine { port := .host 0, addr := s.poolLine ln } 0 ln).setLine ln .i 0 0
  else
    let left := e.sharers &&& ~~~(agentBit a)
    s.putEntry ln { e with sharers := left, state := if e.state = .s ∧ left = 0 then .i else e.state }

/-- AGENT_FENCE_WALK_DONE (R508 steps 3 and 4). -/
def State.opFenceWalkDone (s : State) (a : Nat) : State :=
  if ¬ (s.coreOn ∧ s.dir.fenceWalks.contains a) then s
  else
    let s := { s with dir := { s.dir with fenceWalks := s.dir.fenceWalks.filter (· != a) } }
    let hit := s.dir.entries.filter fun e => e.2.sharers &&& agentBit a != 0 || (e.2.state == .x && e.2.owner == a)
    let s := hit.foldl (fun s e => s.dropAgent e.1 a e.2) s
    s.setReg E.fenceAgentFenceDone (s.reg E.fenceAgentFenceDone ||| 2 ^ a)

/-- A write of AGENT_FENCE: a write that clears a bit whose AGENT_FENCE_DONE bit is not set is ignored. -/
def State.writeAgentFence (s : State) (v : Nat) : State :=
  let old := s.reg E.fenceAgentFence
  let gone := (List.range 64).filter fun a => bitOf old a && !bitOf v a
  s.writeWhen (s.coreOn && gone.all fun a => bitOf (s.reg E.fenceAgentFenceDone) a) fun s =>
    let s := gone.foldl (fun s a => s.setReg E.fenceAgentFence (s.reg E.fenceAgentFence - 2 ^ a)) s
    ((List.range 64).filter fun a => bitOf v a).foldl State.fenceAgent s

/-- A write of AGENT_FENCE_DONE: writing 1 to a bit clears it once the AGENT_FENCE bit is 0 (R515). -/
def State.writeFenceDone (s : State) (v : Nat) : State :=
  let d := s.reg E.fenceAgentFenceDone
  let clear := (List.range 64).filter fun a => bitOf v a && bitOf d a && !bitOf (s.reg E.fenceAgentFence) a
  s.setReg E.fenceAgentFenceDone (clear.foldl (fun d a => d - 2 ^ a) d)

/-- A write of AGENT_SUSPECT: writing 1 to a bit clears it (R134). -/
def State.writeSuspect (s : State) (v : Nat) : State :=
  let d := s.reg E.dirAgentSuspect
  let clear := (List.range 64).filter fun a => bitOf v a && bitOf d a
  s.setReg E.dirAgentSuspect (clear.foldl (fun d a => d - 2 ^ a) d)

/-! ### Peers (R509) -/

/-- A port's partner reports a board position. -/
def State.partnerAt (s : State) (n pos : Nat) : Bool :=
  s.partnerType n == 1 && s.reg (E.utxonPartnerDevice n) == s.reg E.idBoardNumber * 8 + pos

/-- A port goes to FENCED at once, without waiting for its queued frames. -/
def State.fencePort (s : State) (n : Nat) : State :=
  if s.unitState .utxon n = 0 ∨ s.unitState .utxon n = 6 then s else s.leaveService n 6

/-- A write of PEER_FENCE; one that sets the device's own position is ignored. -/
def State.writePeerFence (s : State) (v : Nat) : State :=
  s.writeWhen (s.coreOn && decide (v < 256) && !bitOf v (s.reg E.idBoardPos)) fun s =>
    let new := (List.range 8).filter fun j => bitOf v j && !bitOf (s.reg E.fencePeerFence) j
    let s := s.setReg E.fencePeerFence v
    ((List.range 24).filter fun n => new.any fun j => s.partnerAt n j).foldl State.fencePort s

/-- A port whose partner's position is fenced does not stay in service (R509). -/
def State.fenceIfPeer (s : State) (n : Nat) : State :=
  if (List.range 8).any fun j => bitOf (s.reg E.fencePeerFence) j && s.partnerAt n j then s.fencePort n else s

/-! ### Audit (R511 to R513) -/

/-- A book at one CCLK: its terms, whether its invariant holds, and whether a window is open. -/
structure Book where
  terms : List Nat := []
  balanced : Bool := true
  window : Bool := false

/-- Subtraction modulo 2^32. -/
def less32 (a b : Nat) : Nat := seqSub 32 a b

/-- Link credits of a Utxon port and VC (R362). -/
def State.creditBook (s : State) (n vc : Nat) : Book :=
  if 24 ≤ n ∨ 3 ≤ vc then {}
  else
    let b := (s.link n).book vc
    { terms := [b.partnerAdv, b.sendHeld, b.sent, b.returned, b.ownAdv, b.rxHeld, b.accepted, b.freed, b.reported]
      balanced := less32 b.partnerAdv (less32 b.sent b.returned) == b.sendHeld && less32 b.accepted b.freed == b.rxHeld &&
        decide (b.rxHeld + less32 b.freed b.reported ≤ b.ownAdv)
      window := s.unitState .utxon n == 3 || (s.link n).holding || b.freed != b.reported }

/-- Bytes of egress buffer that a port's replay frames and waiting messages hold. -/
def Link.egressBytes (l : Link) : Nat :=
  min 524288 (sumBy Frame.bytes l.replay + sumBy (fun m => msgBytes m.2.msg.opcode m.2.result) l.egress)

/-- Whole-frame buffers of a port: 0–23 Utxon, 24–27 host. -/
def State.frameBook (s : State) (u : Nat) : Book :=
  if u < 24 then
    let l := s.link u
    let held := l.egressBytes
    { terms := [524288, held, 524288 - held, l.replay.length, 2047], balanced := decide (l.replay.length ≤ 2047)
      window := s.unitState .utxon u == 3 || l.holding }
  else if u < 28 then { terms := [128, 0, 128] }
  else {}

/-- The Trail of a stack over its last completed period (R390). -/
def State.trailBook (s : State) (st : Nat) : Book :=
  if 16 ≤ st then {}
  else
    let t := (s.trailOf st).book
    { terms := t, balanced := sumBy id (t.drop 1) == t.headD 0 }

/-- Non-FREE entries of a physical slice. -/
def State.sliceUsed (s : State) (q : Nat) : Nat :=
  let l := s.reg (E.sliceLogical q)
  if l < 32 then (s.sliceEntries l).length else 0

/-- Directory entries of a physical slice. -/
def State.sliceBook (s : State) (q : Nat) : Book :=
  if 33 ≤ q then {}
  else
    let used := s.sliceUsed q
    let got := SMap.get (fun _ => 0) s.dir.allocated q
    let gone := SMap.get (fun _ => 0) s.dir.freed q
    let all := s.dir.entries.length
    let sum := sumBy s.sliceUsed (List.range 33)
    { terms := [8388608, used, got, gone, all, sum]
      balanced := used == less32 got gone && decide (used ≤ 8388608) && sum == all
      window := (List.range 33).any fun x => s.unitState .slice x == 2 }

/-- The fault queue of a pitch (R88). -/
def State.faultBook (s : State) (p : Nat) : Book :=
  if 4096 ≤ p then {}
  else
    let t := s.reg (E.pitchFaultTail p)
    let h := s.reg (E.pitchFaultHead p)
    let d := s.reg (E.pitchFaultDone p)
    let used := seqSub 16 t d
    { terms := [t, h, d, 64 - used, s.faultWaiting p, s.parkedCount p]
      balanced := decide (used ≤ 64) && decide (seqSub 16 h d ≤ used)
      window := s.pitchState p == 3 || s.pitchState p == 4 || s.reg (E.pitchPitchReset p) == 1 }

/-- The Stile locks. -/
def State.stileBook (s : State) : Book :=
  let t := s.stile
  let held := s.locksHeld
  { terms := [s.reg E.stileStileLocks, held, t.acquired, t.released, t.expired, t.broken]
    balanced := held == less32 (less32 (less32 t.acquired t.released) t.expired) t.broken }

/-- The book that AUDIT_KIND and AUDIT_UNIT choose. -/
def State.book (s : State) (kind u : Nat) : Book :=
  match kind with
  | 1 => s.creditBook (u % 32) (bits u 9 8)
  | 2 => s.frameBook u
  | 3 => s.trailBook u
  | 4 => s.sliceBook u
  | 5 => s.faultBook u
  | 6 => if u = 0 then s.stileBook else {}
  | _ => {}

/-- The snapshot of a book (R513). -/
def Book.words (b : Book) (kind u now : Nat) : List Word :=
  let w0 := packWord [(0, kind), (8, u), (24, b2n b.balanced), (25, b2n b.window)]
  let term := fun i => b.terms.getD i 0 % 2 ^ 32
  [w0, BitVec.ofNat 64 now] ++ (List.range 5).map (fun i => packWord [(0, term (2 * i)), (32, term (2 * i + 1))]) ++ [0]

/-- A read of AUDIT_SNAPSHOT (R512). -/
def State.takeAudit (s : State) : State × List Byte :=
  let kind := s.reg E.auditAuditKind
  let u := s.reg E.auditAuditUnit
  let b := s.book kind u
  let ws := b.words kind u s.now
  let s := s.bump E.auditAuditRuns
  let s := if b.balanced ∨ b.window then s
    else (s.bump E.auditAuditFails).logEvent 0x0006 1 0xFFF 0 (ws.headD 0).toNat
  (s, bytesOfWords ws)

/-! ### Stile entries of the FM (R156, R158, R163) -/

/-- A read of DIAG_STATE: the expiry check on the inspected lock comes first. -/
def State.takeDiagState (s : State) : State × List Byte :=
  let k := s.reg E.stileDiagLock
  if 65536 ≤ k then (s, bytesOfWords (lockRecord {}))
  else
    let s := s.checkExpiry k
    (s, bytesOfWords (lockRecord (s.lock k)))

/-- A write of k to BREAK. -/
def State.writeBreak (s : State) (k : Nat) : State :=
  s.writeWhen (decide (k < 65536)) fun s => (s.checkExpiry k).breakLock k

end Sys2Proof.Machine
end

