-- ==== Sys2Proof/Machine/Observ.lean ====
section
/-! DEFINITION. What the device reports of itself: counters cleared by range (R518), the fault log (R520 to R522), the Lantern port
(R523 to R527), the global stop (R528 to R531) and the test access port (R533). -/

namespace Sys2Proof.Machine

/-! ### Counters (R518) -/

/-- The entry is a count (R517). -/
def isCount (k : Nat) : Bool := (entryRow (k / 256) (k % 256)).elim false ERow.count

/-- A write of CLEAR_RANGE: every count from FIRST to LAST is set to 0; a range that is empty or that takes in the violation
counters is ignored. -/
def State.writeClearRange (s : State) (w : Nat) : State :=
  let first := bits w 15 0
  let last := bits w 31 16
  let bad := last < first ∨ (first ≤ 0x8F00 ∧ 0x8F00 ≤ last)
  s.writeWhen (!bad) fun s =>
    let s := { s with regs := s.regs.filter fun e => !(isCount e.1 && inRange (e.1 / 256) first last) }
    s.setReg E.cntClearTime s.now

/-! ### Fault log (R520 to R522) -/

/-- Entries of the log that are not acknowledged and still stand, by SEQ, oldest first (R521). -/
def State.unacked (s : State) : List Nat :=
  let next := s.reg E.logLogNextSeq
  let n := min 1024 (seqSub 32 next (s.reg E.logLogAck))
  (List.range n).map fun i => seqSub 32 (next + i) n

/-- The entry of a sequence number. -/
def State.logEntry (s : State) (seq : Nat) : List Word := SMap.get (fun _ => [0, 0, 0, 0]) s.log.ring (seq % 1024)

/-- CODE of an entry. -/
def entryCode (ws : List Word) : Nat := fld (ws.getD 1 0) 15 0

/-- The four words of an entry (R522). -/
def LogEvent.words (e : LogEvent) (seq : Nat) : List Word :=
  [BitVec.ofNat 64 e.time, packWord [(0, e.code), (16, e.severity), (18, e.pitch), (32, seq)], BitVec.ofNat 64 (e.unit % 2 ^ 32),
   BitVec.ofNat 64 e.detail]

/-- The mailbox message ERROR goes to every host that has negotiated a version (R420, R521). -/
def State.sendError (s : State) (code seq : Nat) : State :=
  let ports := (List.range 4).filter fun n => s.reg (E.hostState n) == 2 && s.reg (E.kettleHostMsgVersion n) != 0
  if s.mgmtServes then
    s.emitAll (ports.map fun n =>
      let v := s.reg (E.kettleHostMsgVersion n)
      .firmware n 0 { msgType := 0xFF, major := v / 256, minor := v % 256, seq, body := leBytes 2 code })
  else s

/-- LOG_ENTRY_WRITE: the oldest event waiting is written at the slot of LOG_NEXT_SEQ; it may trigger the stop (R528) and gives a
FAULT record (R525). -/
def State.opLogWrite (s : State) : State :=
  match s.log.queue with
  | [] => s
  | e :: rest =>
    if ¬ s.running then s
    else
      let seq := s.reg E.logLogNextSeq
      let lost := seqSub 32 seq (s.reg E.logLogAck) ≥ 1024
      let s := { s with log := { queue := rest, ring := SMap.set (fun _ => [0, 0, 0, 0]) s.log.ring (seq % 1024) (e.words seq) } }
      let s := s.setReg E.logLogNextSeq ((seq + 1) % 2 ^ 32)
      let s := if lost then s.bump E.logLogOverwrites else s
      let s := s.traceEvent { type := 5, pitch := e.pitch, unit := e.unit, data := e.code + seq * 2 ^ 32 }
      let s := if s.reg E.stopStopSeverity ≤ e.severity ∧ bitOf (s.reg E.stopStopTriggers) 0 then s.latchStop 2 else s
      if 2 ≤ e.severity then s.sendError e.code seq else s

/-- A write of LOG_ACK: below the present one, or above LOG_NEXT_SEQ, it is ignored (R521). -/
def State.writeLogAck (s : State) (v : Nat) : State :=
  let next := s.reg E.logLogNextSeq
  let ack := s.reg E.logLogAck
  s.writeWhen (decide (v < 2 ^ 32) && decide (seqSub 32 v ack ≤ seqSub 32 next ack)) fun s => s.setReg E.logLogAck v

/-- The block of LOG: 1,024 entries of 32 B. -/
def State.logBlock (s : State) : List Byte := (List.range 1024).flatMap fun i => bytesOfWords (s.logEntry i)

/-! ### The Lantern port (R523 to R526) -/

/-- A write of LANTERN_ENABLE. -/
def State.writeLantern (s : State) (v : Nat) : State := s.writeWhen (decide (v ≤ 1)) fun s => s.setReg E.traceLanternEnable v

/-- SUPERFRAME_SEND: a header and 127 records, filled with IDLE records (R524). -/
def State.opSuperframe (s : State) : State :=
  if ¬ (s.running ∧ s.reg E.traceLanternEnable = 1) then s
  else
    let idle : TraceEv := { type := 0 }
    let got := s.trace.buffer.take 127
    let recs := got ++ List.replicate (127 - got.length) (idle.record s.now)
    let crc := crc32c (recs.flatMap bytesOfWords)
    let hdr := [packWord [(0, 0x4C414E54), (32, s.trace.superframe)], BitVec.ofNat 64 s.now,
      packWord [(0, s.trace.dropped), (16, s.deviceNumber), (32, crc)], 0]
    let s := { s with trace := { s.trace with
        buffer := s.trace.buffer.drop 127, dropped := 0, superframe := (s.trace.superframe + 1) % 2 ^ 32 } }
    (s.bump E.traceSuperframes).emit (.superframe hdr recs)

/-! ### Global stop (R528 to R531) -/

/-- A write of STOP_NOW. -/
def State.writeStopNow (s : State) (v : Nat) : State := if v = 1 then s.latchStop 1 else s.ignoreWrite

/-- STOP_IN_LOW: filtered STOP_IN falls, and the device stops under its STOP_MODE; IGNORE does not sense the net. -/
def State.opStopIn (s : State) : State :=
  let mode := s.reg E.stopStopMode
  if ¬ (s.running ∧ s.stop.stopIn ∧ mode ≠ 0) then s
  else
    let own := s.stop.latched
    let s := if own then s else s.setReg E.stopStopCause 5
    let s := (s.setRegs [(E.stopStopTime, s.now), (E.stopStopOrigin, b2n own)]).bump E.stopStops
    let cause := s.reg E.stopStopCause
    let s := (s.traceEvent { type := 7, data := cause }).logEvent 0x0011 0 0xFFF 0 cause
    let halt := mode == 2
    { s.setReg E.stopStopState (if halt then 2 else 3) with
      stop := { s.stop with stopIn := false, halted := halt, frozen := !halt } }

/-- A write of STOP_CLEAR: the trigger is unlatched and STOP_OUT released. -/
def State.writeStopClear (s : State) (v : Nat) : State :=
  if v = 1 then { s with stop := { s.stop with latched := false, stopIn := true } } else s.ignoreWrite

/-- A write of RESUME: every halted unit goes on; ignored while filtered STOP_IN is low, unless STOP_MODE is IGNORE. -/
def State.writeResume (s : State) (v : Nat) : State :=
  s.writeWhen (v == 1 && (s.stop.stopIn || s.reg E.stopStopMode == 0)) fun s =>
    { s.setReg E.stopStopState 0 with stop := { s.stop with stopIn := true, halted := false, frozen := false } }

/-! ### The test access port (R533) -/

/-- Select an instruction of the port; the pins are driven or in high impedance as it says. -/
def State.tap (s : State) (ir : JtagIr) (driven highZ : Bool) : State :=
  if s.power.phase = .off then s else { s with jtag := { s.jtag with ir, driven, highZ } }

/-- BYPASS, and any instruction that the port does not support. -/
def State.opBypass (s : State) : State := s.tap .bypass false false

/-- IDCODE: the identification register is selected. -/
def State.opIdcode (s : State) : State :=
  if s.power.phase = .off then s else (s.tap .idcode false false).emit (.tdo 0x19740E35)

/-- SAMPLE/PRELOAD: the boundary register is loaded. -/
def State.opSamplePreload (s : State) (bits : List Bool) : State :=
  if s.power.phase = .off then s
  else
    let s := s.tap .samplePreload false false
    { s with jtag := { s.jtag with boundary := bits } }

/-- EXTEST: the pins are driven from the boundary register. -/
def State.opExtest (s : State) : State := s.tap .extest true false

/-- HIGHZ: every output is in high impedance. -/
def State.opHighz (s : State) : State := s.tap .highz false true

/-- CLAMP: the pins stay driven from the boundary register while BYPASS is selected. -/
def State.opClamp (s : State) : State := s.tap .clamp true false

/-- STOP_REQ: latches the stop when bit 2 of STOP_TRIGGERS is set (R528). -/
def State.opStopReq (s : State) : State :=
  let s := s.tap .stopReq false false
  if s.running ∧ bitOf (s.reg E.stopStopTriggers) 2 then s.latchStop 4 else s

/-- Test-Logic-Reset: IDCODE is selected and the pins are the device's own. -/
def State.opTapReset (s : State) : State := s.tap .idcode false false

end Sys2Proof.Machine
end

