-- ==== Sys2Proof/Machine/Budget.lean ====
section
/-! DEFINITION. Writes of the entries whose own rules bind them to other entries: Trail budgets and meters (R385,
R392, R395, R396), Stile ranges and leases (R163, R164), Bivouac ranges (R265), agent numbers (R133), keys and security
floors (R465). -/

namespace Sys2Proof.Machine

/-! ### Budgets and meters -/

/-- A write of a budget entry stands only when R385 and R386 allow its result. -/
def State.writeBudget (s : State) (key v : Nat) : State :=
  let s' := s.setReg key v
  s.writeWhen (s.budgetFits s') fun _ => s'

/-- A write of RESERVED_SLOTS: only while SERVING = 1 (R396). -/
def State.writeReserved (s : State) (p v : Nat) : State :=
  s.writeWhen (s.serves p) fun s => s.writeBudget (E.pitchReservedSlots p) v

/-- The meter that a block of 16 bytes describes, both buckets full (R392, R405). -/
def meterOf (b : List Byte) (queue : List Metered) : Meter :=
  let w := fun i => leNat ((b.drop (4 * i)).take 4)
  { cir := w 0, pir := w 1, cbs := w 2, pbs := w 3, tc := w 2 * 1024, tp := w 3 * 1024, queue }

/-- The block of a meter (R405). -/
def Meter.block (m : Meter) : List Byte := leBytes 4 m.cir ++ leBytes 4 m.pir ++ leBytes 4 m.cbs ++ leBytes 4 m.pbs

/-- Parameters that a meter accepts (R392). -/
def Meter.legal (m : Meter) : Bool :=
  decide (m.cir ≤ m.pir) && (m.pir == 0 || (decide (128 ≤ m.cbs) && decide (128 ≤ m.pbs)))

/-- A write of a meter's block (R392, R395). -/
def State.writeMeter (s : State) (p : Nat) (urgent : Bool) (b : List Byte) : State :=
  let k := meterKey p urgent
  let m := meterOf b (s.meterAt k).queue
  let s' := s.setMeter k m
  let fits := !urgent || decide (s'.urgentSum s'.serves ≤ s.reg E.trailUrgentCap)
  s.writeWhen (b.length == 16 && m.legal && fits) fun _ => s'

/-- A write of URGENT_CAP (R395, R402). -/
def State.writeUrgentCap (s : State) (v : Nat) : State :=
  s.writeWhen (decide (v ≤ 4000000) && decide (s.urgentSum s.serves ≤ v)) fun s => s.setReg E.trailUrgentCap v

/-! ### Entries bound to one another -/

/-- A write of HOST_AGENT or UTXON_AGENT (R133). -/
def State.writeAgent (s : State) (p : Port) (v : Nat) : State :=
  let key := match p with
    | .host n => E.dirHostAgent n
    | .utxon n => E.dirUtxonAgent n
  s.writeWhen (!s.portUp p && (decide (v < 64) || v == 0xFF)) fun s => s.setReg key v

/-- A write of STILE_BASE or STILE_COUNT of a pitch (R164). -/
def State.writeStileRange (s : State) (p base count : Nat) : State :=
  s.writeWhen ((s.pitchState p == 0 || s.pitchState p == 2) && decide (base + count ≤ 65536)) fun s =>
    (s.setReg (E.pitchStileBase p) base).setReg (E.pitchStileCount p) count

/-- A write of BIV_ALLOW_FIRST or BIV_ALLOW_COUNT of a pitch (R265). -/
def State.writeBivAllow (s : State) (p first count : Nat) : State :=
  s.writeWhen (decide (first < 512) && decide (first + count ≤ 512)) fun s =>
    (s.setReg (E.pitchBivAllowFirst p) first).setReg (E.pitchBivAllowCount p) count

/-- A write of DEFAULT_LEASE (R163). -/
def State.writeDefaultLease (s : State) (v : Nat) : State :=
  s.writeWhen (inRange v 100 (s.reg E.stileLeaseMax)) fun s => s.setReg E.stileDefaultLease v

/-- A write of LEASE_MAX (R163). -/
def State.writeLeaseMax (s : State) (v : Nat) : State :=
  s.writeWhen (inRange v (max 100 (s.reg E.stileDefaultLease)) 100000) fun s => s.setReg E.stileLeaseMax v

/-- A write of an entry that only a write of zero clears (R134, R404). -/
def State.writeClearing (s : State) (key v : Nat) : State := s.writeWhen (v == 0) fun s => s.setReg key 0

/-! ### Irreversible writes (R465) -/

/-- KEY_STATE of a key. -/
def State.keyState (s : State) (k : Nat) : Nat := s.fuses.keyAt k

/-- A write of k to REVOKE: a revocation that would leave no PRESENT key is ignored. -/
def State.writeRevoke (s : State) (role : Role) (k : Nat) : State :=
  let keeps := (List.range 8).any fun j => j != k && s.keyState j == 1
  s.writeWhen (decide (k < 8) && keeps) fun s =>
    let (s, hit) := s.armTwice role E.secRevoke k
    if hit then s.burn (.revoke k) else s

/-- A write of SVN_FLOOR of a class: not below the present floor, and not above the SVN of the ACTIVE image. -/
def State.writeSvnFloor (s : State) (role : Role) (c v : Nat) : State :=
  let img := (s.halves c).active
  let ok := !img.isEmpty && decide (s.fuses.floorAt c ≤ v) && decide (v ≤ bits (hdrWord img 1) 47 32)
  s.writeWhen (inRange c 1 3 && decide (v < 256) && ok) fun s =>
    let (s, hit) := s.armTwice role (E.secSvnFloor (c - 1)) v
    if hit then s.burn (.floor c v) else s

/-- A write of MAC_ADDRESS (R464): it waits for the response to its request. -/
def State.writeMac (s : State) (v : Nat) : State :=
  let m := v % 2 ^ 48
  s.writeWhen (m % 2 == 0 && m != 0) fun s => { s with dict := { s.dict with macPending := some m } }

end Sys2Proof.Machine
end

