-- ==== Sys2Proof/Machine/Values.lean ====
section
/-! DEFINITION. What an entry reads (R438, R447): the values that are computed at the read, family by family, and the
value of any other entry. -/

namespace Sys2Proof.Machine

/-- Bits of a number for the places that pass a test. -/
def bitSet (n : Nat) (f : Nat → Bool) : Nat := (List.range n).foldl (fun acc i => if f i then acc + 2 ^ i else acc) 0

/-- How many places pass a test. -/
def countOf (n : Nat) (f : Nat → Bool) : Nat := ((List.range n).filter f).length

/-- PEER_PORTS: byte j is the port to the peer at position j, 0xFF for none and for the own position (R29). -/
def State.peerPorts (s : State) : Nat :=
  leNat ((List.range 8).map fun j =>
    BitVec.ofNat 8 (if j = s.reg E.idBoardPos then 0xFF else (s.peerPort j).getD 0xFF))

/-- Slices with entries of their own: SLICES_IN_SERVICE (R132). -/
def State.slicesInService (s : State) : Nat := countOf 32 fun l => (s.ownSlice l).isSome

/-- The device serves plain loads and stores (R488). -/
def State.minimalService (s : State) : Bool :=
  s.reg E.clkPllState == 2 && s.power.emberUp && (List.range 2).any (fun k => s.core k == 2) &&
    ((List.range 4).any (fun n => s.portServes (.host n)) || (List.range 24).any fun n => s.portServes (.utxon n)) &&
    (List.range 33).any (fun q => s.reg (E.sliceState q) == 1) && (List.range 16).any fun st => s.stackState st == 3

/-- SERVICE_LEVEL (R480, R488). -/
def State.serviceLevel (s : State) : Nat :=
  if s.pitchState 0 = 1 ∧ s.slicesInService = 32 then 2 else if s.minimalService then 1 else 0

/-- PORTS of an agent (R135). -/
def State.portsNaming (s : State) (a : Nat) : Nat :=
  bitSet 24 (fun n => s.reg (E.dirUtxonAgent n) == a) + 2 ^ 24 * bitSet 4 fun n => s.reg (E.dirHostAgent n) == a

/-- CREDITS of a Utxon port (R377). -/
def State.creditWord (s : State) (n : Nat) : Nat :=
  let l := s.link n
  l.req.sendHeld % 65536 + l.snp.sendHeld % 65536 * 65536 + l.rsp.sendHeld % 65536 * 2 ^ 32

/-- REFRESH_SLOTS: those of the present period on a serving stack (R383). -/
def State.refreshShown (s : State) (st : Nat) : Nat :=
  let t := s.trailOf st
  if s.stackState st = 3 ∧ t.slots ≠ 0 then t.refresh else s.refreshSlots st

/-- Values of pitch p's index that are computed at the read; none for the others. -/
def State.pitchValue (s : State) (p sub : Nat) : Option Nat :=
  match sub with
  | 0x05 => some (s.regionCount p)
  | 0x07 => some (s.bytesHeld p)
  | 0x0C => some 0
  | 0x25 => some (s.faultWaiting p)
  | 0x2A => some (s.invalPending p)
  | 0x2B => some (s.parkedCount p)
  | _ => none

/-- Values of the identity, clock and reset indices that are computed at the read. -/
def State.baseValue (s : State) (idx sub : Nat) : Option Nat :=
  match idx, sub with
  | 0x1000, 0x05 => some s.fuses.serial
  | 0x1000, 0x06 => some s.fuses.dateCode
  | 0x1000, 0x23 => some s.deviceNumber
  | 0x1000, 0x24 => some s.peerPorts
  | 0x1200, 0x05 => some s.fuses.lifecycle
  | 0x1202, i => some (s.keyState (i - 1))
  | 0x1203, c => some (s.fuses.floorAt c)
  | 0x2000, 0x0A => some s.cclk
  | 0x2010, 0x01 => some s.now
  | 0x2100, 0x0A => some s.serviceLevel
  | _, _ => none

/-- Values of the Trail indices that are computed at the read (R402, R404). -/
def State.trailValue (s : State) (idx sub : Nat) : Option Nat :=
  if idx = 0x6800 then (if sub = 4 then some (s.urgentSum s.serves) else none)
  else
    let st := idx - 0x6840
    match sub with
    | 0x01 => some (s.refreshShown st)
    | 0x02 => some (if s.stackState st = 3 then s.periodSlots st - s.refreshShown st else 0)
    | 0x03 => some (s.headroom st)
    | 0x10 => some (s.overcommit st)
    | _ => none

/-- Values of the Bivouac, engine and Kettle indices that are computed at the read. -/
def State.engineValue (s : State) (idx sub : Nat) : Option Nat :=
  if idx = 0x7210 then
    match sub with
    | 1 => some (countOf 512 s.bivServed)
    | 2 => some (countOf 528 fun n => s.reg (E.bivState n) == 3)
    | _ => none
  else if sub = 2 ∧ 0x7400 ≤ idx ∧ idx < 0x7420 then some (s.viewsBound (idx - 0x7400))
  else if sub = 2 ∧ 0x7500 ≤ idx ∧ idx < 0x7520 then some (s.tablesBound (idx - 0x7500))
  else if sub = 2 ∧ 0x7700 ≤ idx ∧ idx < 0x7740 then some (s.indicesBound (idx - 0x7700))
  else if sub = 4 ∧ 0x7820 ≤ idx ∧ idx < 0x7828 then
    some (if idx < 0x7822 then 0 else s.groupsBound (idx - 0x7820))
  else
    match idx, sub with
    | 0x7480, 1 => some s.viewCount
    | 0x7580, 1 => some s.eng.tables.length
    | 0x7780, 1 => some s.eng.indices.length
    | 0x7800, 0x11 => some s.eng.groups.length
    | _, _ => none

/-- Values of the directory, service and Stile indices that are computed at the read. -/
def State.serviceValue (s : State) (idx sub : Nat) : Option Nat :=
  if sub = 3 ∧ 0x7C10 ≤ idx ∧ idx < 0x7C10 + 33 then some (s.sliceUsed (idx - 0x7C10))
  else if sub = 5 ∧ 0x7C40 ≤ idx ∧ idx < 0x7C80 then some (s.portsNaming (idx - 0x7C40))
  else
    match idx, sub with
    | 0x7C00, 1 => some s.slicesInService
    | 0x7C00, 5 => some s.agentPresent.toNat
    | 0x7C00, 7 => some s.dir.entries.length
    | 0x9000, 0x0C => some (countOf 512 s.bivUnserved)
    | 0x9000, 0x0E => some (bitSet 32 fun l => (s.ownSlice l).isNone && (s.servingSlice l).isSome)
    | 0x9400, 4 => some s.locksHeld
    | _, _ => none

/-- Values of the stacked-memory and Sward indices that are computed at the read (R195, R196). -/
def State.memoryValue (s : State) (idx sub : Nat) : Option Nat :=
  match idx, sub with
  | 0x3400, 4 => some s.sward.staged.length
  | 0x3800, 8 => some s.mem.withdrawn.length
  | 0x3800, 9 => some s.relocPending
  | 0x3800, 0x0A => some s.mem.exposed.length
  | _, _ => none

/-- The value of an entry that is computed at the read; none where the entry holds it. -/
def State.computed (s : State) (idx sub : Nat) : Option Nat :=
  if idx < 0x3000 then s.baseValue idx sub
  else if idx < 0x4000 then s.memoryValue idx sub
  else if idx < 0x5000 then s.pitchValue (idx - 0x4000) sub
  else if 0x6000 ≤ idx ∧ idx < 0x6180 then
    (if idx % 16 = 0 ∧ sub = 0x16 then some (s.creditWord ((idx - 0x6000) / 16))
     else if idx % 16 = 0 ∧ sub = 0x17 then some (s.link ((idx - 0x6000) / 16)).egressBytes
     else none)
  else if idx = 0x6800 ∨ (0x6840 ≤ idx ∧ idx < 0x6850) then s.trailValue idx sub
  else if 0x7210 ≤ idx ∧ idx < 0x7900 then s.engineValue idx sub
  else if 0x7C00 ≤ idx then s.serviceValue idx sub
  else none

/-- The text of an STR entry (R463). -/
def textOf (sub : Nat) : List Byte :=
  let t := match sub with
    | 1 => "Rinfold Microsystems"
    | 2 => "Lialgus"
    | _ => "LFD-9740"
  t.toList.map fun c => BitVec.ofNat 8 c.toNat

/-- The value that an entry of a type of fixed size reads: subindex 0 reads the highest subindex of its index (R438). -/
def State.value (s : State) (idx sub : Nat) : Nat :=
  if sub = 0 then topSub idx else (s.computed idx sub).getD (s.reg (ekey idx sub))

end Sys2Proof.Machine
end

