-- ==== Sys2Proof/Machine/Blocks.lean ====
section
/-! DEFINITION. The blocks of DOMAIN entries (R439, R454): what each holds at a read. -/

namespace Sys2Proof.Machine

/-! ### Records -/

/-- CHECK of a directory entry over its bits [119:0] (R555): an extended Hamming code. -/
def entryCheck (x : Nat) : Nat :=
  let places := (List.range 128).filter fun p => decide (2 < p) && p != 4 && p != 8 && p != 16 && p != 32 && p != 64
  let data := places.zipIdx.filter fun q => bitOf x q.2
  let low := bitSet 7 fun j => (data.filter fun q => bitOf q.1 j).length % 2 == 1
  let ones := (List.range 120).filter (bitOf x)
  let lowOnes := (List.range 7).filter (bitOf low)
  low + 128 * ((ones.length + lowOnes.length) % 2)

/-- STATE of a directory entry as R109 codes it. -/
def LineState.code : LineState → Nat
  | .i => 0
  | .s => 1
  | .x => 2
  | .tShare => 3
  | .tInv => 4
  | .tCur => 5
  | .tEvict => 6

/-- The 16 bytes of a directory entry (R109). -/
def DirEntry.block (e : DirEntry) (ln : Nat) : List Byte :=
  let w1 := ln % 2 ^ 34 + e.state.code * 2 ^ 34 + e.owner % 64 * 2 ^ 37 + b2n e.resv.isSome * 2 ^ 43 +
    e.resv.getD 0 % 128 * 2 ^ 44
  let x := e.sharers.toNat + 2 ^ 64 * w1
  leBytes 15 x ++ [BitVec.ofNat 8 (entryCheck x)]

/-- DIAG_ENTRY: all zero while the line is in I. -/
def State.diagEntry (s : State) : List Byte :=
  let ln := s.reg E.dirDiagLine / 64
  match s.entry ln with
  | some e => if e.state = .i then leBytes 16 0 else e.block ln
  | none => leBytes 16 0

/-- The view record of R296. -/
def State.viewBlock (s : State) (i : Nat) : List Byte :=
  let v := s.viewAt i
  if v.used then bytesOfWords
    [packWord [(0, i), (16, v.bracken), (32, v.m), (48, v.n)],
     packWord [(0, v.rank), (12, v.ffmt), (16, v.tfmt), (20, b2n v.sat), (32, v.rowPitch / 64)],
     BitVec.ofNat 64 v.uBase, BitVec.ofNat 64 v.vBase,
     packWord [(0, v.cause), (8, v.stream), (16, v.segment)], 0, 0, 0]
  else leBytes 64 0

/-- The table record of R319. -/
def State.tableBlock (s : State) (h : Nat) : List Byte :=
  let t := s.tableAt h
  if t.used then bytesOfWords (t.words.set 2 (packWord [(0, t.owner), (16, t.pos)]) ++ t.shards.map (BitVec.ofNat 64))
  else leBytes 40 0

/-- The index record of R348. -/
def State.indexBlock (s : State) (h : Nat) : List Byte :=
  let x := s.indexAt h
  if x.used then bytesOfWords
    [packWord [(0, h), (16, x.owner), (32, if x.damaged then 2 else 1), (40, x.heather)],
     BitVec.ofNat 64 (bits x.params 44 0), BitVec.ofNat 64 x.bucketBase, BitVec.ofNat 64 x.vecBase,
     packWord [(0, x.capacity), (32, x.fresh)], packWord [(0, x.ringCount), (32, x.ovfFree)],
     BitVec.ofNat 64 x.committed, BitVec.ofNat 64 x.longest]
  else leBytes 64 0

/-- ROUTES: two ports for each board (R379). -/
def State.routesBlock (s : State) : List Byte := (List.range 256).map fun i => BitVec.ofNat 8 (s.routeEntry i)

/-- A write of ROUTES. -/
def State.writeRoutes (s : State) (b : List Byte) : State :=
  s.writeWhen (b.length == 256) fun s =>
    { s with port := { s.port with
      routes := b.zipIdx.foldl (fun m x => SMap.set (fun _ => 0xFF) m x.2 x.1.toNat) s.port.routes } }

/-- A write of SAMPLE_LIST (R535). -/
def State.writeSamples (s : State) (b : List Byte) : State :=
  s.writeWhen (decide (b.length ≤ 64) && b.length % 4 == 0) fun s => { s with trace := { s.trace with samples := b } }

/-! ### Scan (R532) -/

/-- Bytes whose layout the manual does not give: free. -/
def openBytes (draw n : Nat) : List Byte := (List.range n).map fun i => BitVec.ofNat 8 (Config.freeElem draw i)

/-- The 2,432 bytes of a Peg: pc, x1–x31, f0–f31, v0–v31. -/
def Peg.block (p : Peg) : List Byte :=
  leBytes 8 p.pc ++ (List.range 31).flatMap (fun i => leBytes 8 (SMap.get (fun _ => 0) p.x (i + 1))) ++
    (List.range 32).flatMap (fun i => leBytes 4 (SMap.get (fun _ => 0) p.f i)) ++
    (List.range 32).flatMap (fun i => leBytes 64 (SMap.get (fun _ => 0) p.v i))

/-- Part 0 of a Bivouac: 64 Pegs; what the Pegs hold while no kernel runs is free. -/
def Biv.pegBlock (x : Biv) (draw : Nat) : List Byte :=
  if x.pegs = [] then openBytes draw 155648 else x.pegs.flatMap Peg.block

/-- Part 1: the status word, the queue entries, whose layout is free, the configuration and the accumulators. -/
def Biv.ridgeBlock (x : Biv) (draw : Nat) : List Byte :=
  leBytes 8 x.rpStatus ++ openBytes draw 256 ++ leBytes 8 x.rpCfg ++
    (List.range 8192).flatMap fun i => leBytes 4 (SMap.get (fun _ => 0) x.acc i)

/-- Part 3: the descriptors of the window; places that hold none are free. -/
def State.windowBlock (s : State) (b draw : Nat) : List Byte :=
  let ds := ((s.window b).take 9).flatMap fun d => bytesOfWords d.1.words
  ds ++ openBytes draw (1152 - ds.length)

/-- SCAN_DATA: the block of the unit and part, while STOP_STATE reads HALTED. -/
def State.takeScan (s : State) : State × List Byte :=
  let w := s.reg E.scanScanUnit
  let part := s.reg E.scanScanPart
  let u := w % 65536
  if s.reg E.stopStopState ≠ 2 then (s, [])
  else
    let (draw, s') := s.drawFree
    if w / 2 ^ 24 = 1 ∧ u < 528 then
      let b := s.reg (E.bivLogical u)
      let x := if b < 512 then s.bivAt b else {}
      match part with
      | 0 => (s', x.pegBlock draw)
      | 1 => (s', x.ridgeBlock draw)
      | 2 => (s', openBytes draw 32768)
      | 3 => (s', s.windowBlock b draw)
      | _ => (s, [])
    else if w / 2 ^ 24 = 5 ∧ u < 8 ∧ part = 0 then (s', openBytes draw 512)
    else (s, [])

/-! ### Reading a block -/

/-- The block of a pitch's entry. -/
def State.pitchBlock (s : State) (p sub : Nat) : List Byte :=
  match sub with
  | 0x10 => s.ringConfigBlock p
  | 0x11 => s.ringStateBlock p
  | 0x30 => s.regionsBlock p
  | 0x36 => (s.meterAt (meterKey p true)).block
  | 0x37 => (s.meterAt (meterKey p false)).block
  | _ => []

/-- The block of an entry whose read has no effect. -/
def State.block (s : State) (idx sub : Nat) : List Byte :=
  if 0x4000 ≤ idx ∧ idx < 0x5000 then s.pitchBlock (idx - 0x4000) sub
  else if 0x6400 ≤ idx ∧ idx < 0x6440 then (s.decoderAt ((idx - 0x6400) / 16) (sub - 1)).block
  else if 0x7810 ≤ idx ∧ idx < 0x7816 then
    let img := (s.halves (idx - 0x7810)).active
    (if img = [] then leBytes 48 0 else sha384 (img.take 192))
  else
    match idx, sub with
    | 0x1200, 3 => s.fuses.deviceCert
    | 0x1200, 4 => sha384 s.fuses.deviceCert
    | 0x1201, k => SMap.get (fun _ => []) s.fuses.keys (k - 1)
    | 0x3800, 0x0B => leBytes 72 Config.nwWord
    | 0x3800, 0x0C => leBytes 72 Config.poisonWord
    | 0x6300, 1 => s.routesBlock
    | 0x7480, 8 => s.viewBlock (s.reg E.viewsDiagView)
    | 0x7580, 8 => s.tableBlock (s.reg E.tablesDiagTable)
    | 0x7780, 8 => s.indexBlock (s.reg E.indicesDiagIndex)
    | 0x7C00, 9 => s.diagEntry
    | 0x8100, 1 => s.logBlock
    | 0x8200, 4 => s.trace.samples
    | 0x9000, 0x0D => leBytes 64 (bitSet 512 s.bivUnserved)
    | _, _ => []

/-- Read a block as a whole: an audit, the inspected lock and a scan are taken at the read (R163, R512, R532). -/
def State.takeBlock (s : State) (idx sub : Nat) : State × List Byte :=
  match idx, sub with
  | 0x9100, 3 => s.takeAudit
  | 0x9400, 0x0B => s.takeDiagState
  | 0xA010, 3 => s.takeScan
  | _, _ => (s, s.block idx sub)

/-- The present size of a block, which a READ of its entry returns (R439). -/
def State.blockSize (s : State) (idx sub : Nat) : Nat :=
  match idx, sub with
  | 0x9100, 3 => 64
  | 0x9400, 0x0B => 32
  | 0xA010, 3 => s.takeScan.2.length
  | _, _ => (s.block idx sub).length

end Sys2Proof.Machine
end

