-- ==== Sys2Proof/Machine/Reset.lean ====
section
/-! DEFINITION. Power, clocks and resets: the warm entry, what each reset keeps and clears, the end of the internal
reset, rail faults and the thermal trip (R467 to R479, R541 to R547). -/

namespace Sys2Proof.Machine

/-! ### What a reset keeps (R474 to R476, R517) -/

/-- Entries kept by every reset but power-on: the sampled straps and PIN_RESET_KIND (R23, R474). -/
def keptCold (k : Nat) : Bool := k == E.idBoardPos || k == E.idPlcaId || k == E.rstPinResetKind

/-- Index of a stack's own entries. -/
def isStackIndex (idx : Nat) : Bool := decide (0x3000 ≤ idx) && decide (idx < 0x3100) && idx % 16 == 0

/-- Entries kept by a warm reset with the value `v` they hold (R476, R517, R553). -/
def keptWarm (k v : Nat) : Bool :=
  keptCold k || k == E.rstWarmResets || k == E.clkPllLockLosses || k == E.eccGroundsheetBase ||
    k == E.eccProtectedBytes || k == E.powThermalTrips || k == E.powRailFaultLast || k == E.logLogNextSeq ||
    k == E.logLogAck || k == E.logLogOverwrites ||
    (decide (0x7000 ≤ k / 256) && decide (k / 256 < 0x7000 + 528) && k % 256 == 2) ||
    (isStackIndex (k / 256) && (k % 256 == 2 || (k % 256 == 1 && v == 5)))

/-- Entries that show live conditions. -/
def isLive (k : Nat) : Bool := k == E.clkRefclkPresent || k == E.clkPllState || k == E.powRailStatus

/-- The registers that a reset leaves. -/
def State.keptRegs (s : State) (warm : Bool) : SMap Nat :=
  s.regs.filter fun e => isLive e.1 || (if warm then keptWarm e.1 e.2 else keptCold e.1)

/-- The slot belongs to a stack of the set. -/
def ofStacks (set slot : Nat) : Bool := bitOf set (slot / stackSlots)

/-- Stacked memory with the contents of every stack outside `kept` lost (R474, R475). -/
def MemSt.keepStacks (m : MemSt) (kept : Nat) : MemSt :=
  { m with
    bytes := SMap.keep (fun a => ofStacks kept (a / 64)) m.bytes
    kinds := SMap.keep (ofStacks kept) m.kinds
    errs := SMap.keep (ofStacks kept) m.errs
    stale := m.stale.filter fun st => bitOf kept st
    fresh := SMap.keep (ofStacks kept) m.fresh
    scrub := [] }

/-- The logic resets with every output inert (R473, R475, R476): what the reset keeps stands, and everything else
is as after reset.  `kept` holds the stacks whose contents survive. -/
def State.halt (s : State) (warm : Bool) (kept : Nat) : State :=
  { State.reset with
    pending := s.pending
    power := { PowerSt.init with
      phase := .held, resetN := s.power.resetN, cause := s.power.cause, lossAt := s.power.lossAt,
      railsOut := s.power.railsOut, railHold := s.power.railHold, tripHold := s.power.tripHold, sensorHot := s.power.sensorHot,
      warm, kept, thermTripN := s.power.thermTripN, trained := kept }
    fuses := s.fuses
    regs := s.keptRegs warm
    log := if warm then { queue := [], ring := s.log.ring } else { queue := [], ring := [] }
    jtag := s.jtag
    stop := { State.reset.stop with stopIn := s.stop.stopIn }
    mem := if warm then s.mem.keepStacks kept else MemSt.init
    stile := if warm then s.stile.afterWarm else StileSt.afterCold
    sent := s.sent
    freeCount := s.freeCount }

/-! ### End of the internal reset (R470, R471, R480) -/

/-- The default of MAC_ADDRESS under the sampled straps (R464). -/
def macDefault (plca : Nat) : Nat := 0x465202 + plca * 2 ^ 40

/-- The internal reset ends: time starts from 0, LAST_RESET and CONTENTS_KEPT are set (R471, R490). -/
def State.endReset (s : State) : State :=
  let s := { s with power := { s.power with phase := .running } }
  let s := s.setRegs [(E.rstLastReset, s.power.cause), (E.rstContentsKept, s.power.kept),
    (E.mgmtMacAddress, macDefault (s.reg E.idPlcaId))]
  let s := if s.power.warm then s.bump E.rstWarmResets else s
  if s.power.cause = 5 then s.logEventAt s.power.lossAt 0x0007 1 0xFFF 0 s.power.kept else s

/-- The internal reset ends once RESET_N is high, the PLL is locked and nothing else holds the device (R471, R543,
R547). -/
def State.tryRelease (s : State) : State :=
  if s.power.phase = .held ∧ s.power.resetN ∧ s.reg E.clkPllState = 2 ∧ ¬ s.power.railHold ∧ ¬ s.power.tripHold ∧
      s.power.railsOut = 0
  then s.endReset else s

/-- A warm entry begins: admission stops and dictionary requests not yet performed are discarded (R475). -/
def State.beginWarmEntry (s : State) (cause : Nat) : State :=
  { s with
    power := { s.power with phase := .warmEntry, cause }
    dict := { s.dict with held := [], armed := [], resetPending := none } }

/-- A cold reset: every stack is reset at once (R474). -/
def State.coldReset (s : State) (cause : Nat) : State :=
  let s := { s with power := { s.power with cause } }
  s.halt false 0

/-! ### The warm entry (R182, R475) -/

/-- Every access that a controller has accepted: writes are completed, parity included, and answered by nobody. -/
def State.completeWrites (s : State) : State :=
  let ts := (s.trail.gather.map fun g => g.1).eraseDups
  let s := ts.foldl (fun s t => s.flushGather t) s
  let ws := s.trail.queue.filter fun a => a.kind != .read
  ws.foldl (fun s a =>
    match s.chargeOf a (s.accessHome a.line).1 with
    | some (_, c) => s.runAccess { a with reply := none } c 0
    | none => s) { s with trail := { s.trail with queue := ws } }

/-- The stacks that the end of a warm entry leaves in self-refresh with their contents: serving stacks that entered
it, and stacks still in self-refresh from the reset before. -/
def State.parkedStacks (s : State) (entered : BitVec 16) : Nat :=
  (List.range 16).foldl (fun acc st =>
    let serving := s.stackState st == 3 && entered.getLsbD st
    let parked := (s.stackState st == 0 || s.stackState st == 1) && bitOf (s.reg E.rstContentsKept) st
    if serving || parked then acc + 2 ^ st else acc) 0

/-- WARM_ENTRY_DONE (R475). -/
def State.opWarmEntryDone (s : State) (entered : BitVec 16) : State :=
  if s.power.phase = .warmEntry then
    let s := s.completeWrites
    (s.halt true (s.parkedStacks entered)).tryRelease
  else s

/-! ### Pins, clocks, rails and the trip -/

/-- POWER_ON: power comes up in range with REFCLK valid and the PLL locked, and RESET_N is released for the first
time (R474, R480 steps 1 to 3). -/
def State.opPowerOn (s : State) (pos plca : Nat) : State :=
  if s.power.phase = .off then
    let t := { State.reset with pending := s.pending, fuses := s.fuses, sent := s.sent, freeCount := s.freeCount }
    t.setRegs [(E.idBoardPos, pos % 8), (E.idPlcaId, plca % 16), (E.mgmtMacAddress, macDefault (plca % 16))]
  else s

/-- POWER_LOSS: everything but the fuses is lost (R447, R478). -/
def State.opPowerLoss (s : State) : State :=
  { State.reset with
    pending := s.pending
    power := { PowerSt.init with phase := .off, resetN := false }
    fuses := s.fuses, regs := [], sent := s.sent, freeCount := s.freeCount }

/-- Stacked memory is lost while the device is held in reset. -/
def State.loseContents (s : State) : State :=
  { s with power := { s.power with kept := 0, warm := false, trained := 0 }, mem := MemSt.init
           regs := s.regs.filter fun e => isLive e.1 || keptCold e.1
           log := { queue := [], ring := [] }, stile := StileSt.afterCold }

/-- RESET_N counts as asserted (R471, R474, R475, R478). -/
def State.opResetAsserted (s : State) : State :=
  if s.power.phase = .off ∨ ¬ s.power.resetN then s
  else
    let s := { s with power := { s.power with resetN := false } }
    let warm := s.reg E.rstPinResetKind == 1
    match s.power.phase with
    | .running => if warm then s.beginWarmEntry 2 else s.coldReset 1
    | .warmEntry => if warm then s else s.coldReset 1
    | .held =>
      if warm then { s with power := { s.power with cause := 2, warm := true } }
      else { s.loseContents with power := { s.loseContents.power with cause := 1 } }
    | .off => s

/-- RESET_N counts as released: the straps are sampled, a rail fault's hold ends, a trip's ends with every sensor
cool, and the internal reset ends if nothing else holds it (R23, R471, R543, R547). -/
def State.opResetReleased (s : State) (pos plca : Nat) : State :=
  if s.power.phase = .off ∨ s.power.resetN then s
  else
    let trip := s.power.tripHold && s.power.sensorHot
    let s := { s with power := { s.power with
      resetN := true, railHold := false, tripHold := trip, thermTripN := s.power.thermTripN || !trip } }
    (s.setRegs [(E.idBoardPos, pos % 8), (E.idPlcaId, plca % 16)]).tryRelease

/-- PLL_LOCK: the PLL locks, and a reset that waits for it ends (R469, R470, R471). -/
def State.opPllLock (s : State) : State :=
  if s.power.phase = .off ∨ s.reg E.clkPllState = 2 then s
  else (s.setRegs [(E.clkPllState, 2), (E.clkRefclkPresent, 1)]).tryRelease

/-- REFCLK_LOSS: holdover, a warm entry, and reset until the clock returns (R470, R478). -/
def State.opRefclkLoss (s : State) : State :=
  if s.power.phase = .off ∨ s.reg E.clkPllState ≠ 2 then s
  else
    let s := (s.setRegs [(E.clkPllState, 3), (E.clkRefclkPresent, 0)]).bump E.clkPllLockLosses
    let s := { s with power := { s.power with lossAt := s.now } }
    match s.power.phase with
    | .running => s.beginWarmEntry 5
    | .warmEntry => { s with power := { s.power with cause := 5 } }
    | _ => s

/-- The rails that keep the stacks in self-refresh and the sequencer alive: VDD_AON, VPP_HBM, VDD_HBM, VDDQ_HBM
(R543). -/
def keepRails : Nat := 2 ^ 8 + 2 ^ 5 + 2 ^ 3 + 2 ^ 4

/-- RAIL_FAULT (R543): the rails that left their range. -/
def State.opRailFault (s : State) (rails : BitVec 11) : State :=
  if s.power.phase = .off ∨ rails = 0 then s
  else
    let r := rails.toNat
    let s := s.setRegs [(E.powRailFaultLast, r), (E.powRailStatus, s.reg E.powRailStatus &&& (0x7FF ^^^ r))]
    let s := { s with power := { s.power with railHold := true, railsOut := s.power.railsOut ||| r } }
    let keeps := r &&& keepRails = 0
    match s.power.phase with
    | .running => if keeps then s.beginWarmEntry 2 else
        let l := s.reg E.powRailFaultLast
        (s.coldReset 1).setReg E.powRailFaultLast l
    | .held => if keeps then s else
        let l := s.reg E.powRailFaultLast
        s.loseContents.setReg E.powRailFaultLast l
    | _ => s

/-- RAIL_IN_RANGE: a rail has been in range for 1 ms again (R543). -/
def State.opRailInRange (s : State) (rail : Nat) : State :=
  if s.power.phase = .off ∨ ¬ bitOf s.power.railsOut rail then s
  else
    let s := s.setReg E.powRailStatus (s.reg E.powRailStatus ||| 2 ^ rail)
    { s with power := { s.power with railsOut := s.power.railsOut ^^^ 2 ^ rail } }.tryRelease

/-- THERMAL_TRIP (R547): THERMTRIP_N low, a warm entry, and reset until released cool. -/
def State.opThermalTrip (s : State) : State :=
  if s.power.phase = .off ∨ s.power.tripHold then s
  else
    let s := s.bump E.powThermalTrips
    let s := { s with power := { s.power with thermTripN := false, tripHold := true, sensorHot := true } }
    match s.power.phase with
    | .running => s.beginWarmEntry 2
    | _ => s

/-- THERMAL_EVALUATION (R546): hot lowers ISSUE_DUTY by 5, cool raises it by 5 at most once per 1 ms.  While the
device is held in reset only the trip's condition is watched (R547). -/
def State.opThermalEvaluation (s : State) (logic : Int) (power : Nat) : State :=
  if s.power.phase = .off then s
  else
    let limit : Int := s.reg E.powThrottleC
    let s := { s with power := { s.power with sensorHot := decide (limit ≤ logic) } }
    if ¬ s.running then s
    else
      let hbm := sgn 32 (s.reg E.powHbmTempMax)
      let cap := s.reg E.powPowerCap
      let s := s.setRegs [(E.powLogicTempMax, uns 32 logic), (E.powPowerEstimate, min power 65535)]
      let duty := s.reg E.bivsIssueDuty
      let hot := decide (limit ≤ logic) || decide (95 ≤ hbm) || decide (cap < power)
      let cool := decide (logic < limit - 5) && decide (hbm < 90) && decide (power + 50 ≤ cap)
      let move (s : State) (d : Nat) : State :=
        { s.setReg E.bivsIssueDuty d with power := { s.power with dutyChange := s.cclk } }
      if hot then (if 25 < duty then move s (duty - 5) else s)
      else if cool ∧ duty < 100 ∧ s.power.dutyChange + msCclk 1 ≤ s.cclk then move s (duty + 5)
      else s

/-- TEMPERATURE_READOUT (R165, R166): the stack's temperature and its refresh interval. -/
def State.opTemperature (s : State) (st : Nat) (temp : Int) : State :=
  if ¬ s.coreOn ∨ s.stackState st = 0 ∨ 16 ≤ st then s
  else
    let s := s.setRegs [(E.stackTemperature st, uns 32 temp),
      (E.stackRefreshInterval st, if temp ≤ 85 then 3900 else 1950)]
    let temps := (List.range 16).filterMap fun x =>
      if s.stackState x = 0 then none else some (sgn 32 (s.reg (E.stackTemperature x)))
    s.setReg E.powHbmTempMax (uns 32 (temps.foldl max temp))

/-- REFRESH_ISSUE: an all-bank refresh of a channel (R166); a retired channel and a stack that is in self-refresh or
off are refreshed by nobody here. -/
def State.opRefresh (s : State) (st ch : Nat) : State :=
  if s.coreOn ∧ (s.stackState st = 2 ∨ s.stackState st = 3) ∧ ¬ bitOf (s.reg (E.stackRetiredChannels st)) ch then
    { s with power := { s.power with refreshes := s.power.refreshes + 1 } }
  else s

/-- REFRESH_MANAGEMENT: a refresh management command is issued whenever the stack asks for one (R165). -/
def State.opRefreshManagement (s : State) (st : Nat) : State :=
  if s.coreOn ∧ (s.stackState st = 2 ∨ s.stackState st = 3) then
    { s with power := { s.power with refreshMgmt := s.power.refreshMgmt + 1 } }
  else s

/-- EMBER_BOOT_DONE: Ember serves the dictionary and the management port starts under PLCA (R25, R473, R480). -/
def State.opEmberBoot (s : State) : State :=
  if s.running ∧ ¬ s.power.emberUp then
    let s := { s with power := { s.power with emberUp := true } }
    s.setReg E.mgmtPlcaStatus (if s.reg E.idPlcaId = 0 then 0 else 1)
  else s

/-! ### Reset requests and the core domains (R477, R482) -/

/-- A write of RESET_REQUEST (R477): the second write of the same value by the same role within 1 s waits for its
response, and then starts its reset. -/
def State.writeResetRequest (s : State) (role : Role) (v : Nat) : State :=
  if v = 1 ∨ v = 2 then
    let (s, hit) := s.armTwice role E.rstResetRequest v
    if hit then { s with dict := { s.dict with resetPending := some v } } else s
  else s.ignoreWrite

/-- The response of a completed RESET_REQUEST has been sent, and its reset begins (R475, R477). -/
def State.fireReset (s : State) : State :=
  match s.dict.resetPending with
  | some 1 => s.beginWarmEntry 4
  | some _ => (s.coldReset 3).tryRelease
  | none => s

/-- A write of CORE_ENABLE (R480 step 5, R482). -/
def State.writeCoreEnable (s : State) (v : Nat) : State :=
  if v = 1 then
    let s := s.setReg E.rstCoreEnable 1
    if s.reg E.rstCoreState = 0 then s.setReg E.rstCoreState 1 else s
  else s.ignoreWrite

/-- CORE_ON: the core domains have started (R480 step 5). -/
def State.opCoreOn (s : State) : State :=
  if s.running ∧ s.reg E.rstCoreState = 1 then s.setReg E.rstCoreState 2 else s

/-- A write of BOARD_NUMBER takes effect only while no pitch other than pitch 0 exists (R27); bit 7 is reserved
(R8). -/
def State.writeBoardNumber (s : State) (v : Nat) : State :=
  let others := s.regs.any fun e => decide (0x4000 < e.1 / 256) && decide (e.1 / 256 < 0x5000) &&
    e.1 % 256 == 1 && e.2 != 0
  s.writeWhen (!others) fun s => s.setReg E.idBoardNumber (v % 128)

end Sys2Proof.Machine
end

