-- ==== Sys2Proof/Machine/Bringup.lean ====
section
/-! DEFINITION. Bring-up of the stacks and domain resets (R479, R483 to R485, R491). -/

namespace Sys2Proof.Machine

/-! ### Calibration (R483 to R485) -/

/-- The next stack of the queue is calibrated, if none is (R484). -/
def State.nextCal (s : State) : State :=
  if s.reg E.calCalActive ≠ 0xFF then s
  else match argMin id s.power.calQueue with
    | none => s
    | some st =>
      let s := { s with power := { s.power with calQueue := s.power.calQueue.filter (· != st) } }
      if s.stackState st = 0 then s.setRegs [(E.stackState st, 1), (E.calCalActive, st)] else s

/-- A write of STACK_ENABLE (R484): bits are only ever set; the stacks that are OFF wait for calibration. -/
def State.writeStackEnable (s : State) (v : BitVec 16) : State :=
  s.writeWhen s.coreOn fun s =>
    let new := (List.range 16).filter fun st => v.getLsbD st && s.stackState st == 0 && !s.power.calQueue.contains st
    let s := s.setReg E.calStackEnable (s.reg E.calStackEnable ||| v.toNat)
    ({ s with power := { s.power with calQueue := s.power.calQueue ++ new } }).nextCal

/-- The stack kept its contents and its trained settings, so it is verified (R476, R485). -/
def State.calKept (s : State) (st : Nat) : Bool := bitOf (s.reg E.rstContentsKept) st && bitOf s.power.trained st

/-- A stack comes into service: it reads SERVING, and its share of the period starts with every charge full (R383, R390). -/
def State.enterService (s : State) (st : Nat) : State :=
  (s.setReg (E.stackState st) 3).startPeriod st 0 (s.trailOf st).book

/-- A fenced stack serves again: its protected slots wait for REBUILD (R500). -/
def State.stackReturns (s : State) (st : Nat) : State :=
  let s := s.enterService st
  let m := s.mem
  ({ s with mem := { m with
      stale := m.stale.filter (· != st) ++ [st]
      fresh := SMap.keep (fun k => !(k / stackSlots == st)) m.fresh } }).settleStale st

/-- The end of a fenced stack's verification (R500). -/
def State.verified (s : State) (st : Nat) (o : CalOutcome) : State :=
  match o with
  | .pass => (((s.setReg (E.calCalResult st) 2).stackReturns st)).endProc .stack st true
  | .channelsFail ch => ((((s.setReg (E.calCalResult st) 1).stackReturns st).retireChannels st ch)).endProc .stack st true
  | .stackFail => ((s.setReg (E.calCalResult st) 3).retireStack st).endProc .stack st false

/-- The end of the calibration of the stack that CAL_ACTIVE names. -/
def State.calibrated (s : State) (st : Nat) (o : CalOutcome) : State :=
  let kept := s.calKept st
  let serve := fun (s : State) => if kept then s.enterService st else s.setReg (E.stackState st) 2
  let s := match o with
    | .pass => serve (s.setReg (E.calCalResult st) (if kept then 2 else 1))
    | .channelsFail ch => (serve (s.setReg (E.calCalResult st) 1)).retireChannels st ch
    | .stackFail => (s.setReg (E.calCalResult st) 3).retireStack st
  (s.setReg E.calCalActive 0xFF).nextCal

/-- CALIBRATION_DONE. -/
def State.opCalibrated (s : State) (st : Nat) (o : CalOutcome) : State :=
  if ¬ s.coreOn ∨ 16 ≤ st then s
  else if s.reg E.procProcState = 4 ∧ s.procOn .stack st ∧ s.stackState st = 4 then s.verified st o
  else if s.reg E.calCalActive = st ∧ s.stackState st = 1 then s.calibrated st o
  else s

/-- INIT_PASS_DONE: every slot of the stack holds NW_WORD, and it serves (R175, R484). -/
def State.opInitDone (s : State) (st : Nat) : State :=
  if ¬ s.coreOn ∨ 16 ≤ st ∨ s.stackState st ≠ 2 then s
  else
    let m := s.mem
    let s := { s with mem := { m with
        bytes := SMap.keep (fun a => !(a / 64 / stackSlots == st)) m.bytes
        kinds := SMap.keep (fun k => !(k / stackSlots == st)) m.kinds
        errs := SMap.keep (fun k => !(k / stackSlots == st)) m.errs } }
    s.enterService st

/-! ### DOMAIN_RESET (R479) -/

/-- What the reset of a unit's logic changes beside its STATE. -/
def State.resetUnit (s : State) (k : UnitKind) (u : Nat) : State :=
  match k with
  | .bivouac => s.setRegs [(E.bivLogical u, 0xFFFF), (E.bivPitch u, 0xFFFF)]
  | .stack =>
    let t := if bitOf s.power.trained u then s.power.trained - 2 ^ u else s.power.trained
    let s := { s with power := { s.power with trained := t } }
    (s.stackReturns u).setReg (E.stackState u) 0
  | .kettle => s.setReg (E.coreRole u) 0
  | .slice => s.setReg (E.sliceLogical u) 0xFF
  | _ => s

/-- A write of DOMAIN_RESET: taken only while the unit reads FENCED or FAILED; the unit then reads OFF. -/
def State.writeDomainReset (s : State) (w : Nat) : State :=
  let u := w % 65536
  match kindOfCode (w / 2 ^ 24) with
  | none => s.ignoreWrite
  | some k =>
    let st := s.unitState k u
    let ok := decide (u < kindNumber k) && (st == kindFenced k || (k != .stack && kindFailed k == some st))
    s.writeWhen (s.coreOn && ok) fun s => ((s.resetUnit k u).setReg (kindState k u) 0).bump E.rstDomainResets

end Sys2Proof.Machine
end

