-- ==== Sys2Proof/Machine/Writes.lean ====
section
/-! DEFINITION. What a write of an entry does once its role may make it and its type fits (R443, R445): each entry's own
rules, family by family. -/

namespace Sys2Proof.Machine

/-! ### Service procedures (R492) -/

/-- A write of FENCE. -/
def State.writeFence (s : State) (w : Nat) : State :=
  let u := w % 65536
  match kindOfCode (w / 2 ^ 24) with
  | some .bivouac => s.fenceBiv u
  | some .stack => s.fenceStack u
  | some .utxon => s.fenceUtxon u
  | some .host => s.fenceHost u
  | some .kettle => s.fenceCore u
  | some .slice => s.fenceSlice u
  | some k => s.fenceEngine k u
  | none => s.takeProc .bivouac u 0 false id

/-- A write of UNFENCE. -/
def State.writeUnfence (s : State) (w : Nat) : State :=
  let u := w % 65536
  match kindOfCode (w / 2 ^ 24) with
  | some .bivouac => s.unfenceBiv u
  | some .stack => s.unfenceStack u
  | some .utxon => s.unfencePort .utxon u
  | some .host => s.unfencePort .host u
  | some .kettle => s.unfenceCore u
  | some .slice => s.unfenceSlice u
  | some k => s.unfenceEngine k u
  | none => s.takeProc .bivouac u 0 false id

/-- A write of RETIRE of a stack (R193). -/
def State.writeRetireEntry (s : State) (st v : Nat) : State := if v = 32 then s.opStackRetire st else s.writeRetire st v

/-! ### Entries by family -/

/-- The entry holds what is written. -/
def State.keep (s : State) (idx sub v : Nat) : State := s.setReg (ekey idx sub) v

/-- Entries of the identity, management, security, clock, Campfire, power and reset indices. -/
def State.writeBase (s : State) (role : Role) (idx sub v : Nat) : State :=
  match idx, sub with
  | 0x1000, 0x22 => s.writeBoardNumber v
  | 0x1100, 0x01 => s.writeMac v
  | 0x1200, 0x02 => s.writeRevoke role v
  | 0x1203, c => s.writeSvnFloor role c v
  | 0x2010, 0x03 => s.writeTimeEnable v
  | 0x2010, 0x04 => s.writeMasterPos v
  | 0x2010, 0x05 => s.writeSwitchAt v
  | 0x2100, 0x01 => s.writeCoreEnable v
  | 0x2100, 0x04 => s.writeResetRequest role v
  | 0x2100, 0x08 => s.writeDomainReset v
  | 0x2101, 0x01 => s.writeStackEnable (BitVec.ofNat 16 v)
  | _, _ => s.keep idx sub v

/-- Entries of the stacks and of their protection (R193, R195). -/
def State.writeStacks (s : State) (idx sub v : Nat) : State :=
  if idx < 0x3400 then s.writeRetireEntry ((idx - 0x3000) / 16) v
  else
    match sub with
    | 0x01 => s.writeGroundsheet v
    | 0x07 => s.writeBudget E.eccRebuildSlots v
    | 0x10 => s.writeTestArm v
    | _ => s.keep idx sub v

/-- Entries of pitch p (R69, R99, R164, R265, R405). -/
def State.writePitch (s : State) (p sub v : Nat) : State :=
  match sub with
  | 0x01 =>
    match v with
    | 0 => s.revokePitch p
    | 1 => s.activatePitch p
    | 2 => s.quiescePitch p
    | _ => s.ignoreWrite
  | 0x02 => s.writeServing p v
  | 0x0C => if v = 1 then s.resetPitch p else s.ignoreWrite
  | 0x13 => s.writeBivAllow p v (s.reg (E.pitchBivAllowCount p))
  | 0x14 => s.writeBivAllow p (s.reg (E.pitchBivAllowFirst p)) v
  | 0x20 => s.writeXlateRoot p v
  | 0x21 => s.writeFaultBase p v
  | 0x23 => s.writeFaultHead p v
  | 0x31 => s.writeStileRange p v (s.reg (E.pitchStileCount p))
  | 0x32 => s.writeStileRange p (s.reg (E.pitchStileBase p)) v
  | 0x35 => s.writeReserved p v
  | _ => s.keep (0x4000 + p) sub v

/-- Entries of the Utxon and host ports (R377, R380). -/
def State.writePorts (s : State) (idx sub v : Nat) : State :=
  if 0x6400 ≤ idx then s.writeHostEnable ((idx - 0x6400) / 16) v
  else if idx = 0x6300 then s.keep idx sub v
  else
    match sub with
    | 0x02 => s.writeUtxonEnable ((idx - 0x6000) / 16) v
    | 0x18 => if v = 1 then s.keep idx sub 0 else s.ignoreWrite
    | _ => s.keep idx sub v

/-- Entries of the Trail (R402 to R404). -/
def State.writeTrail (s : State) (idx sub v : Nat) : State :=
  if idx = 0x6800 then (if sub = 3 then s.writeUrgentCap v else s.keep idx sub v)
  else if idx < 0x6840 then s.writeBudget (ekey idx sub) v
  else s.writeClearing (ekey idx sub) v

/-- Entries of firmware and of the engines' diagnostics (R434). -/
def State.writeKettle (s : State) (idx sub v : Nat) : State :=
  match idx, sub with
  | 0x7800, 4 => s.writeActivate v
  | 0x7800, 5 => s.writeRevert v
  | _, _ => s.keep idx sub v

/-- Entries of the directory (R132 to R135). -/
def State.writeDir (s : State) (idx sub v : Nat) : State :=
  if idx = 0x7C01 then s.writeAgent (.host (sub - 1)) v
  else if idx = 0x7C02 then s.writeAgent (.utxon (sub - 1)) v
  else if idx = 0x7C00 then (if sub = 6 then s.writeSuspect v else s.keep idx sub v)
  else s.writeClearing (ekey idx sub) v

/-- Entries of counters, log, trace, service, Stile and stop. -/
def State.writeUpper (s : State) (idx sub v : Nat) : State :=
  match idx, sub with
  | 0x8000, 0x02 => s.writeClearRange v
  | 0x8100, 0x03 => s.writeLogAck v
  | 0x8200, 0x01 => s.writeLantern v
  | 0x8200, 0x02 => s.keep idx sub (v % 256)
  | 0x9000, 0x01 => s.writeFence v
  | 0x9000, 0x02 => s.writeUnfence v
  | 0x9000, 0x07 => s.writeRecal v
  | 0x9010, 0x01 => s.writeAgentFence v
  | 0x9010, 0x02 => s.writeFenceDone v
  | 0x9010, 0x03 => s.writePeerFence v
  | 0x9400, 0x02 => s.writeDefaultLease v
  | 0x9400, 0x03 => s.writeLeaseMax v
  | 0x9400, 0x0C => s.writeBreak v
  | 0xA000, 0x02 => s.keep idx sub (v % 8)
  | 0xA000, 0x05 => s.writeStopNow v
  | 0xA000, 0x0A => s.writeStopClear v
  | 0xA000, 0x0B => s.writeResume v
  | _, _ => s.keep idx sub v

/-- Perform a write of a value in the range that its entry's table allows. -/
def State.putValue (s : State) (role : Role) (idx sub v : Nat) : State :=
  if idx < 0x3000 then s.writeBase role idx sub v
  else if idx < 0x4000 then s.writeStacks idx sub v
  else if idx < 0x5000 then s.writePitch (idx - 0x4000) sub v
  else if idx < 0x6800 then s.writePorts idx sub v
  else if idx < 0x7000 then s.writeTrail idx sub v
  else if idx < 0x7C00 then s.writeKettle idx sub v
  else if idx < 0x8000 then s.writeDir idx sub v
  else s.writeUpper idx sub v

/-- A write that its role may make: ignored where the type differs (R443), where a BOOL, an ENUM8 or a ranged entry does
not take the value, or where the entry's own rules refuse it. -/
def State.writeValue (s : State) (role : Role) (idx sub type v : Nat) : State :=
  match entryRow idx sub with
  | some r => s.writeWhen (type == r.ty && type != 9 && type != 10 && inRange v r.vmin r.vmax)
      fun s => s.putValue role idx sub v
  | none => s.ignoreWrite

/-- The whole block of a DOMAIN entry is written (R453). -/
def State.writeBlock (s : State) (idx sub : Nat) (b : List Byte) : State :=
  if 0x4000 ≤ idx ∧ idx < 0x5000 then
    match sub with
    | 0x10 => s.writeRingConfig (idx - 0x4000) b
    | 0x28 => s.writeXlateInval (idx - 0x4000) b
    | 0x36 => s.writeMeter (idx - 0x4000) true b
    | 0x37 => s.writeMeter (idx - 0x4000) false b
    | _ => s.ignoreWrite
  else if 0x6400 ≤ idx ∧ idx < 0x6440 then s.writeDecoder ((idx - 0x6400) / 16) (sub - 1) b
  else
    match idx, sub with
    | 0x6300, 1 => s.writeRoutes b
    | 0x7800, 3 => s.stageImage b
    | 0x8200, 4 => s.writeSamples b
    | _, _ => s.ignoreWrite

end Sys2Proof.Machine
end

