-- ==== Sys2Proof/Machine/Dap.lean ====
section
/-! DEFINITION. The dictionary server (R438 to R454, R457, R461): DAP bodies, rights, statuses, DOMAIN transfers, and
the answer of one request. -/

namespace Sys2Proof.Machine

/-! ### Requests (R448, R449) -/

/-- The items of a request. -/
inductive DapItems where
  | read (es : List Entry)
  | write (ws : List WriteItem)
  | domRead (e : Entry) (offset len : Nat)
  | domWrite (e : Entry) (offset : Nat) (last : Bool) (data : List Byte)
  | describe (es : List Entry)
  deriving DecidableEq, Repr

/-- Opcode of R449. -/
def DapItems.opcode : DapItems → Nat
  | .read _ => 1
  | .write _ => 2
  | .domRead .. => 3
  | .domWrite .. => 4
  | .describe _ => 5

/-- Greatest bytes of a request body, of a response body and of a DOMAIN segment on a path (R450). -/
def pathLimits : Path → Nat × Nat × Nat
  | .mgmt _ => (1500, 1500, 1024)
  | .window _ => (32704, 32768, 16384)
  | .mailbox _ => (1048576, 1048576, 524288)

/-- Bytes of a value of a type of fixed size (R439). -/
def typeBytes : Nat → Nat
  | 1 | 6 | 7 => 1
  | 2 => 2
  | 3 | 5 | 8 | 10 => 4
  | 4 => 8
  | _ => 0

/-- The item bytes with the zero bytes that fill a multiple of 4 B. -/
def padItem (b : List Byte) : List Byte := b ++ List.replicate ((4 - b.length % 4) % 4) 0

/-- INDEX and SUB, and the byte after them. -/
def itemHead (e : Entry) (b : Nat) : List Byte := leBytes 2 e.index ++ leBytes 1 e.sub ++ leBytes 1 b

/-- Padded size of a request item that carries `n` value bytes. -/
def paddedItem (n : Nat) : Nat := (4 + n + 3) / 4 * 4

/-- Value bytes that a WRITE item of a type carries; an STR gives its length in its first byte. -/
def writeBytes (type value : Nat) : Nat := if type = 9 then 1 + value % 256 else typeBytes type

/-- Size of the body of a request (R448, R449). -/
def DapItems.bodyBytes : DapItems → Nat
  | .read es | .describe es => 16 + 4 * es.length
  | .write ws => 16 + sumBy (fun w => paddedItem (writeBytes w.type w.value)) ws
  | .domRead .. => 28
  | .domWrite _ _ _ d => 28 + (d.length + 3) / 4 * 4

/-- Entries that a request names. -/
def DapItems.entries : DapItems → List Entry
  | .read es | .describe es => es
  | .write ws => ws.map fun w => w.entry
  | .domRead e _ _ | .domWrite e _ _ _ => [e]

/-- LEN of a DOMAIN request's segment. -/
def DapItems.segment : DapItems → Nat
  | .domRead _ _ n => n
  | .domWrite _ _ _ d => d.length
  | _ => 0

/-! ### Parsing (R448, R451) -/

/-- Read entries of 4 bytes. -/
def parseEntries : Nat → List Byte → Option (List Entry)
  | 0, b => if b = [] then some [] else none
  | n + 1, b =>
    if b.length < 4 then none
    else (parseEntries n (b.drop 4)).map fun es =>
      { index := leNat (b.take 2), sub := leNat ((b.drop 2).take 1) } :: es

/-- Read WRITE items; none where an item runs past the body or has a reserved type. -/
def parseWrites : Nat → List Byte → Option (List WriteItem)
  | 0, b => if b = [] then some [] else none
  | n + 1, b =>
    let type := leNat ((b.drop 3).take 1)
    let size := writeBytes type (leNat ((b.drop 4).take 1))
    if b.length < paddedItem size ∨ 11 ≤ type then none
    else (parseWrites n (b.drop (paddedItem size))).map fun ws =>
      { entry := { index := leNat (b.take 2), sub := leNat ((b.drop 2).take 1) }, type,
        value := leNat ((b.drop 4).take size) } :: ws

/-- The items that LENGTH bytes hold. -/
def parseItems (opcode n : Nat) (b : List Byte) : Option DapItems :=
  let e : Entry := { index := leNat (b.take 2), sub := leNat ((b.drop 2).take 1) }
  let off := leNat ((b.drop 4).take 4)
  let len := leNat ((b.drop 8).take 4)
  match opcode with
  | 1 => (parseEntries n b).map .read
  | 2 => (parseWrites n b).map .write
  | 3 => if n = 1 ∧ b.length = 12 then some (.domRead e off len) else none
  | 4 =>
    if n = 1 ∧ 12 ≤ b.length ∧ b.length = 12 + (len + 3) / 4 * 4 then
      some (.domWrite e off (leNat ((b.drop 3).take 1) % 2 == 1) ((b.drop 12).take len))
    else none
  | _ => (parseEntries n b).map .describe

/-- The status that a body meets before its items are looked at, or its items (R451). -/
def parseBody (path : Path) (body : List Byte) : Except Nat DapItems :=
  let h := fun i n => leNat ((body.drop i).take n)
  let op := h 1 1
  let length := h 6 2
  let n := h 8 2
  let (limit, _, seg) := pathLimits path
  if h 0 1 / 16 ≠ 1 then .error 1
  else if ¬ inRange op 1 5 ∨ (inRange op 3 4 ∧ 1 < n) then .error 3
  else if limit < 16 + length ∨ (inRange op 3 4 ∧ 12 ≤ length ∧ seg < h 24 4) then .error 4
  else if body.length < 16 + length then .error 2
  else match parseItems op n ((body.drop 16).take length) with
    | some items => .ok items
    | none => .error 2

/-! ### Reading (R439, R442) -/

/-- Type code of an entry; 0 for none. -/
def typeOf (idx sub : Nat) : Nat :=
  if sub = 0 then (if rowsOf idx = [] then 0 else 1) else (entryRow idx sub).elim 0 ERow.ty

/-- The value bytes of a READ of an entry that the role may read. -/
def State.readBytes (s : State) (idx sub : Nat) : List Byte :=
  match typeOf idx sub with
  | 9 => let t := textOf sub; leBytes 1 t.length ++ t
  | 10 => leBytes 4 (s.blockSize idx sub)
  | ty => leBytes (typeBytes ty) (s.value idx sub)

/-- Zero in a type. -/
def zeroBytes (ty : Nat) : List Byte := leBytes (if ty = 9 then 1 else typeBytes ty) 0

/-- Count a violation of the dictionary (R442). -/
def State.denied (s : State) : State := s.bump E.violDictDenied

/-- The response item of a READ, and the state after it. -/
def State.readItem (s : State) (role : Role) (e : Entry) : State × List Byte :=
  let ty := typeOf e.index e.sub
  let item := fun b => padItem (itemHead e ty ++ b)
  if mayRead role e.index e.sub then (s, item (s.readBytes e.index e.sub))
  else if mayWrite role e.index e.sub then (s, item (zeroBytes ty))
  else (s.denied, item (zeroBytes ty))

/-- Perform READ items in order. -/
def State.readItems (s : State) (role : Role) : List Entry → State × List Byte
  | [] => (s, [])
  | e :: es =>
    let (s, b) := s.readItem role e
    let (s, bs) := s.readItems role es
    (s, b ++ bs)

/-- Perform a WRITE item. -/
def State.writeItem (s : State) (role : Role) (w : WriteItem) : State :=
  if mayWrite role w.entry.index w.entry.sub then s.writeValue role w.entry.index w.entry.sub w.type w.value
  else s.denied

/-- The response item of a DESCRIBE (R449). -/
def describeItem (e : Entry) : List Byte :=
  let ty := typeOf e.index e.sub
  let size := if ty = 9 ∨ ty = 10 then (entryRow e.index e.sub).elim 0 ERow.vmax
    else typeBytes ty
  itemHead e ty ++ leBytes 1 (accessOf? e.index e.sub) ++ leBytes 3 0 ++ leBytes 4 size

/-! ### DOMAIN transfers (R452 to R454) -/

/-- The snapshot of a path and entry. -/
def State.snapshot (s : State) (p : Path) (e : Entry) : Option Snapshot :=
  s.dict.snapshots.find? fun x => x.path == p && x.entry == e

/-- Drop the snapshot of a path and entry. -/
def State.dropSnapshot (s : State) (p : Path) (e : Entry) : State :=
  { s with dict := { s.dict with snapshots := s.dict.snapshots.filter fun x => !(x.path == p && x.entry == e) } }

/-- The segment of a DOMAIN_READ: the data and END. -/
def State.domSegment (s : State) (p : Path) (role : Role) (e : Entry) (off len : Nat) : State × List Byte × Bool :=
  if ¬ mayRead role e.index e.sub then
    let s := if mayWrite role e.index e.sub then s else s.denied
    (s, List.replicate len 0, true)
  else if typeOf e.index e.sub ≠ 10 then (s, [], true)
  else
    let (s, block) : State × List Byte :=
      match (if off = 0 then none else s.snapshot p e) with
      | some x => (s, x.data)
      | none => s.takeBlock e.index e.sub
    let data := (block.drop off).take len
    let done := decide (block.length ≤ off + len)
    let kept := (s.snapshot p e).isSome
    let s := if off = 0 ∨ done then s.dropSnapshot p e else s
    let s := if !done && (off == 0 || kept) then
        (if off = 0 then { s with dict := { s.dict with
          snapshots := s.dict.snapshots ++ [{ path := p, entry := e, data := block }] } } else s)
      else s
    (s, data, done)

/-- The open transfer of a path and entry. -/
def State.transfer (s : State) (p : Path) (e : Entry) : Option Transfer :=
  s.dict.transfers.find? fun x => x.path == p && x.entry == e

/-- Drop the open transfer of a path and entry. -/
def State.dropTransfer (s : State) (p : Path) (e : Entry) : State :=
  { s with dict := { s.dict with transfers := s.dict.transfers.filter fun x => !(x.path == p && x.entry == e) } }

/-- A segment of STAGE_IMAGE meets another transfer in progress (R413, R453). -/
def State.secondImage (s : State) (p : Path) (e : Entry) : Bool :=
  e.index == 0x7800 && e.sub == 3 && (s.kettle.xfer.isSome || s.kettle.checking.isSome ||
    s.dict.transfers.any fun x => x.entry == e && x.path != p)

/-- A transfer closes, or goes on with the bytes received. -/
def State.segmentIn (s : State) (p : Path) (e : Entry) (data : List Byte) (last : Bool) : State :=
  let s := s.dropTransfer p e
  if last then
    s.writeWhen (decide (data.length ≤ (entryRow e.index e.sub).elim 0 ERow.vmax)) fun s => s.writeBlock e.index e.sub data
  else { s with dict := { s.dict with transfers := s.dict.transfers ++ [{ path := p, entry := e, data }] } }

/-- A segment of a DOMAIN_WRITE; none where its OFFSET is not the bytes received so far (R453). -/
def State.domWriteSegment (s : State) (p : Path) (role : Role) (e : Entry) (off : Nat) (last : Bool)
    (data : List Byte) : Option State :=
  if ¬ mayWrite role e.index e.sub then some s.denied
  else if typeOf e.index e.sub ≠ 10 ∨ s.secondImage p e then some s.ignoreWrite
  else if off = 0 then
    let s := s.dropTransfer p e
    if 16 ≤ s.dict.transfers.length then some s.ignoreWrite else some (s.segmentIn p e data last)
  else
    match s.transfer p e with
    | some x => if x.data.length = off then some (s.segmentIn p e (x.data ++ data) last) else none
    | none => none

/-- DOMAIN_TIMEOUT_MS has passed without a segment (R453, R454). -/
def State.opDomainTimeout (s : State) (p : Path) (e : Entry) : State :=
  if s.running ∧ ((s.transfer p e).isSome ∨ (s.snapshot p e).isSome) then
    ((s.dropTransfer p e).dropSnapshot p e).bump E.mgmtDomainTimeouts
  else s

/-! ### Serving a request (R445, R448, R451) -/

/-- A response body. -/
def dapResponse (opcode seq status items : Nat) (b : List Byte) : List Byte :=
  leBytes 1 0x10 ++ leBytes 1 opcode ++ leBytes 2 seq ++ leBytes 1 status ++ leBytes 1 1 ++ leBytes 2 b.length ++
    leBytes 2 items ++ leBytes 6 0 ++ b

/-- The items of a request are performed in order; a status, and the response items. -/
def State.perform (s : State) (p : Path) (role : Role) (items : DapItems) : State × Nat × Nat × List Byte :=
  match items with
  | .read es =>
    let (s', b) := s.readItems role es
    if (pathLimits p).2.1 < 16 + b.length then (s, 4, 0, []) else (s', 0, es.length, b)
  | .write ws => (ws.foldl (fun s w => s.writeItem role w) s, 0, ws.length, [])
  | .domRead e off len =>
    let (s, data, done) := s.domSegment p role e off len
    (s, 0, 1, padItem (itemHead e (b2n done) ++ leBytes 4 off ++ leBytes 4 data.length ++ data))
  | .domWrite e off last data =>
    match s.domWriteSegment p role e off last data with
    | some s => (s, 0, 1, itemHead e (b2n last) ++ leBytes 4 (off + data.length) ++ leBytes 4 0)
    | none => (s.dropTransfer p e, 6, 0, [])
  | .describe es =>
    let b := es.flatMap describeItem
    if (pathLimits p).2.1 < 16 + b.length then (s, 4, 0, []) else (s, 0, es.length, b)

/-- Every existing entry that a request names is served (R446). -/
def State.servesAll (s : State) (es : List Entry) : Bool :=
  es.all fun e => !entryExists e.index e.sub || s.servesEntry e.index e.sub

/-- A request whose items have been delimited is answered. -/
def State.serveItems (s : State) (p : Path) (role : Role) (seq : Nat) (items : DapItems) : State × List Byte :=
  let s := s.bump E.mgmtRequests
  if s.servesAll items.entries then
    let (s, st, n, b) := s.perform p role items
    (s, dapResponse items.opcode seq st n b)
  else (s, dapResponse items.opcode seq 5 0 [])

/-- A request body is answered. -/
def State.serveBody (s : State) (p : Path) (role : Role) (body : List Byte) : State × List Byte :=
  let op := leNat ((body.drop 1).take 1)
  let seq := leNat ((body.drop 2).take 2)
  match parseBody p body with
  | .error st => (s.bump E.mgmtRequests, dapResponse op seq st 0 [])
  | .ok items => s.serveItems p role seq items

/-- A request given by its items: the limits of its path come first (R450, R451). -/
def State.serveRequest (s : State) (p : Path) (role : Role) (seq : Nat) (items : DapItems) : State × List Byte :=
  let (limit, _, seg) := pathLimits p
  if limit < items.bodyBytes ∨ seg < items.segment then
    (s.bump E.mgmtRequests, dapResponse items.opcode seq 4 0 [])
  else
    let reserved := match items with
      | .write ws => ws.any fun w => decide (11 ≤ w.type)
      | _ => false
    if reserved then (s.bump E.mgmtRequests, dapResponse items.opcode seq 2 0 []) else s.serveItems p role seq items

/-! ### Effects that wait for their response (R464, R477) -/

/-- The response has been sent: a new MAC_ADDRESS applies, and a requested reset begins. -/
def State.afterResponse (s : State) : State :=
  let s := match s.dict.macPending with
    | some m => { s.setReg E.mgmtMacAddress m with dict := { s.dict with macPending := none } }
    | none => s
  s.fireReset

/-- Effects wait for a response. -/
def State.owes (s : State) : Bool := s.dict.macPending.isSome || s.dict.resetPending.isSome

end Sys2Proof.Machine
end

