-- ==== Sys2Proof/Machine/Paths.lean ====
section
/-! DEFINITION. The paths of the dictionary: the management port (R455 to R457), and the slots of the dictionary window
(R458 to R460). -/

namespace Sys2Proof.Machine

/-- Requests are held while a management core takes over (R414, R444). -/
def State.dictHeld (s : State) : Bool := s.reg E.mgmtDictServer == 3

/-- Hold a request or a mailbox command until the takeover ends. -/
def State.hold (s : State) (c : Instr) : State := { s with dict := { s.dict with held := s.dict.held ++ [c] } }

/-! ### The management port -/

/-- The broadcast address. -/
def broadcast : Nat := 0xFFFFFFFFFFFF

/-- Queue a response for a transmit opportunity. -/
def State.queueFrame (s : State) (dst : Nat) (body : List Byte) : State :=
  { s with dict := { s.dict with txq := s.dict.txq ++ [{ dst, body, fires := s.owes }] } }

/-- Answer an accepted frame: from the reply cache, or by performing it (R457). -/
def State.answerFrame (s : State) (f : EthFrame) : State :=
  let key := (f.src, leNat ((f.body.drop 2).take 2))
  match s.dict.replies.find? fun r => r.1 == key with
  | some r =>
    let replies := r :: s.dict.replies.filter fun x => x.1 != key
    (({ s with dict := { s.dict with replies } }.bump E.mgmtReplyCacheHits).bump E.mgmtRequests).queueFrame f.src r.2
  | none =>
    let (s, b) := s.serveBody (.mgmt f.src) .bm f.body
    ({ s with dict := { s.dict with replies := ((key, b) :: s.dict.replies).take 16 } }).queueFrame f.src b

/-- A frame is addressed to the device: its own address, or the broadcast address (R456). -/
def State.addressed (s : State) (f : EthFrame) : Bool := f.dst == s.reg E.mgmtMacAddress || f.dst == broadcast

/-- The device accepts a frame whose FCS is good (R25, R456). -/
def State.accepts (s : State) (f : EthFrame) : Bool :=
  let op := leNat ((f.body.drop 1).take 1)
  (f.dst == s.reg E.mgmtMacAddress || (f.dst == broadcast && (op == 1 || op == 5))) && f.etherType == 0x88B5 &&
    !f.vlan && decide (f.body.length ≤ 1500) && s.reg E.idPlcaId != 0

/-- MGMT_FRAME: a frame arrives on the management port. -/
def State.opMgmtFrame (s : State) (f : EthFrame) : State :=
  if ¬ s.dictUp then s
  else if ¬ f.fcsOk then s.bump E.mgmtFcsErrors
  else if s.accepts f then
    let s := s.bump E.mgmtFramesRx
    if s.dictHeld then s.hold (.mgmtFrame f) else s.answerFrame f
  else if s.addressed f then s.bump E.mgmtFramesDiscarded
  else s

/-- Send up to `n` queued frames; an effect that waited for one begins when it has been sent. -/
def State.sendFrames : Nat → State → State
  | 0, s => s
  | n + 1, s =>
    match s.dict.txq with
    | [] => s
    | m :: rest =>
      let s := ({ s with dict := { s.dict with txq := rest } }.emit (.mgmt m.dst m.body)).bump E.mgmtFramesTx
      sendFrames n (if m.fires then s.afterResponse else s)

/-- TRANSMIT_OPPORTUNITY: one frame, and up to PLCA_BURST_COUNT more (R455, R464). -/
def State.opTransmit (s : State) : State :=
  if s.dictUp ∧ s.reg E.mgmtPlcaStatus = 2 then s.sendFrames (1 + s.reg E.mgmtPlcaBurstCount) else s

/-- PLCA_BEACON_RECEIVED. -/
def State.opBeacon (s : State) : State :=
  if s.dictUp ∧ s.reg E.mgmtPlcaStatus = 1 then s.setReg E.mgmtPlcaStatus 2 else s

/-- PLCA_BEACON_LOSS. -/
def State.opBeaconLoss (s : State) : State :=
  if s.dictUp ∧ s.reg E.mgmtPlcaStatus = 2 then (s.setReg E.mgmtPlcaStatus 1).bump E.mgmtBeaconLosses else s

/-! ### Slots -/

/-- Control and status of a slot. -/
def State.slot (s : State) (i : Nat) : Slot := SMap.get (fun _ => { doneSeq := 0, busy := false, done := false }) s.dict.slots i

/-- Set the control and status of a slot. -/
def State.setSlotCtl (s : State) (i : Nat) (x : Slot) : State :=
  { s with dict := { s.dict with
    slots := SMap.set (fun _ => { doneSeq := 0, busy := false, done := false }) s.dict.slots i x } }

/-- Bytes of a slot's storage. -/
def State.slotBytes (s : State) (i off n : Nat) : List Byte :=
  (List.range n).map fun b => SMap.get (fun _ => 0) s.dict.sram (65536 * i + off + b)

/-- Store bytes into a slot's storage. -/
def State.putSlotBytes (s : State) (i off : Nat) (bs : List Byte) : State :=
  { s with dict := { s.dict with
    sram := bs.zipIdx.foldl (fun m x => SMap.set (fun _ => 0) m (65536 * i + off + x.2) x.1) s.dict.sram } }

/-- A line of a slot: CONTROL reads zero, and STATUS holds DONE_SEQ, BUSY and DONE (R459). -/
def State.slotLine (s : State) (i off : Nat) : Line :=
  if off = 0 then
    let x := s.slot i
    lineOfWords [0, packWord [(0, x.doneSeq), (32, b2n x.busy), (33, b2n x.done)]]
  else lineOfBytes (s.slotBytes i off 64)

/-- The role in which a GO write of a slot acts, where its check passes (R440). -/
def State.slotRole (s : State) (i : Nat) (port : Port) (pitch : Nat) : Option Role :=
  if i < 4 then (if port = .host i then some .hd else none)
  else if i < 8 then (if pitch = 0 then some .fm else none)
  else if pitch ≠ 0 ∧ inRange (s.reg (E.pitchState pitch)) 1 3 then some (.po pitch)
  else none

/-- The server takes the request of a slot, and writes its response (R460). -/
def State.answerSlot (s : State) (i seq : Nat) (role : Role) : State :=
  let n := leNat (s.slotBytes i 0x46 2)
  let (s, b) := s.serveBody (.window i) role (s.slotBytes i 0x40 (min 32704 (16 + n)))
  let s := (s.putSlotBytes i 0x8000 b).setSlotCtl i { doneSeq := seq, busy := false, done := true }
  if s.owes then s.afterResponse else s

/-- Number of the slot that an address names. -/
def slotOfAddr (addr : Nat) : Nat := bits addr 21 16

/-- The server takes up a GO write that has passed its slot's check (R440, R460). -/
def State.performGo (s : State) (r : Req) : State :=
  let i := slotOfAddr r.addr
  s.answerSlot i (takeBytes r.data 0 4) (if i < 4 then .hd else if i < 8 then .fm else .po r.pitch)

/-- A store to CONTROL (R460). -/
def State.slotControl (s : State) (r : Req) : State :=
  let i := slotOfAddr r.addr
  let w := takeBytes r.data 0 8
  let x := s.slot i
  let seq := w % 2 ^ 32
  if ¬ bitOf w 32 then s
  else if x.busy then s.bump E.mgmtSlotBusy
  else if (s.slotRole i r.port r.pitch).isNone then s.bump E.violDictSlotRole
  else if x.done ∧ x.doneSeq = seq then s
  else
    let s := s.setSlotCtl i { x with busy := true, done := false }
    if s.dictHeld then s.hold (.windowGo r) else s.performGo r

/-- A store to a slot (R459): CONTROL takes bytes 0 to 7 alone, and the request body takes stores while BUSY = 0. -/
def State.slotStore (s : State) (op : Nat) (r : Req) : State :=
  let i := slotOfAddr r.addr
  let off := bits r.addr 15 6 * 64
  let mask := if op = 5 then fullMask else r.mask
  if off = 0 then (if op = 6 ∧ r.mask = 0xFF then s.slotControl r else s)
  else if 0x8000 ≤ off ∨ (s.slot i).busy then s
  else s.putSlotBytes i off (lineBytes (mergeLine mask r.data (s.slotLine i off)))

/-- A request to a slot (R458): a read is answered DATA_NC and a write ACK, the GO write before what it starts; an
atomic is not performed (R149), and any other request changes nothing. -/
def State.slotServe (s : State) (op : Nat) (r : Req) (slice : Nat) : State :=
  let rep := plainReply s op r r.prio .green
  if op = 1 ∨ op = 2 ∨ op = 3 then
    s.respond rep 0 0 (s.slotLine (slotOfAddr r.addr) (bits r.addr 15 6 * 64)) none
  else if op = 5 ∨ op = 6 then (s.respond rep 0 0 0 none).slotStore op r
  else if isAtomic op then (s.bump (E.sliceProtocolErrors slice)).respond rep 0 0 0 (some (0, 0))
  else s.respond { rep with opcode := 0x3C } 0 0 0 none

end Sys2Proof.Machine
end

