-- ==== Sys2Proof/Machine/Arrive.lean ====
section
/-! DEFINITION. Arrival: agent requests on the ports (R34, R59, R391, R458), messages and frames of the Utxon links (R112,
R355 to R363), and what fenced agents and peers send (R508, R509). -/

namespace Sys2Proof.Machine

/-! ### Requests -/

/-- A request opcode of R112: reads, writes, RELEASE, atomics and Stile operations. -/
def isRequest (op : Nat) : Bool := inRange op 1 6 || op == 8 || isAtomic op

/-- A flit arrives on a host port: a message of this model is one flit (R380). -/
def State.countFlit (s : State) (p : Port) : State :=
  match p with
  | .host n => if s.coreOn ∧ s.portUp p then s.bump (E.hostFlitsRx n) else s
  | .utxon _ => s

/-- The address names a dictionary slot of this device. -/
def State.slotAddr (s : State) (addr : Nat) : Bool :=
  bits addr 51 42 == s.deviceNumber && targetOf (bits addr 41 0) == .slots

/-- A request in the terms of R111: the dictionary slots take it without metering, and admission any other (R34 steps 1
to 3, R391, R458). -/
def State.admitMapped (s : State) (op : Nat) (r : Req) : State :=
  let w := s.newWork op r
  let s := { s with dir := { s.dir with nextAge := s.dir.nextAge + 1 } }
  if 2 ^ 52 ≤ r.addr then s.violation E.violUnroutable op r
  else if s.fencedSource w.src then s.violation E.violFencedSource op r
  else if s.slotAddr r.addr then s.slotServe op r (s.countSlice (homeSlice (bits r.addr 41 6)))
  else s.admitWork w

/-- An agent request arrives on a port; on a host port a decoder maps it first (R373). -/
def State.arrive (s : State) (op : Nat) (r : Req) : State :=
  if ¬ (s.coreOn ∧ s.portUp r.port) then s
  else match s.hostMap r with
    | none => s
    | some r => (s.admitMapped op r).sweepHeld

/-- An opcode that R112 does not list. -/
def reservedOpcode (op : Nat) : Bool :=
  !(isRequest op || op == 7 || inRange op 0x20 0x22 || inRange op 0x30 0x36 || inRange op 0x38 0x3D)

/-- A message with a reserved opcode is discarded without a response, and counted (R112, R153). -/
def State.discardReserved (s : State) (r : Req) : State :=
  let off := bits r.addr 41 0
  if bits r.addr 51 42 = s.deviceNumber ∧ targetOf off = .stile then s.bump E.stileStileErrors
  else s.bump (E.sliceProtocolErrors (s.countSlice (homeSlice (off / 64))))

/-- RESERVED_OPCODE_MESSAGE. -/
def State.opReserved (s : State) (r : Req) (op : Nat) : State :=
  if s.coreOn ∧ s.portUp r.port ∧ reservedOpcode op then (s.countFlit r.port).discardReserved r else s

/-! ### Messages on a Utxon link -/

/-- The kind of a snoop response. -/
def snpKindOf (op : Nat) : SnpKind :=
  [SnpKind.notPresent, .rspI, .rspS, .rspKeep, .rspIData, .rspSData, .rspKeepData].getD (op - 0x30) .notPresent

/-- A message does what its opcode says; a snoop finds no copy to give up, since the device caches nothing for
others. -/
def State.deliver (s : State) (n : Nat) (m : WireMsg) : State :=
  let r := { m.req with port := Port.utxon n }
  let op := m.opcode
  if isRequest op then s.arrive op r
  else if op = 7 then s.opWriteback r
  else if inRange op 0x30 0x36 then s.opSnpRsp (snpKindOf op) { port := r.port, tag := r.tag, data := r.data }
  else if inRange op 0x38 0x3D then
    s.opRsp op { port := r.port, tag := r.tag, status := m.status, load := m.load, retryAfter := m.retryAfter,
                 data := r.data, resLo := m.resLo, resHi := m.resHi }
  else if reservedOpcode op then s.discardReserved r
  else s

/-- Credits that a received message uses (R359); an ACK is 32 B when it answers an atomic. -/
def State.creditsOf (s : State) (n : Nat) (m : WireMsg) : Nat :=
  let result := m.opcode == 0x3C && s.port.fwds.any fun f => f.port == n && f.tag == m.req.tag && isAtomic f.work.op
  cdiv (msgBytes m.opcode result) 16

/-- A message of an accepted frame enters the receive buffer and is delivered, or is discarded for want of credits
(R360, R361). -/
def State.receive (s : State) (n vc : Nat) (m : WireMsg) : State :=
  let c := s.creditsOf n m
  if 3 ≤ vc ∨ ¬ (s.link n).creditsFor vc c then s.creditOverrun n
  else (s.holdMsg n vc c s.dir.nextAge).deliver n m

/-- A port whose partner stands at a fenced position (R509). -/
def State.fromFencedPeer (s : State) (n : Nat) : Bool :=
  (List.range 8).any fun j => bitOf (s.reg E.fencePeerFence) j && s.partnerAt n j

/-- A sequenced frame arrives: discarded from a fenced peer, and otherwise taken in order (R363, R509). -/
def State.opFrame (s : State) (n : Nat) (h : FrameHdr) (ms : List WireMsg) : State :=
  if 24 ≤ n ∨ ¬ s.coreOn then s
  else if s.fromFencedPeer n then
    s.bumpBy E.violFencedSource (ms.filter fun m => isRequest m.opcode).length
  else if ¬ s.portUp (.utxon n) then s
  else
    let (s, ok) := s.takeFrame n h
    if ok then
      let s := ms.foldl (fun s m => if s.portUp (.utxon n) then s.receive n h.vc m else s) s
      (s.sweepHeld.ackMany n).pumpConflicts
    else s

/-- A frame whose LEN does not match its contents (R355). -/
def badCount (ms : Nat) (greatest : Nat) : Bool := ms == 0 || decide (greatest < ms)

/-- MSG: 1 to 6 full-form messages. -/
def State.opMsg (s : State) (n : Nat) (h : FrameHdr) (ms : List WireMsg) : State :=
  if badCount ms.length 6 then s.opBadFrame n .wrongLength else s.opFrame n h ms

/-- The R111 message of a compact data response (R356). -/
def compactFull (n : Nat) (m : CompactMsg) : WireMsg :=
  { opcode := m.opcode, status := m.status, load := m.load,
    req := { port := .utxon n, addr := 0, tag := m.tag, prio := m.prio, data := m.data } }

/-- MSG_C: 1 to 7 compact data responses. -/
def State.opMsgC (s : State) (n : Nat) (h : FrameHdr) (ms : List CompactMsg) : State :=
  if badCount ms.length 7 ∨ ms.any (fun m => !inRange m.opcode 0x38 0x3A) then s.opBadFrame n .wrongLength
  else s.opFrame n h (ms.map (compactFull n))

end Sys2Proof.Machine
end

