-- ==== Sys2Proof/Machine/Mailbox.lean ====
section
/-! DEFINITION. The CXL mailbox of a host port (R376, R461, R481), the transfer and activation of images over it (R413),
and the firmware messages it carries (R417 to R420, R437). -/

namespace Sys2Proof.Machine

/-! ### Return codes -/

/-- Return codes of the CXL mailbox; their numbers are PRESUMED from CXL 3.1. -/
inductive MboxCode where
  | success
  | invalidInput
  | unsupported
  | busy
  | outOfOrder
  | invalidSlot
  | activationFailed
  | invalidHandle
  deriving DecidableEq, Repr

/-- The number of a return code. -/
def MboxCode.num : MboxCode → Nat
  | .success => 0
  | .invalidInput => 2
  | .unsupported => 3
  | .busy => 6
  | .outOfOrder => 9
  | .invalidSlot => 0x0B
  | .activationFailed => 0x0C
  | .invalidHandle => 0x0E

/-- Answer a mailbox command. -/
def State.mboxReply (s : State) (n : Nat) (c : MboxCode) (payload : List Byte) : State :=
  s.emit (.mailbox n c.num payload)

/-- The answer of a command without an output payload. -/
def State.mboxEnd (s : State) (n : Nat) (c : MboxCode) : State := s.mboxReply n c []

/-! ### Arrival of a command -/

/-- A mailbox command is held during a takeover, answered Busy where Ember serves and does not answer it, and otherwise
performed (R376, R414, R481). -/
def State.mailboxCmd (s : State) (n : Nat) (ember : Bool) (c : Instr) (f : State → State) : State :=
  if ¬ (s.dictUp ∧ n < 4 ∧ s.portServes (.host n)) then s
  else
    let s := s.bump (E.hostMailboxCommands n)
    if s.dictHeld then s.hold c
    else if s.mgmtServes ∨ ember then f s
    else s.mboxEnd n .busy

/-! ### Events and logs (R520, R521) -/

/-- GET_EVENT_RECORDS: the unacknowledged entries, oldest first. -/
def State.mboxGetEvents (s : State) (n : Nat) : State :=
  s.mboxReply n .success (s.unacked.flatMap fun q => bytesOfWords (s.logEntry q))

/-- The SEQ of the unacknowledged entry that a handle names. -/
def State.handleSeq (s : State) (h : Nat) : Option Nat := s.unacked.find? fun q => q % 65536 == h

/-- CLEAR_EVENT_RECORDS. -/
def State.mboxClearEvents (s : State) (n : Nat) (all : Bool) (handles : List Nat) : State :=
  if all then (s.setReg E.logLogAck (s.reg E.logLogNextSeq)).mboxEnd n .success
  else
    let seqs := handles.map s.handleSeq
    if seqs.any Option.isNone then s.mboxEnd n .invalidHandle
    else
      let ack := s.reg E.logLogAck
      match argMax (fun q => seqSub 32 q ack) (seqs.filterMap id) with
      | some q => (s.setReg E.logLogAck ((q + 1) % 2 ^ 32)).mboxEnd n .success
      | none => s.mboxEnd n .success

/-- GET_LOG: LOG whole. -/
def State.mboxGetLog (s : State) (n : Nat) : State := s.mboxReply n .success s.logBlock

/-- GET_SUPPORTED_LOGS: the layout of its answer is not given; it is free. -/
def State.mboxLogs (s : State) (n : Nat) : State :=
  let (draw, s) := s.drawFree
  s.mboxReply n .success (Config.freeBytes draw 0)

/-! ### Images (R413) -/

/-- GET_FW_INFO: 3 slots and the ACTIVE IMAGE_VERSION of each. -/
def State.mboxFwInfo (s : State) (n : Nat) : State :=
  s.mboxReply n .success (leBytes 1 3 ++ [1, 2, 3].flatMap fun c => leBytes 4 (s.reg (E.imageActiveVersion c)))

/-- TRANSFER_FW: a part of an image for the class that the slot names. -/
def State.mboxTransfer (s : State) (n : Nat) (p : FwPart) : State :=
  let go := fun (s : State) (data : List Byte) =>
    if p.last then (s.closeImage p.slot data).mboxEnd n .success
    else ({ s with kettle := { s.kettle with xfer := some { cls := p.slot, port := n, data } } }).mboxEnd n .success
  if ¬ inRange p.slot 1 3 then s.mboxEnd n .invalidSlot
  else if p.first then
    if s.transferring then s.mboxEnd n .busy
    else if p.offset ≠ 0 then s.mboxEnd n .outOfOrder
    else go s p.data
  else
    match s.kettle.xfer with
    | some x =>
      if x.port ≠ n ∨ x.cls ≠ p.slot then s.mboxEnd n .busy
      else if x.data.length ≠ p.offset then s.mboxEnd n .outOfOrder
      else go s (x.data ++ p.data)
    | none => s.mboxEnd n (if s.transferring then .busy else .outOfOrder)

/-- ACTIVATE_FW: online only, for a class whose inactive half is VERIFIED. -/
def State.mboxActivate (s : State) (n slot : Nat) (online : Bool) : State :=
  if ¬ online then s.mboxEnd n .unsupported
  else if ¬ inRange slot 1 3 ∨ s.reg (E.imageInactiveState slot) ≠ 1 then s.mboxEnd n .invalidSlot
  else
    let s' := s.activateSet [slot]
    s'.mboxEnd n (if s'.reg E.kettleLoadResult = 3 then .activationFailed else .success)

/-! ### The device (R376) -/

/-- GET_TIMESTAMP: the Campfire count in ns, of which a tick is 1.25. -/
def State.mboxTimestamp (s : State) (n : Nat) : State := s.mboxReply n .success (leBytes 8 (s.now * 5 / 4))

/-- SET_TIMESTAMP: accepted and ignored. -/
def State.mboxSetTimestamp (s : State) (n _value : Nat) : State := s.mboxEnd n .success

/-- IDENTIFY_MEMORY_DEVICE: 1 TiB of volatile capacity and no persistent capacity. -/
def State.mboxIdentify (s : State) (n : Nat) : State := s.mboxReply n .success (leBytes 8 (2 ^ 40) ++ leBytes 8 0)

/-- GET_HEALTH_INFO: taken from the stack and thermal entries in a layout that is not given; it is free. -/
def State.mboxHealth (s : State) (n : Nat) : State :=
  let (draw, s) := s.drawFree
  s.mboxReply n .success (Config.freeBytes draw 1)

/-- DICT_ACCESS (R461). -/
def State.mboxDict (s : State) (n : Nat) (payload : List Byte) : State :=
  if payload.length < 16 then s.mboxEnd n .invalidInput
  else
    let (s, b) := s.serveBody (.mailbox n) .hd payload
    let s := s.mboxReply n .success b
    if s.owes then s.afterResponse else s

/-- Any other command. -/
def State.mboxUnsupported (s : State) (n _opcode : Nat) : State := s.mboxEnd n .unsupported

/-! ### Firmware messages (R417 to R420) -/

/-- A reply: the header of the request with its version, SEQ and type, a STATUS and a body. -/
def State.fwReply (s : State) (n status : Nat) (m : FwMsg) (body : List Byte) : State :=
  s.emit (.firmware n status { m with body })

/-- HELLO: the host's versions meet those of the active MGMT image. -/
def State.fwHello (s : State) (n : Nat) (m : FwMsg) : State :=
  let img := (s.halves 1).active
  if m.body.length ≠ 16 then s.fwReply n 3 m []
  else
    match negotiated (versionList m.body 0) (versionList img 12) with
    | some (major, minor) =>
      (s.setReg (E.kettleHostMsgVersion n) (major * 256 + minor)).fwReply n 0 { m with major, minor }
        ((img.drop 96).take 16)
    | none => (s.setReg (E.kettleHostMsgVersion n) 0).fwReply n 2 m []

/-- A message after HELLO carries the chosen version, or is answered VERSION_MISMATCH (R418, R419). -/
def State.fwChecked (s : State) (n : Nat) (m : FwMsg) (f : State → State) : State :=
  let v := s.reg (E.kettleHostMsgVersion n)
  if v ≠ 0 ∧ v = m.major * 256 + m.minor then f s else s.fwReply n 1 m []

/-- CORE_STATUS: 8 records of 16 B (R437). -/
def State.fwCoreStatus (s : State) (n : Nat) (m : FwMsg) : State :=
  s.fwChecked n m fun s => s.fwReply n 0 m ((List.range 8).flatMap fun k =>
    leBytes 1 (s.core k) ++ leBytes 1 (s.reg (E.coreRole k)) ++ leBytes 6 0 ++ leBytes 8 (s.reg (E.coreWatchdogResets k)))

/-- CORE_RESTART: a running core of 2 to 7 reloads (R415), without counting towards PERSIST_LIMIT. -/
def State.fwRestart (s : State) (n : Nat) (m : FwMsg) : State :=
  s.fwChecked n m fun s =>
    let k := leNat (m.body.take 1)
    if m.body = [] ∨ ¬ inRange k 2 7 then s.fwReply n 3 m []
    else if s.core k ≠ 2 then s.fwReply n 4 m []
    else (s.reloadCore k).fwReply n 0 m []

/-- GROUP_LIST: 32 B for each group in use. -/
def State.fwGroups (s : State) (n : Nat) (m : FwMsg) : State :=
  s.fwChecked n m fun s => s.fwReply n 0 m (s.eng.groups.flatMap fun e =>
    leBytes 8 e.2.groupId ++ leBytes 2 e.2.pitch ++ leBytes 2 e.2.members.length ++ leBytes 4 e.2.core ++
      leBytes 8 e.2.started ++ leBytes 8 0)

/-- KETTLE_MSG: the message by its type; a type not listed is answered BAD_MESSAGE. -/
def State.fwMessage (s : State) (n : Nat) (m : FwMsg) : State :=
  match m.msgType with
  | 0x0001 => s.fwHello n m
  | 0x0010 => s.fwCoreStatus n m
  | 0x0011 => s.fwRestart n m
  | 0x0020 => s.fwGroups n m
  | _ => s.fwChecked n m fun s => s.fwReply n 3 m []

/-! ### Requests that were held (R414) -/

/-- Perform a request or command that was held. -/
def State.performHeld (s : State) (c : Instr) : State :=
  let emit := fun (p : Path) (x : State × List Byte) => (x.1.emit (.dap p x.2)).afterResponse
  let ember := fun (n : Nat) (ok : Bool) (f : State → State) => if s.mgmtServes ∨ ok then f s else s.mboxEnd n .busy
  match c with
  | .mgmtFrame f => s.answerFrame f
  | .windowGo r => s.performGo r
  | .read p role seq es => emit p (s.serveRequest p role seq (.read es))
  | .write p role seq ws => emit p (s.serveRequest p role seq (.write ws))
  | .domainRead p role seq e off len => emit p (s.serveRequest p role seq (.domRead e off len))
  | .domainWrite p role seq e off last d => emit p (s.serveRequest p role seq (.domWrite e off last d))
  | .describe p role seq es => emit p (s.serveRequest p role seq (.describe es))
  | .getEventRecords n => ember n false fun s => s.mboxGetEvents n
  | .clearEventRecords n all hs => ember n false fun s => s.mboxClearEvents n all hs
  | .getFwInfo n => ember n true fun s => s.mboxFwInfo n
  | .transferFw n p => ember n true fun s => s.mboxTransfer n p
  | .activateFw n slot online => ember n true fun s => s.mboxActivate n slot online
  | .getTimestamp n => ember n false fun s => s.mboxTimestamp n
  | .setTimestamp n v => ember n false fun s => s.mboxSetTimestamp n v
  | .getSupportedLogs n => ember n false fun s => s.mboxLogs n
  | .getLog n => ember n false fun s => s.mboxGetLog n
  | .identifyMemoryDevice n => ember n true fun s => s.mboxIdentify n
  | .getHealthInfo n => ember n false fun s => s.mboxHealth n
  | .dictAccess n b => ember n true fun s => s.mboxDict n b
  | .kettleMsg n m => ember n false fun s => s.fwMessage n m
  | .mailboxUnsupported n op => ember n false fun s => s.mboxUnsupported n op
  | .hello n m => ember n false fun s => s.fwHello n m
  | .coreStatus n m => ember n false fun s => s.fwCoreStatus n m
  | .coreRestart n m => ember n false fun s => s.fwRestart n m
  | .groupList n m => ember n false fun s => s.fwGroups n m
  | _ => s

/-- Once a server answers again, what was held is performed in order; a new takeover holds the rest. -/
def State.serveHeld (s : State) : State :=
  if s.dictHeld then s
  else s.dict.held.foldl (fun s c => if ¬ s.dictUp then s else if s.dictHeld then s.hold c else s.performHeld c)
    { s with dict := { s.dict with held := [] } }

/-- A request given as a whole on its path: held during a takeover, and otherwise answered at once. -/
def State.dapRequest (s : State) (c : Instr) (p : Path) (role : Role) (seq : Nat) (items : DapItems) : State :=
  if ¬ s.dictUp then s
  else if s.dictHeld then s.hold c
  else
    let (s, b) := s.serveRequest p role seq items
    (s.emit (.dap p b)).afterResponse

end Sys2Proof.Machine
end

