-- ==== Sys2Proof/WellFormed.lean ====
section
/-! DEFINITION. Well-formed commands: every operand lies in the range that its field or its rule gives it. -/

namespace Sys2Proof

/-- A port number in range (R13). -/
def Port.wf : Port → Bool
  | .host n => decide (n < 4)
  | .utxon n => decide (n < 24)

/-- A pitch number (R4). -/
def wfPitch (p : Nat) : Bool := decide (p < 4096)

/-- A role names an existing pitch. -/
def Role.wf : Role → Bool
  | .po p => wfPitch p
  | _ => true

/-- A path instance that exists (R440). -/
def Path.wf : Path → Bool
  | .mgmt mac => decide (mac < 2 ^ 48)
  | .window slot => decide (slot < 64)
  | .mailbox n => decide (n < 4)

/-- The fields of a request message fit their widths (R111, R146). -/
def Req.wf (r : Req) : Bool :=
  r.port.wf && decide (r.decoder < 8) && decide (r.addr < 2 ^ 64) &&
    wfPitch r.pitch && decide (r.bclass < 32) && decide (r.prio < 4) && decide (r.tag < 2 ^ 16) &&
    decide (r.keep < 4) && decide (r.offset < 64) && decide (r.width < 4) && decide (r.holderTag < 2 ^ 16)

/-- A snoop response fits its fields. -/
def SnpRsp.wf (r : SnpRsp) : Bool := r.port.wf && decide (r.tag < 2 ^ 16)

/-- A response fits its fields (R111). -/
def Rsp.wf (r : Rsp) : Bool :=
  r.port.wf && decide (r.tag < 2 ^ 16) && decide (r.status < 8) && decide (r.load < 16) && decide (r.retryAfter < 16)

/-- A descriptor name fits (R233, R234). -/
def DescId.wf (d : DescId) : Bool := wfPitch d.pitch && decide (d.ring < 16) && decide (d.seq < 2 ^ 32)

/-- How many units of a kind there are (R479). -/
def UnitKind.units : UnitKind → Nat
  | .bivouac => 528
  | .stack => 16
  | .utxon => 24
  | .host => 4
  | .kettle => 8
  | .slice => 33
  | .bracken => 32
  | .clover => 32
  | .tinder => 16
  | .heather => 64

/-- A fixed-function engine (R14). -/
def UnitKind.isEngine : UnitKind → Bool
  | .bracken | .clover | .tinder | .heather => true
  | _ => false

/-- A unit that runs descriptors exists. -/
def UnitId.wf : UnitId → Bool
  | .bivouac b => decide (b < 512)
  | .engine k e => k.isEngine && decide (e < k.units)
  | .kettle k => decide (k < 8)
  | _ => true

/-- A frame header fits its fields (R354). -/
def FrameHdr.wf (h : FrameHdr) : Bool :=
  decide (h.vc < 4) && decide (h.seq < 4096) && decide (h.ackSeq < 4096) && decide (h.credVc < 4) &&
    decide (h.credTotal < 2 ^ 16)

/-- A full-form message fits its fields. -/
def WireMsg.wf (m : WireMsg) : Bool :=
  decide (m.opcode < 256) && m.req.wf && decide (m.status < 8) && decide (m.load < 16) && decide (m.retryAfter < 16)

/-- A compact message is a data response (R356). -/
def CompactMsg.wf (m : CompactMsg) : Bool :=
  decide (0x38 ≤ m.opcode) && decide (m.opcode ≤ 0x3A) && decide (m.prio < 4) && decide (m.tag < 2 ^ 16) &&
    decide (m.status < 8) && decide (m.load < 16)

/-- A dictionary entry's index and subindex fit (R438). -/
def Entry.wf (e : Entry) : Bool := decide (e.index < 2 ^ 16) && decide (e.sub < 256)

/-- A write item fits (R449). -/
def WriteItem.wf (w : WriteItem) : Bool := w.entry.wf && decide (w.type < 256) && decide (w.value < 2 ^ 64)

/-- A management frame fits (R456). -/
def EthFrame.wf (f : EthFrame) : Bool :=
  decide (f.dst < 2 ^ 48) && decide (f.src < 2 ^ 48) && decide (f.etherType < 2 ^ 16) && decide (f.body.length ≤ 1500)

/-- A firmware message's header fits (R417). -/
def FwMsg.wf (m : FwMsg) : Bool :=
  decide (m.msgType < 2 ^ 16) && decide (m.major < 256) && decide (m.minor < 256) && decide (m.seq < 2 ^ 32) &&
    decide (m.body.length ≤ 4096)

/-- Bivouac and Peg numbers in range (R12, R198). -/
def wfPeg (biv peg : Nat) : Bool := decide (biv < 512) && decide (peg < 64)

/-- A well-formed command. -/
def Instr.wf : Instr → Bool
  | .powerOn p q | .resetNReleased p q => decide (p < 8) && decide (q < 16)
  | .powerLoss | .resetNAsserted | .warmEntryDone _ | .pllLock | .refclkLoss | .railFault _ => true
  | .thermalEvaluation _ power => decide (power < 2 ^ 16)
  | .thermalTrip | .emberBootDone | .coreOn => true
  | .temperatureReadout st _ => decide (st < 16)
  | .refreshIssue st ch => decide (st < 16) && decide (ch < 32)
  | .coreEnableWrite r v | .lanternEnableWrite r v => r.wf && decide (v < 2)
  | .logAckWrite r v => r.wf && decide (v < 2 ^ 32)
  | .resetRequestWarm r | .resetRequestCold r | .timeEnable r | .timeDisable r | .auditSnapshotRead r | .stopNow r => r.wf
  | .domainReset w | .clearRange w => decide (w < 2 ^ 32)
  | .stackEnableWrite r _ => r.wf
  | .calibrationDone st _ | .initPassDone st | .stackRetire st | .recalWrite st | .recalStep st _ | .recalPeriodic st
    | .refreshManagement st => decide (st < 16)
  | .boardNumberWrite v => decide (v < 256)
  | .registerWrite r i => r.wf && i.wf
  | .rdShared r | .rdOwn r | .rdNc r | .upgrade r | .wrLine r | .wrPartial r | .wbDirty r | .release r
    | .swap r | .cas r | .add r | .andOp r | .orOp r | .xorOp r | .smax r | .smin r | .umax r | .umin r | .fadd r
    | .stileAcquire r | .stileRenew r | .stileRelease r | .stileQuery r | .doorbellWrite r | .windowGo r => r.wf
  | .reservedOpcodeMessage r op => r.wf && decide (op < 256)
  | .notPresent r | .rspI r | .rspS r | .rspKeep r | .rspIData r | .rspSData r | .rspKeepData r => r.wf
  | .dataS r | .dataX r | .dataNc r | .ackX r | .ack r | .nak r => r.wf
  | .biConflict n ln => decide (n < 4) && decide (ln < 2 ^ 36)
  | .meterRedRelease p _ => wfPitch p
  | .laneOrder sl la | .directoryLookupDone sl la _ => decide (sl < 32) && decide (la < 16)
  | .holdQueueRelease sl => decide (sl < 32)
  | .reservationStart sl src => decide (sl < 32) && decide (src < 128)
  | .reserveLimitExpiry ln => decide (ln < 2 ^ 36)
  | .snoopDeadlineExpiry t | .snoopFinalTimeout t | .snoopTagFree t => decide (t < 2 ^ 16)
  | .transactionTimeout p t => p.wf && decide (t < 2 ^ 16)
  | .sliceRecallDone q | .sliceFailure q _ => decide (q < 33)
  | .agentNumberWrite p v => p.wf && decide (v < 256)
  | .agentSuspectClear _ | .agentFenceDoneClear _ | .peerFenceWrite _ => true
  | .ringConfigWrite r p b | .xlateInvalWrite r p b => r.wf && wfPitch p && decide (b.length ≤ 256)
  | .descriptorFetch p ring _ => wfPitch p && decide (ring < 16)
  | .walkComplete d _ | .descriptorComplete d _ | .runKernel d _ | .flushRange d _ => d.wf
  | .nop d | .xlateInvalidate d | .flushRangeDone d | .regionCreate d _ | .regionShare d | .regionHandover d | .regionAccept d
    | .handoverComplete d _ | .regionHint d | .regionDestroy d => d.wf
  | .faultHeadWrite r p v => r.wf && wfPitch p && decide (v < 2 ^ 16)
  | .xlateRootWrite r p v | .faultRingBaseWrite r p v => r.wf && wfPitch p && decide (v < 2 ^ 64)
  | .retry p q _ | .migrateIn p q _ | .abort p q _ | .faultActionDone p q _ => wfPitch p && decide (q < 2 ^ 16)
  | .invalidationDone p | .drainLimitExpiry p | .quiesceDone p _ | .pitchActivate p | .pitchQuiesce p | .pitchRevoke p
    | .revokeDone p | .pitchReset p => wfPitch p
  | .servingWrite p v => wfPitch p && decide (v < 2)
  | .dispatch | .markerDrive | .campSyncMarker | .markerMissTimeout | .masterMarkerMiss | .masterSwitch => true
  | .descriptorStart u => u.wf
  | .handoverLimitExpiry i | .clearDone i => decide (i < 65536)
  | .regionDestroyMessage port i op oi => decide (port < 24) && decide (i < 65536) && decide (op < 8) && decide (oi < 65536)
  | .clearReport port i => decide (port < 24) && decide (i < 65536)
  | .clearLine i ln => decide (i < 65536) && decide (ln < 2 ^ 36)
  | .wbEvict b ln _ => decide (b < 512) && decide (ln < 2 ^ 36)
  | .pegInstruction b p _ | .pegAmo b p _ | .amoFaddW b p _ | .stgPut b p _ | .stileAcq b p _
    | .stileRenewInsn b p _ | .stileRel b p _ | .stileQueryInsn b p _ => wfPeg b p
  | .rpCfg b p | .rpMma b p | .rpZero b p | .rpLoadc b p | .rpStore b p | .rpStat b p | .rpFence b p | .stgWait b p | .stgDone b p | .pegExit b p => wfPeg b p
  | .ridgepoleEntryStart b | .ridgepoleEntryEnd b | .kernelEnd b | .runLimitExpiry b | .bufferGrant b => decide (b < 512)
  | .chunkFillDone b buf _ => decide (b < 512) && decide (buf < 24)
  | .stageFill i b _ => decide (i < 65536) && decide (b < 512)
  | .bivouacFailure q | .spareFreed q => decide (q < 528)
  | .swardMoveDone q lost => decide (q < 528) && lost.all fun l => decide (l < 65536)
  | .masterPosWrite v => decide (v < 8)
  | .switchAtWrite v => decide (v < 2 ^ 64)
  | .timeFrame port a b c st _ _ =>
    decide (port < 24) && decide (a < 2 ^ 64) && decide (b < 2 ^ 64) && decide (c < 2 ^ 64) && decide (st < 16)
  | .viewCreate d _ | .viewRefresh d _ | .viewMeasure d _ | .gradCompress d _ | .actPack d _ | .actUnpack d _
    | .embTableCreate d _ | .embGather d _ | .embUpdate d _ | .optStep d _ | .idxCreate d _ | .idxInsert d _
    | .idxDelete d _ | .idxCompact d _ | .idxQuery d _ | .collGroupCreate d _ | .collStepStart d _ => d.wf
  | .embTableDestroy d | .idxDestroy d | .querySnapshotFix d | .collGroupDestroy d | .allReduce d | .reduceScatter d
    | .allGather d | .broadcast d | .compAllReduce d | .collStepEnd d | .stepTimeoutExpiry d => d.wf
  | .viewReadServe b _ => decide (b < 32)
  | .engineFailure k e _ => k.isEngine && decide (e < k.units)
  | .ovfBucketReturn h _ => decide (h < 2 ^ 32)
  | .linkTrained n w => decide (n < 24) && decide (w ≤ 9)
  | .linkInfo n _ _ _ _ | .linkInfoResend n | .trainingRetry n | .badFrame n _ | .replayTimeout n | .ackDelayExpiry n
    | .retrainStart n | .holdExpiry n => decide (n < 24)
  | .msg n h ms => decide (n < 24) && h.wf && ms.all WireMsg.wf && decide (ms.length ≤ 32)
  | .msgC n h ms => decide (n < 24) && h.wf && ms.all CompactMsg.wf && decide (ms.length ≤ 7)
  | .ackFrame n h | .replayReq n h => decide (n < 24) && h.wf
  | .lane n h l _ cw => decide (n < 24) && h.wf && decide (l < 9) && decide (cw < 4096)
  | .laneFailure n l => decide (n < 24) && decide (l < 9)
  | .utxonEnableWrite r n v => r.wf && decide (n < 24) && decide (v < 2)
  | .hostLinkUp n w => decide (n < 4) && decide (w ≤ 16)
  | .hostLinkDown n | .ideIntegrityFailure n | .getEventRecords n | .getFwInfo n | .getTimestamp n | .getSupportedLogs n
    | .getLog n | .identifyMemoryDevice n | .getHealthInfo n => decide (n < 4)
  | .hostEnableWrite r n v => r.wf && decide (n < 4) && decide (v < 2)
  | .decoderWrite n d b => decide (n < 4) && decide (d < 8) && decide (b.length ≤ 64)
  | .ideKeySet n k => decide (n < 4) && decide (k < 2)
  | .clearEventRecords n _ hs => decide (n < 4) && hs.all fun h => decide (h < 2 ^ 16)
  | .transferFw n part => decide (n < 4) && decide (part.slot < 256)
  | .activateFw n slot _ => decide (n < 4) && decide (slot < 256)
  | .setTimestamp n v => decide (n < 4) && decide (v < 2 ^ 64)
  | .dictAccess n p => decide (n < 4) && decide (p.length ≤ 2 ^ 20)
  | .kettleMsg n m | .hello n m | .coreStatus n m | .coreRestart n m | .groupList n m => decide (n < 4) && m.wf
  | .mailboxUnsupported n op => decide (n < 4) && decide (op < 2 ^ 16)
  | .activateWrite r m | .revertWrite r m => r.wf && decide (m < 256)
  | .stageImageClosed r p _ _ => r.wf && p.wf
  | .imageCheckDone | .mgmtTakeoverDone | .collDrainExpiry => true
  | .watchdogExpiry k | .coreReloadDone k => decide (k < 8)
  | .collFlagReceived d sender _ => d.wf && decide (sender < 65536)
  | .mgmtFrame f => f.wf
  | .read p r seq es => p.wf && r.wf && decide (seq < 2 ^ 32) && es.all Entry.wf
  | .describe p r seq es => p.wf && r.wf && decide (seq < 2 ^ 32) && es.all Entry.wf
  | .write p r seq ws => p.wf && r.wf && decide (seq < 2 ^ 32) && ws.all WriteItem.wf
  | .domainRead p r seq e off len => p.wf && r.wf && decide (seq < 2 ^ 32) && e.wf && decide (off < 2 ^ 32) && decide (len < 2 ^ 32)
  | .domainWrite p r seq e off _ d => p.wf && r.wf && decide (seq < 2 ^ 32) && e.wf && decide (off < 2 ^ 32) && decide (d.length < 2 ^ 32)
  | .domainTimeout p e => p.wf && e.wf
  | .macAddressWrite v => decide (v < 2 ^ 64)
  | .plcaBeaconLoss | .plcaBeaconReceived | .transmitOpportunity => true
  | .revoke k => decide (k < 256)
  | .svnFloorWrite c v => decide (c < 3) && decide (v < 65536)
  | .fullStripeHoldExpiry t => decide (t < 2 ^ 30)
  | .testArmWrite v => decide (v < 2)
  | .groundsheetBaseWrite v => decide (v < 2 ^ 64)
  | .scrubLine st k err | .controllerIssue st k err => decide (st < 16) && decide (k < 2 ^ 30) && decide (err < 2 ^ 576)
  | .channelRetire st ch => decide (st < 16) && decide (ch < 32)
  | .rebuildLine st k => decide (st < 16) && decide (k < 2 ^ 30)
  | .periodBoundary => true
  | .requestAged st _ => decide (st < 16)
  | .budgetWrite i => i.wf
  | .meterWrite p _ b => wfPitch p && decide (b.length ≤ 64)
  | .urgentCapWrite v => decide (v < 2 ^ 64)
  | .fenceBivouac u | .unfenceBivouac u => decide (u < 528)
  | .fenceStack u | .unfenceStack u => decide (u < 16)
  | .fenceUtxonPort u => decide (u < 24)
  | .fenceHostPort u => decide (u < 4)
  | .fenceKettleCore u | .unfenceKettleCore u => decide (u < 8)
  | .fenceSlice u | .unfenceSlice u => decide (u < 33)
  | .fenceEngine k u | .unfenceEngine k u => k.isEngine && decide (u < k.units)
  | .unfencePort k u => (k == .utxon || k == .host) && decide (u < k.units)
  | .selfTestDone k u _ => decide (u < k.units)
  | .drainDone _ | .fenceDrainLimitExpiry | .diagStateRead | .logEntryWrite | .superframeSend | .sampleTimer => true
  | .agentFenceSet a | .agentFenceWalkDone a | .agentFenceClear a => decide (a < 64)
  | .stileBreak k => decide (k < 65536)
  | .stopInLow | .stopClear | .resume | .jtagBypass | .idcode | .extest | .highz | .clamp | .stopReq | .tapReset => true
  | .samplePreload _ => true
  | .cxlIoCompletion n t _ _ => decide (n < 4) && decide (t < 2 ^ 16)
  | .lodgedDescriptorCreate port op oi pages _ rights =>
    decide (port < 24) && decide (op < 8) && decide (oi < 65536) && decide (pages < 2 ^ 24) && decide (rights < 4)
  | .railInRange i => decide (i < 11)

end Sys2Proof
end

