-- ==== Sys2Proof/Machine/Rows.lean ====
section
/-! DEFINITION. What rows of one shape share: a request on a port, a write of one entry by a role, a block written whole,
and what a change of server releases. -/

namespace Sys2Proof.Machine

/-! ### Requests (R34, R112) -/

/-- A request message arrives on a port. -/
def State.request (s : State) (op : Nat) (r : Req) : State := ((s.countFlit r.port).arrive op r).pumpConflicts

/-- A response message arrives on a port at which the device is the requester. -/
def State.response (s : State) (op : Nat) (r : Rsp) : State := (((s.countFlit r.port).opRsp op r).sweepHeld).pumpConflicts

/-- A snoop response arrives on a port. -/
def State.snoopResponse (s : State) (k : SnpKind) (r : SnpRsp) : State :=
  (((s.countFlit r.port).opSnpRsp k r).sweepHeld).pumpConflicts

/-- A host's MemWr for a line of this device that the host neither owns nor is recalled from as owner (R114). -/
def State.memWrByNonOwner (s : State) (r0 : Req) : Bool :=
  match r0.port, s.hostMap r0 with
  | .host _, some r =>
    let w := s.newWork 7 r
    let off := bits r.addr 41 0
    match s.routeOf r.addr (s.fromFardan r.port) with
    | .own =>
      targetOf off == .stacked &&
        !(s.dir.trans.any fun t => t.line == off / 64 && t.fromX && t.waiting.contains w.src) &&
        !(match s.entry (off / 64) with
          | some e => w.caching && e.state == .x && e.owner == w.src
          | none => false)
    | _ => false
  | _, _ => false

/-- WB_DIRTY arrives on a port; a host's MemWr is WR_LINE when the host is not the line's owner (R114). -/
def State.writebackRequest (s : State) (r : Req) : State :=
  if s.memWrByNonOwner r then s.request 5 r
  else (((s.countFlit r.port).opWriteback r).sweepHeld).pumpConflicts

/-- A store of exactly bytes 0 to 7 of a line. -/
def wordStore (r : Req) : Req := { r with mask := 0xFF }

/-! ### Writes of one entry (R440 to R445) -/

/-- The role that the entry's rights let write it, where a row names none. -/
def writerOf (key : Nat) : Role :=
  if mayWrite .bm (key / 256) (key % 256) then .bm
  else if mayWrite .fm (key / 256) (key % 256) then .fm
  else .hd

/-- A response has been sent for a write that made an effect wait for it (R464, R477). -/
def State.answered (t s : State) : State := if t.owes ∧ ¬ s.owes then t.afterResponse else t

/-- A role writes a value of the entry's own type. -/
def State.rowWrite (s : State) (role : Role) (key v : Nat) : State :=
  (s.asWriter role key fun s => s.writeValue role (key / 256) (key % 256) (typeOf (key / 256) (key % 256)) v).answered s

/-- A value is written to an entry by a role that may write it. -/
def State.plainWrite (s : State) (key v : Nat) : State := s.rowWrite (writerOf key) key v

/-- A role writes a block whole. -/
def State.blockWrite (s : State) (role : Role) (key : Nat) (b : List Byte) : State :=
  s.asWriter role key fun s =>
    s.writeWhen (decide (b.length ≤ (entryRow (key / 256) (key % 256)).elim 0 ERow.vmax)) fun s =>
      s.writeBlock (key / 256) (key % 256) b

/-- A role writes an item (R445, R449): an entry that exists must be served. -/
def State.itemWrite (s : State) (role : Role) (w : WriteItem) : State :=
  if s.dictUp ∧ (entryExists w.entry.index w.entry.sub = false ∨ s.servesEntry w.entry.index w.entry.sub) then
    (s.writeItem role w).answered s
  else s

/-- What `f` does where the operands name something that exists. -/
def State.when (s : State) (c : Bool) (f : State → State) : State := if c then f s else s

/-- RESERVED_SLOTS, CLASS_SLOTS and REBUILD_SLOTS (R385). -/
def isBudget (e : Entry) : Bool :=
  (inRange e.index 0x4000 0x4FFF && e.sub == 0x35) || (inRange e.index 0x6801 0x683F) || (e.index == 0x3800 && e.sub == 7)

/-! ### Reads that have an effect -/

/-- A role reads a block: its bytes leave the device (R454). -/
def State.blockRead (s : State) (role : Role) (key : Nat) (f : State → State × List Byte) : State :=
  if s.servesEntry (key / 256) (key % 256) then
    if mayRead role (key / 256) (key % 256) then
      let (s, b) := f s
      s.emit (.block (key / 256) (key % 256) b)
    else s.denied
  else s

/-- The closing segment of an image written through STAGE_IMAGE (R413, R453). -/
def State.imageClosed (s : State) (role : Role) (p : Path) (off : Nat) (data : List Byte) : State :=
  let e : Entry := { index := 0x7800, sub := 3 }
  if s.servesEntry e.index e.sub ∧ ¬ s.dictHeld then
    (s.domWriteSegment p role e off true data).getD (s.dropTransfer p e)
  else s

/-! ### Rings (R244, R250) -/

/-- DESCRIPTOR_START of a unit. -/
def State.startAt (s : State) (u : UnitId) : State :=
  match u with
  | .bivouac b => s.startBiv b
  | u => s.startUnit u

/-- RUN_KERNEL: a partition of a kernel enters its Bivouac and runs there once it is the next of the window; its
instructions are commands of their own. -/
def State.opRunKernel (s : State) (id : DescId) (part : Nat) : State :=
  match s.desc id with
  | none => s
  | some d =>
    match d.parts.find? fun q => q.idx == part with
    | none => s
    | some q =>
      s.when ((s.window q.biv).head?.elim false fun x => x.1.id == id && x.2.idx == part) fun s => s.startBiv q.biv

/-! ### Keys of a row's entry -/

/-- HOST_AGENT or UTXON_AGENT of a port (R133). -/
def agentKey : Port → Nat
  | .host n => E.dirHostAgent n
  | .utxon n => E.dirUtxonAgent n

/-- URGENT or BULK meter record of a pitch (R392). -/
def meterEntry (p : Nat) (urgent : Bool) : Nat := if urgent then E.pitchUrgentMeter p else E.pitchBulkMeter p

/-! ### Agents (R508) -/

/-- AGENT_FENCE is written with the bit of one agent changed. -/
def State.agentBitWrite (s : State) (a : Nat) (on : Bool) : State :=
  let old := s.reg E.fenceAgentFence
  s.when (decide (a < 64) && bitOf old a != on) fun s =>
    s.plainWrite E.fenceAgentFence (if on then old + 2 ^ a else old - 2 ^ a)

/-! ### Firmware (R414, R415, R505) -/

/-- A takeover ends: the server answers again, and a fenced core's procedure is done. -/
def State.takeoverDone (s : State) : State :=
  if ¬ s.coreOn ∨ s.kettle.takeover.isNone then s
  else
    let o := s.kettle.relieved
    let s := s.endTakeover
    let s := match o with
      | some (k, _) => if s.reg E.procProcState = 3 then s.endProc .kettle k true else s
      | none => s
    s.serveHeld

/-! ### Sampling (R526) -/

/-- Each entry of SAMPLE_LIST gives a SAMPLE record. -/
def State.sampleAll : List Byte → Nat → State → State
  | _, 0, s => s
  | b, n + 1, s =>
    if b.length < 4 then s
    else
      let idx := leNat (b.take 2)
      let sub := leNat ((b.drop 2).take 1)
      State.sampleAll (b.drop 4) n (s.traceEvent { type := 6, seq := idx + sub * 65536, data := s.value idx sub })

/-- SAMPLE_TIMER. -/
def State.opSampleTimer (s : State) : State :=
  if s.coreOn then State.sampleAll s.trace.samples 16 s else s

end Sys2Proof.Machine
end

