-- ==== Sys2Proof/Machine/ExecBivouac.lean ====
section
/-! DEFINITION. Bivouacs: the meaning of each command of the Pegs, the Ridgepole and the stager (R140, R150, R190 to R228). -/

namespace Sys2Proof.Machine

/-- WB_EVICT (R140). -/
def execWbEvict (biv line : Nat) (env : Env) (s : State) : Host.Outcome State Fault Refusal :=
  s.run fun s => s.opWbEvict biv line env

/-- RUN_KERNEL (R244). -/
def execRunKernel (d : DescId) (part : Nat) (s : State) : Host.Outcome State Fault Refusal :=
  s.run fun s => s.opRunKernel d part

/-- PEG_INSTRUCTION (R201). -/
def execPegInstruction (biv peg : Nat) (env : Env) (s : State) : Host.Outcome State Fault Refusal :=
  s.run fun s => s.opPegInstruction biv peg env

/-- PEG_AMO (R150). -/
def execPegAmo (biv peg : Nat) (env : Env) (s : State) : Host.Outcome State Fault Refusal :=
  s.run fun s => s.opPegAmo biv peg env

/-- RP_CFG (R209). -/
def execRpCfg (biv peg : Nat) (s : State) : Host.Outcome State Fault Refusal :=
  s.run fun s => s.opRpCfg biv peg

/-- RP_MMA (R213). -/
def execRpMma (biv peg : Nat) (s : State) : Host.Outcome State Fault Refusal :=
  s.run fun s => s.opRpMma biv peg

/-- RP_ZERO (R208). -/
def execRpZero (biv peg : Nat) (s : State) : Host.Outcome State Fault Refusal :=
  s.run fun s => s.opRpZero biv peg

/-- RP_LOADC (R208). -/
def execRpLoadc (biv peg : Nat) (s : State) : Host.Outcome State Fault Refusal :=
  s.run fun s => s.opRpLoadc biv peg

/-- RP_STORE (R218). -/
def execRpStore (biv peg : Nat) (s : State) : Host.Outcome State Fault Refusal :=
  s.run fun s => s.opRpStore biv peg

/-- RP_STAT (R211). -/
def execRpStat (biv peg : Nat) (s : State) : Host.Outcome State Fault Refusal :=
  s.run fun s => s.opRpStat biv peg

/-- RP_FENCE (R208). -/
def execRpFence (biv peg : Nat) (s : State) : Host.Outcome State Fault Refusal :=
  s.run fun s => s.opRpFence biv peg

/-- RIDGEPOLE_ENTRY_START (R210). -/
def execRidgepoleEntryStart (biv : Nat) (s : State) : Host.Outcome State Fault Refusal :=
  s.run fun s => s.opEntryStart biv

/-- RIDGEPOLE_ENTRY_END (R210). -/
def execRidgepoleEntryEnd (biv : Nat) (s : State) : Host.Outcome State Fault Refusal :=
  s.run fun s => s.opEntryEnd biv

/-- AMO_FADD_W (R208). -/
def execAmoFaddW (biv peg : Nat) (env : Env) (s : State) : Host.Outcome State Fault Refusal :=
  s.run fun s => s.opAmoFadd biv peg env

/-- STILE_ACQ (R208). -/
def execStileAcq (biv peg : Nat) (env : Env) (s : State) : Host.Outcome State Fault Refusal :=
  s.run fun s => s.opStileInsn biv peg env 0

/-- STILE_RENEW_INSN (R208). -/
def execStileRenewInsn (biv peg : Nat) (env : Env) (s : State) : Host.Outcome State Fault Refusal :=
  s.run fun s => s.opStileInsn biv peg env 1

/-- STILE_REL (R208). -/
def execStileRel (biv peg : Nat) (env : Env) (s : State) : Host.Outcome State Fault Refusal :=
  s.run fun s => s.opStileInsn biv peg env 2

/-- STILE_QUERY_INSN (R208). -/
def execStileQueryInsn (biv peg : Nat) (env : Env) (s : State) : Host.Outcome State Fault Refusal :=
  s.run fun s => s.opStileInsn biv peg env 3

/-- STG_WAIT (R223). -/
def execStgWait (biv peg : Nat) (s : State) : Host.Outcome State Fault Refusal :=
  s.run fun s => s.opStgWait biv peg

/-- STG_DONE (R223). -/
def execStgDone (biv peg : Nat) (s : State) : Host.Outcome State Fault Refusal :=
  s.run fun s => s.opStgDone biv peg

/-- STG_PUT (R224). -/
def execStgPut (biv peg : Nat) (env : Env) (s : State) : Host.Outcome State Fault Refusal :=
  s.run fun s => s.opStgPut biv peg env

/-- PEG_EXIT (R226). -/
def execPegExit (biv peg : Nat) (s : State) : Host.Outcome State Fault Refusal :=
  s.run fun s => s.opPegExit biv peg

/-- KERNEL_END (R226). -/
def execKernelEnd (biv : Nat) (s : State) : Host.Outcome State Fault Refusal :=
  s.run fun s => s.opKernelEnd biv

/-- RUN_LIMIT_EXPIRY (R227). -/
def execRunLimitExpiry (biv : Nat) (s : State) : Host.Outcome State Fault Refusal :=
  s.run fun s => s.opRunLimit biv

/-- BUFFER_GRANT (R222). -/
def execBufferGrant (biv : Nat) (s : State) : Host.Outcome State Fault Refusal :=
  s.run fun s => s.opBufferGrant biv

/-- CHUNK_FILL_DONE (R221). -/
def execChunkFillDone (biv buffer : Nat) (env : Env) (s : State) : Host.Outcome State Fault Refusal :=
  s.run fun s => s.opChunkFill biv buffer env

/-- STAGE_FILL (R190). -/
def execStageFill (index biv : Nat) (env : Env) (s : State) : Host.Outcome State Fault Refusal :=
  s.run fun s => s.opStageFill index biv env

/-- BIVOUAC_FAILURE (R228). -/
def execBivouacFailure (phys : Nat) (s : State) : Host.Outcome State Fault Refusal :=
  s.run fun s => s.opBivFailure phys

end Sys2Proof.Machine
end

