-- ==== Sys2Proof/Machine/ExecCampfire.lean ====
section
/-! DEFINITION. Campfire time: the meaning of each event (R255 to R261, R358). -/

namespace Sys2Proof.Machine

/-- CAMP_SYNC_MARKER (R255). -/
def execCampSyncMarker (s : State) : Host.Outcome State Fault Refusal :=
  s.run fun s => s.opMarker

/-- MARKER_DRIVE (R255). -/
def execMarkerDrive (s : State) : Host.Outcome State Fault Refusal :=
  s.run fun s => s.opMarkerDrive

/-- MARKER_MISS_TIMEOUT (R257). -/
def execMarkerMissTimeout (s : State) : Host.Outcome State Fault Refusal :=
  s.run fun s => s.opMarkerMiss

/-- MASTER_MARKER_MISS (R257). -/
def execMasterMarkerMiss (s : State) : Host.Outcome State Fault Refusal :=
  s.run fun s => s.opMasterMiss

/-- TIME_ENABLE (R257). -/
def execTimeEnable (role : Role) (s : State) : Host.Outcome State Fault Refusal :=
  s.run fun s => s.rowWrite role E.campTimeEnable 1

/-- TIME_DISABLE (R257). -/
def execTimeDisable (role : Role) (s : State) : Host.Outcome State Fault Refusal :=
  s.run fun s => s.rowWrite role E.campTimeEnable 0

/-- MASTER_POS_WRITE (R261). -/
def execMasterPosWrite (value : Nat) (s : State) : Host.Outcome State Fault Refusal :=
  s.run fun s => s.plainWrite E.campMasterPos value

/-- SWITCH_AT_WRITE (R260). -/
def execSwitchAtWrite (value : Nat) (s : State) : Host.Outcome State Fault Refusal :=
  s.run fun s => s.plainWrite E.campSwitchAt value

/-- MASTER_SWITCH (R260). -/
def execMasterSwitch (s : State) : Host.Outcome State Fault Refusal :=
  s.run fun s => s.opMasterSwitch

/-- TIME (R358). -/
def execTimeFrame (port txCount echoTx echoRx _lockState : Nat) (valid reply : Bool) (s : State) :
    Host.Outcome State Fault Refusal :=
  s.run fun s => s.opTimeFrame port txCount echoTx echoRx valid reply

end Sys2Proof.Machine
end

