-- ==== Sys2Proof/Machine/ExecCoherence.lean ====
section
/-! DEFINITION. Coherence messages: the meaning of each request, snoop response and response (R112 to R128, R147 to R157). -/

namespace Sys2Proof.Machine

/-- RD_SHARED (R116). -/
def execRdShared (r : Req) (s : State) : Host.Outcome State Fault Refusal :=
  s.run fun s => s.request 1 r

/-- RD_OWN (R116). -/
def execRdOwn (r : Req) (s : State) : Host.Outcome State Fault Refusal :=
  s.run fun s => s.request 2 r

/-- RD_NC (R116). -/
def execRdNc (r : Req) (s : State) : Host.Outcome State Fault Refusal :=
  s.run fun s => s.request 3 r

/-- UPGRADE (R116). -/
def execUpgrade (r : Req) (s : State) : Host.Outcome State Fault Refusal :=
  s.run fun s => s.request 4 r

/-- WR_LINE (R116). -/
def execWrLine (r : Req) (s : State) : Host.Outcome State Fault Refusal :=
  s.run fun s => s.request 5 r

/-- WR_PARTIAL (R116). -/
def execWrPartial (r : Req) (s : State) : Host.Outcome State Fault Refusal :=
  s.run fun s => s.request 6 r

/-- WB_DIRTY (R124). -/
def execWbDirty (r : Req) (s : State) : Host.Outcome State Fault Refusal :=
  s.run fun s => s.writebackRequest r

/-- RELEASE (R116). -/
def execRelease (r : Req) (s : State) : Host.Outcome State Fault Refusal :=
  s.run fun s => s.request 8 r

/-- SWAP (R147). -/
def execSwap (r : Req) (s : State) : Host.Outcome State Fault Refusal :=
  s.run fun s => s.request 0x10 r

/-- CAS (R147). -/
def execCas (r : Req) (s : State) : Host.Outcome State Fault Refusal :=
  s.run fun s => s.request 0x11 r

/-- ADD (R147). -/
def execAdd (r : Req) (s : State) : Host.Outcome State Fault Refusal :=
  s.run fun s => s.request 0x12 r

/-- AND (R147). -/
def execAndOp (r : Req) (s : State) : Host.Outcome State Fault Refusal :=
  s.run fun s => s.request 0x13 r

/-- OR (R147). -/
def execOrOp (r : Req) (s : State) : Host.Outcome State Fault Refusal :=
  s.run fun s => s.request 0x14 r

/-- XOR (R147). -/
def execXorOp (r : Req) (s : State) : Host.Outcome State Fault Refusal :=
  s.run fun s => s.request 0x15 r

/-- SMAX (R147). -/
def execSmax (r : Req) (s : State) : Host.Outcome State Fault Refusal :=
  s.run fun s => s.request 0x16 r

/-- SMIN (R147). -/
def execSmin (r : Req) (s : State) : Host.Outcome State Fault Refusal :=
  s.run fun s => s.request 0x17 r

/-- UMAX (R147). -/
def execUmax (r : Req) (s : State) : Host.Outcome State Fault Refusal :=
  s.run fun s => s.request 0x18 r

/-- UMIN (R147). -/
def execUmin (r : Req) (s : State) : Host.Outcome State Fault Refusal :=
  s.run fun s => s.request 0x19 r

/-- FADD (R148). -/
def execFadd (r : Req) (s : State) : Host.Outcome State Fault Refusal :=
  s.run fun s => s.request 0x1A r

/-- STILE_ACQUIRE (R157). -/
def execStileAcquire (r : Req) (s : State) : Host.Outcome State Fault Refusal :=
  s.run fun s => s.request 0x1C r

/-- STILE_RENEW (R157). -/
def execStileRenew (r : Req) (s : State) : Host.Outcome State Fault Refusal :=
  s.run fun s => s.request 0x1D r

/-- STILE_RELEASE (R157). -/
def execStileRelease (r : Req) (s : State) : Host.Outcome State Fault Refusal :=
  s.run fun s => s.request 0x1E r

/-- STILE_QUERY (R157). -/
def execStileQuery (r : Req) (s : State) : Host.Outcome State Fault Refusal :=
  s.run fun s => s.request 0x1F r

/-- RESERVED_OPCODE_MESSAGE (R112). -/
def execReservedOpcodeMessage (r : Req) (opcode : Nat) (s : State) : Host.Outcome State Fault Refusal :=
  s.run fun s => s.opReserved r opcode

/-- NOT_PRESENT (R123). -/
def execNotPresent (r : SnpRsp) (s : State) : Host.Outcome State Fault Refusal :=
  s.run fun s => s.snoopResponse .notPresent r

/-- RSP_I (R116). -/
def execRspI (r : SnpRsp) (s : State) : Host.Outcome State Fault Refusal :=
  s.run fun s => s.snoopResponse .rspI r

/-- RSP_S (R116). -/
def execRspS (r : SnpRsp) (s : State) : Host.Outcome State Fault Refusal :=
  s.run fun s => s.snoopResponse .rspS r

/-- RSP_KEEP (R116). -/
def execRspKeep (r : SnpRsp) (s : State) : Host.Outcome State Fault Refusal :=
  s.run fun s => s.snoopResponse .rspKeep r

/-- RSP_I_DATA (R116). -/
def execRspIData (r : SnpRsp) (s : State) : Host.Outcome State Fault Refusal :=
  s.run fun s => s.snoopResponse .rspIData r

/-- RSP_S_DATA (R116). -/
def execRspSData (r : SnpRsp) (s : State) : Host.Outcome State Fault Refusal :=
  s.run fun s => s.snoopResponse .rspSData r

/-- RSP_KEEP_DATA (R116). -/
def execRspKeepData (r : SnpRsp) (s : State) : Host.Outcome State Fault Refusal :=
  s.run fun s => s.snoopResponse .rspKeepData r

/-- DATA_S (R116). -/
def execDataS (r : Rsp) (s : State) : Host.Outcome State Fault Refusal :=
  s.run fun s => s.response 0x38 r

/-- DATA_X (R116). -/
def execDataX (r : Rsp) (s : State) : Host.Outcome State Fault Refusal :=
  s.run fun s => s.response 0x39 r

/-- DATA_NC (R116). -/
def execDataNc (r : Rsp) (s : State) : Host.Outcome State Fault Refusal :=
  s.run fun s => s.response 0x3A r

/-- ACK_X (R116). -/
def execAckX (r : Rsp) (s : State) : Host.Outcome State Fault Refusal :=
  s.run fun s => s.response 0x3B r

/-- ACK (R116). -/
def execAck (r : Rsp) (s : State) : Host.Outcome State Fault Refusal :=
  s.run fun s => s.response 0x3C r

/-- NAK (R120). -/
def execNak (r : Rsp) (s : State) : Host.Outcome State Fault Refusal :=
  s.run fun s => s.response 0x3D r

/-- BICONFLICT (R115). -/
def execBiConflict (hostPort line : Nat) (s : State) : Host.Outcome State Fault Refusal :=
  s.run fun s => s.opBiConflict hostPort line

end Sys2Proof.Machine
end

