-- ==== Sys2Proof/Machine/ExecDict.lean ====
section
/-! DEFINITION. The dictionary: the meaning of each command of its paths (R442 to R465). -/

namespace Sys2Proof.Machine

/-- MGMT_FRAME (R456). -/
def execMgmtFrame (f : EthFrame) (s : State) : Host.Outcome State Fault Refusal :=
  s.run fun s => s.opMgmtFrame f

/-- TRANSMIT_OPPORTUNITY (R456). -/
def execTransmitOpportunity (s : State) : Host.Outcome State Fault Refusal :=
  s.run fun s => s.opTransmit

/-- PLCA_BEACON_LOSS (R455). -/
def execPlcaBeaconLoss (s : State) : Host.Outcome State Fault Refusal :=
  s.run fun s => s.opBeaconLoss

/-- PLCA_BEACON_RECEIVED (R464). -/
def execPlcaBeaconReceived (s : State) : Host.Outcome State Fault Refusal :=
  s.run fun s => s.opBeacon

/-- WINDOW_GO (R460). -/
def execWindowGo (r : Req) (s : State) : Host.Outcome State Fault Refusal :=
  s.run fun s => s.request 6 (wordStore r)

/-- READ (R449). -/
def execRead (path : Path) (role : Role) (seq : Nat) (items : List Entry) (s : State) : Host.Outcome State
    Fault Refusal :=
  s.run fun s => s.dapRequest (.read path role seq items) path role seq (.read items)

/-- WRITE (R449). -/
def execWrite (path : Path) (role : Role) (seq : Nat) (items : List WriteItem) (s : State) : Host.Outcome
    State Fault Refusal :=
  s.run fun s => s.dapRequest (.write path role seq items) path role seq (.write items)

/-- DOMAIN_READ (R454). -/
def execDomainRead (path : Path) (role : Role) (seq : Nat) (entry : Entry) (offset len : Nat) (s : State) :
    Host.Outcome State Fault Refusal :=
  s.run fun s => s.dapRequest (.domainRead path role seq entry offset len) path role seq (.domRead entry offset len)

/-- DOMAIN_WRITE (R453). -/
def execDomainWrite (path : Path) (role : Role) (seq : Nat) (entry : Entry) (offset : Nat) (last : Bool)
    (data : List Byte) (s : State) : Host.Outcome State Fault Refusal :=
  s.run fun s =>
    s.dapRequest (.domainWrite path role seq entry offset last data) path role seq
      (.domWrite entry offset last data)

/-- DESCRIBE (R449). -/
def execDescribe (path : Path) (role : Role) (seq : Nat) (items : List Entry) (s : State) : Host.Outcome
    State Fault Refusal :=
  s.run fun s => s.dapRequest (.describe path role seq items) path role seq (.describe items)

/-- DOMAIN_TIMEOUT (R453). -/
def execDomainTimeout (path : Path) (entry : Entry) (s : State) : Host.Outcome State Fault Refusal :=
  s.run fun s => s.opDomainTimeout path entry

/-- MAC_ADDRESS_WRITE (R464). -/
def execMacAddressWrite (value : Nat) (s : State) : Host.Outcome State Fault Refusal :=
  s.run fun s => s.plainWrite E.mgmtMacAddress value

/-- REVOKE (R465). -/
def execRevoke (key : Nat) (s : State) : Host.Outcome State Fault Refusal :=
  s.run fun s => s.plainWrite E.secRevoke key

/-- SVN_FLOOR_WRITE (R465). -/
def execSvnFloorWrite (cls value : Nat) (s : State) : Host.Outcome State Fault Refusal :=
  s.run fun s => s.when (inRange cls 1 3) fun s => s.plainWrite (E.secSvnFloor (cls - 1)) value

end Sys2Proof.Machine
end

