-- ==== Sys2Proof/Machine/ExecDirectory.lean ====
section
/-! DEFINITION. Meters, home lanes and the directory: the meaning of each event (R107 to R133, R394). -/

namespace Sys2Proof.Machine

/-- METER_RED_RELEASE (R394). -/
def execMeterRedRelease (pitch : Nat) (urgent : Bool) (s : State) : Host.Outcome State Fault Refusal :=
  s.run fun s => ((s.opMeterRelease pitch urgent).sweepHeld).pumpConflicts

/-- LANE_ORDER (R107). -/
def execLaneOrder (slice lane : Nat) (s : State) : Host.Outcome State Fault Refusal :=
  s.run fun s => ((s.opLaneOrder slice lane).sweepHeld).pumpConflicts

/-- DIRECTORY_LOOKUP_DONE (R116). -/
def execDirectoryLookupDone (slice lane : Nat) (ecc : EntryEcc) (s : State) : Host.Outcome State Fault Refusal :=
  s.run fun s => ((s.opLookupDone slice lane ecc).sweepHeld).pumpConflicts

/-- HOLD_QUEUE_RELEASE (R119). -/
def execHoldQueueRelease (slice : Nat) (s : State) : Host.Outcome State Fault Refusal :=
  s.run fun s => ((s.opHoldRelease slice).sweepHeld).pumpConflicts

/-- RESERVATION_START (R122). -/
def execReservationStart (slice source : Nat) (s : State) : Host.Outcome State Fault Refusal :=
  s.run fun s => s.opReservationStart slice source

/-- RESERVE_LIMIT_EXPIRY (R122). -/
def execReserveLimitExpiry (line : Nat) (s : State) : Host.Outcome State Fault Refusal :=
  s.run fun s => s.opReserveExpiry line

/-- SNOOP_DEADLINE_EXPIRY (R126). -/
def execSnoopDeadlineExpiry (tag : Nat) (s : State) : Host.Outcome State Fault Refusal :=
  s.run fun s => s.opDeadline tag

/-- SNOOP_FINAL_TIMEOUT (R126). -/
def execSnoopFinalTimeout (tag : Nat) (s : State) : Host.Outcome State Fault Refusal :=
  s.run fun s => ((s.opFinalTimeout tag).sweepHeld).pumpConflicts

/-- TRANSACTION_TIMEOUT (R127). -/
def execTransactionTimeout (port : Port) (tag : Nat) (s : State) : Host.Outcome State Fault Refusal :=
  s.run fun s => ((s.opTransactionTimeout port tag).sweepHeld).pumpConflicts

/-- SNOOP_TAG_FREE (R128). -/
def execSnoopTagFree (tag : Nat) (s : State) : Host.Outcome State Fault Refusal :=
  s.run fun s => s.opTagFree tag

/-- SLICE_RECALL_DONE (R131). -/
def execSliceRecallDone (phys : Nat) (s : State) : Host.Outcome State Fault Refusal :=
  s.run fun s => s.opRecallDone phys

/-- AGENT_NUMBER_WRITE (R133). -/
def execAgentNumberWrite (port : Port) (value : Nat) (s : State) : Host.Outcome State Fault Refusal :=
  s.run fun s => s.when port.wf fun s => s.plainWrite (agentKey port) value

/-- AGENT_SUSPECT_CLEAR (R132). -/
def execAgentSuspectClear (bits : Word) (s : State) : Host.Outcome State Fault Refusal :=
  s.run fun s => s.plainWrite E.dirAgentSuspect bits.toNat

end Sys2Proof.Machine
end

