-- ==== Sys2Proof/Machine/ExecEmbed.lean ====
section
/-! DEFINITION. Embeddings, the optimizer and engine failure: the meaning of each command (R300 to R311, R506). -/

namespace Sys2Proof.Machine

/-- EMB_TABLE_CREATE (R300). -/
def execEmbTableCreate (d : DescId) (env : Env) (s : State) : Host.Outcome State Fault Refusal :=
  s.run fun s => s.opTableCreate d env

/-- EMB_TABLE_DESTROY (R301). -/
def execEmbTableDestroy (d : DescId) (s : State) : Host.Outcome State Fault Refusal :=
  s.run fun s => s.opTableDestroy d

/-- EMB_GATHER (R303). -/
def execEmbGather (d : DescId) (env : Env) (s : State) : Host.Outcome State Fault Refusal :=
  s.run fun s => s.opGather d env

/-- EMB_UPDATE (R307). -/
def execEmbUpdate (d : DescId) (env : Env) (s : State) : Host.Outcome State Fault Refusal :=
  s.run fun s => s.opUpdate d env

/-- OPT_STEP (R311). -/
def execOptStep (d : DescId) (env : Env) (s : State) : Host.Outcome State Fault Refusal :=
  s.run fun s => s.opOptStep d env

/-- ENGINE_FAILURE (R506). -/
def execEngineFailure (kind : UnitKind) (e : Nat) (done : Nat) (s : State) : Host.Outcome State Fault Refusal :=
  s.run fun s => s.opEngineFailure kind e done

end Sys2Proof.Machine
end

