-- ==== Sys2Proof/Machine/ExecHost.lean ====
section
/-! DEFINITION. Host ports and the mailbox: the meaning of each command (R372 to R380, R413 to R420, R461, R521). -/

namespace Sys2Proof.Machine

/-- HOST_LINK_UP (R372). -/
def execHostLinkUp (port width : Nat) (s : State) : Host.Outcome State Fault Refusal :=
  s.run fun s => s.opHostLinkUp port width

/-- HOST_LINK_DOWN (R374). -/
def execHostLinkDown (port : Nat) (s : State) : Host.Outcome State Fault Refusal :=
  s.run fun s => s.opHostLinkDown port

/-- HOST_ENABLE_WRITE (R380). -/
def execHostEnableWrite (role : Role) (port value : Nat) (s : State) : Host.Outcome State Fault Refusal :=
  s.run fun s => s.when (decide (port < 4)) fun s => s.rowWrite role (E.hostEnable port) value

/-- DECODER_WRITE (R373). -/
def execDecoderWrite (port decoder : Nat) (block : List Byte) (s : State) : Host.Outcome State Fault Refusal :=
  s.run fun s =>
    s.when (decide (port < 4) && decide (decoder < 8)) fun s =>
      s.blockWrite (writerOf (E.hostDecoder port decoder)) (E.hostDecoder port decoder) block

/-- IDE_KEY_SET (R375). -/
def execIdeKeySet (port keySet : Nat) (s : State) : Host.Outcome State Fault Refusal :=
  s.run fun s => s.opIdeKeySet port keySet

/-- IDE_INTEGRITY_FAILURE (R375). -/
def execIdeIntegrityFailure (port : Nat) (s : State) : Host.Outcome State Fault Refusal :=
  s.run fun s => s.opIdeFailure port

/-- CXL_IO_COMPLETION (R91). -/
def execCxlIoCompletion (port tag : Nat) (ans : RemAns) (env : Env) (s : State) : Host.Outcome State Fault Refusal :=
  s.run fun s => s.opIoCompletion port tag ans env

/-- GET_EVENT_RECORDS (R521). -/
def execGetEventRecords (port : Nat) (s : State) : Host.Outcome State Fault Refusal :=
  s.run fun s => s.mailboxCmd port false (.getEventRecords port) fun s => s.mboxGetEvents port

/-- CLEAR_EVENT_RECORDS (R521). -/
def execClearEventRecords (port : Nat) (all : Bool) (handles : List Nat) (s : State) : Host.Outcome State
    Fault Refusal :=
  s.run fun s =>
    s.mailboxCmd port false (.clearEventRecords port all handles) fun s => s.mboxClearEvents port all handles

/-- GET_FW_INFO (R413). -/
def execGetFwInfo (port : Nat) (s : State) : Host.Outcome State Fault Refusal :=
  s.run fun s => s.mailboxCmd port true (.getFwInfo port) fun s => s.mboxFwInfo port

/-- TRANSFER_FW (R413). -/
def execTransferFw (port : Nat) (part : FwPart) (s : State) : Host.Outcome State Fault Refusal :=
  s.run fun s => s.mailboxCmd port true (.transferFw port part) fun s => s.mboxTransfer port part

/-- ACTIVATE_FW (R413). -/
def execActivateFw (port slot : Nat) (online : Bool) (s : State) : Host.Outcome State Fault Refusal :=
  s.run fun s => s.mailboxCmd port true (.activateFw port slot online) fun s => s.mboxActivate port slot online

/-- GET_TIMESTAMP (R376). -/
def execGetTimestamp (port : Nat) (s : State) : Host.Outcome State Fault Refusal :=
  s.run fun s => s.mailboxCmd port false (.getTimestamp port) fun s => s.mboxTimestamp port

/-- SET_TIMESTAMP (R376). -/
def execSetTimestamp (port value : Nat) (s : State) : Host.Outcome State Fault Refusal :=
  s.run fun s => s.mailboxCmd port false (.setTimestamp port value) fun s => s.mboxSetTimestamp port value

/-- GET_SUPPORTED_LOGS (R376). -/
def execGetSupportedLogs (port : Nat) (s : State) : Host.Outcome State Fault Refusal :=
  s.run fun s => s.mailboxCmd port false (.getSupportedLogs port) fun s => s.mboxLogs port

/-- GET_LOG (R521). -/
def execGetLog (port : Nat) (s : State) : Host.Outcome State Fault Refusal :=
  s.run fun s => s.mailboxCmd port false (.getLog port) fun s => s.mboxGetLog port

/-- IDENTIFY_MEMORY_DEVICE (R376). -/
def execIdentifyMemoryDevice (port : Nat) (s : State) : Host.Outcome State Fault Refusal :=
  s.run fun s => s.mailboxCmd port true (.identifyMemoryDevice port) fun s => s.mboxIdentify port

/-- GET_HEALTH_INFO (R376). -/
def execGetHealthInfo (port : Nat) (s : State) : Host.Outcome State Fault Refusal :=
  s.run fun s => s.mailboxCmd port false (.getHealthInfo port) fun s => s.mboxHealth port

/-- DICT_ACCESS (R461). -/
def execDictAccess (port : Nat) (payload : List Byte) (s : State) : Host.Outcome State Fault Refusal :=
  s.run fun s => s.mailboxCmd port true (.dictAccess port payload) fun s => s.mboxDict port payload

/-- KETTLE_MSG (R417). -/
def execKettleMsg (port : Nat) (m : FwMsg) (s : State) : Host.Outcome State Fault Refusal :=
  s.run fun s => s.mailboxCmd port false (.kettleMsg port m) fun s => s.fwMessage port m

/-- MAILBOX_UNSUPPORTED (R376). -/
def execMailboxUnsupported (port opcode : Nat) (s : State) : Host.Outcome State Fault Refusal :=
  s.run fun s => s.mailboxCmd port false (.mailboxUnsupported port opcode) fun s => s.mboxUnsupported port opcode

/-- HELLO (R418). -/
def execHello (port : Nat) (m : FwMsg) (s : State) : Host.Outcome State Fault Refusal :=
  s.run fun s => s.mailboxCmd port false (.hello port m) fun s => s.fwHello port m

/-- CORE_STATUS (R420). -/
def execCoreStatus (port : Nat) (m : FwMsg) (s : State) : Host.Outcome State Fault Refusal :=
  s.run fun s => s.mailboxCmd port false (.coreStatus port m) fun s => s.fwCoreStatus port m

/-- CORE_RESTART (R420). -/
def execCoreRestart (port : Nat) (m : FwMsg) (s : State) : Host.Outcome State Fault Refusal :=
  s.run fun s => s.mailboxCmd port false (.coreRestart port m) fun s => s.fwRestart port m

/-- GROUP_LIST (R420). -/
def execGroupList (port : Nat) (m : FwMsg) (s : State) : Host.Outcome State Fault Refusal :=
  s.run fun s => s.mailboxCmd port false (.groupList port m) fun s => s.fwGroups port m

end Sys2Proof.Machine
end

