-- ==== Sys2Proof/Machine/ExecKettle.lean ====
section
/-! DEFINITION. Firmware and collectives: the meaning of each command (R410 to R431). -/

namespace Sys2Proof.Machine

/-- ACTIVATE_WRITE (R414). -/
def execActivateWrite (role : Role) (mask : Nat) (s : State) : Host.Outcome State Fault Refusal :=
  s.run fun s => s.rowWrite role E.kettleActivate mask

/-- REVERT_WRITE (R413). -/
def execRevertWrite (role : Role) (mask : Nat) (s : State) : Host.Outcome State Fault Refusal :=
  s.run fun s => s.rowWrite role E.kettleRevert mask

/-- STAGE_IMAGE_CLOSED (R413). -/
def execStageImageClosed (role : Role) (path : Path) (offset : Nat) (data : List Byte) (s : State) :
    Host.Outcome State Fault Refusal :=
  s.run fun s => s.imageClosed role path offset data

/-- IMAGE_CHECK_DONE (R410). -/
def execImageCheckDone (s : State) : Host.Outcome State Fault Refusal :=
  s.run fun s => s.opImageChecked

/-- MGMT_TAKEOVER_DONE (R414). -/
def execMgmtTakeoverDone (s : State) : Host.Outcome State Fault Refusal :=
  s.run fun s => s.takeoverDone

/-- COLL_DRAIN_EXPIRY (R414). -/
def execCollDrainExpiry (s : State) : Host.Outcome State Fault Refusal :=
  s.run fun s => (s.opCollDrain).serveHeld

/-- WATCHDOG_EXPIRY (R415). -/
def execWatchdogExpiry (core : Nat) (s : State) : Host.Outcome State Fault Refusal :=
  s.run fun s => (s.opWatchdog core).serveHeld

/-- CORE_RELOAD_DONE (R415). -/
def execCoreReloadDone (core : Nat) (s : State) : Host.Outcome State Fault Refusal :=
  s.run fun s => (s.opCoreReload core).serveHeld

/-- COLL_GROUP_CREATE (R422). -/
def execCollGroupCreate (d : DescId) (env : Env) (s : State) : Host.Outcome State Fault Refusal :=
  s.run fun s => s.opGroupCreate d env

/-- COLL_GROUP_DESTROY (R422). -/
def execCollGroupDestroy (d : DescId) (s : State) : Host.Outcome State Fault Refusal :=
  s.run fun s => s.opGroupDestroy d

/-- ALL_REDUCE (R427). -/
def execAllReduce (d : DescId) (s : State) : Host.Outcome State Fault Refusal :=
  s.run fun s => (s.beginColl d 0x52).pumpColl

/-- REDUCE_SCATTER (R428). -/
def execReduceScatter (d : DescId) (s : State) : Host.Outcome State Fault Refusal :=
  s.run fun s => (s.beginColl d 0x53).pumpColl

/-- ALL_GATHER (R428). -/
def execAllGather (d : DescId) (s : State) : Host.Outcome State Fault Refusal :=
  s.run fun s => (s.beginColl d 0x54).pumpColl

/-- BROADCAST (R428). -/
def execBroadcast (d : DescId) (s : State) : Host.Outcome State Fault Refusal :=
  s.run fun s => (s.beginColl d 0x55).pumpColl

/-- COMP_ALL_REDUCE (R430). -/
def execCompAllReduce (d : DescId) (s : State) : Host.Outcome State Fault Refusal :=
  s.run fun s => (s.beginColl d 0x56).pumpColl

/-- COLL_STEP_START (R426). -/
def execCollStepStart (d : DescId) (env : Env) (s : State) : Host.Outcome State Fault Refusal :=
  s.run fun s => (s.opCollStepStart d env).pumpColl

/-- COLL_STEP_END (R429). -/
def execCollStepEnd (d : DescId) (s : State) : Host.Outcome State Fault Refusal :=
  s.run fun s => (s.opCollStepEnd d).pumpColl

/-- COLL_FLAG_RECEIVED (R429). -/
def execCollFlagReceived (d : DescId) (sender : Nat) (env : Env) (s : State) : Host.Outcome State Fault Refusal :=
  s.run fun s => (s.opCollFlag d sender env).pumpColl

/-- STEP_TIMEOUT_EXPIRY (R431). -/
def execStepTimeoutExpiry (d : DescId) (s : State) : Host.Outcome State Fault Refusal :=
  s.run fun s => (s.opStepTimeout d).pumpColl

end Sys2Proof.Machine
end

