-- ==== Sys2Proof/Machine/ExecLinks.lean ====
section
/-! DEFINITION. Utxon links: the meaning of each frame and event (R351 to R370). -/

namespace Sys2Proof.Machine

/-- LINK_TRAINED (R357). -/
def execLinkTrained (port width : Nat) (s : State) : Host.Outcome State Fault Refusal :=
  s.run fun s => s.opLinkTrained port width

/-- LINK_INFO (R357). -/
def execLinkInfo (port : Nat) (w0 w1 w2 w3 : Word) (s : State) : Host.Outcome State Fault Refusal :=
  s.run fun s => (s.opLinkInfo port w0 w1 w2 w3).fenceIfPeer port

/-- LINK_INFO_RESEND (R357). -/
def execLinkInfoResend (port : Nat) (s : State) : Host.Outcome State Fault Refusal :=
  s.run fun s => s.opLinkInfoResend port

/-- TRAINING_RETRY (R366). -/
def execTrainingRetry (port : Nat) (s : State) : Host.Outcome State Fault Refusal :=
  s.run fun s => s.opTrainingRetry port

/-- MSG (R363). -/
def execMsg (port : Nat) (h : FrameHdr) (ms : List WireMsg) (s : State) : Host.Outcome State Fault Refusal :=
  s.run fun s => s.opMsg port h ms

/-- MSG_C (R356). -/
def execMsgC (port : Nat) (h : FrameHdr) (ms : List CompactMsg) (s : State) : Host.Outcome State Fault Refusal :=
  s.run fun s => s.opMsgC port h ms

/-- ACK_FRAME (R364). -/
def execAckFrame (port : Nat) (h : FrameHdr) (s : State) : Host.Outcome State Fault Refusal :=
  s.run fun s => s.opAckFrame port h

/-- REPLAY_REQ (R364). -/
def execReplayReq (port : Nat) (h : FrameHdr) (s : State) : Host.Outcome State Fault Refusal :=
  s.run fun s => s.opReplayReq port h

/-- LANE (R351). -/
def execLane (port : Nat) (h : FrameHdr) (logical : Nat) (reply : Bool) (cwCount : Nat) (s : State) :
    Host.Outcome State Fault Refusal :=
  s.run fun s => s.opLane port h logical reply cwCount

/-- BAD_FRAME (R363). -/
def execBadFrame (port : Nat) (why : BadFrame) (s : State) : Host.Outcome State Fault Refusal :=
  s.run fun s => s.opBadFrame port why

/-- REPLAY_TIMEOUT (R364). -/
def execReplayTimeout (port : Nat) (s : State) : Host.Outcome State Fault Refusal :=
  s.run fun s => s.opReplayTimeout port

/-- ACK_DELAY_EXPIRY (R364). -/
def execAckDelayExpiry (port : Nat) (s : State) : Host.Outcome State Fault Refusal :=
  s.run fun s => s.opAckDelay port

/-- LANE_FAILURE (R351). -/
def execLaneFailure (port logical : Nat) (s : State) : Host.Outcome State Fault Refusal :=
  s.run fun s => s.opLaneFailure port logical

/-- RETRAIN_START (R367). -/
def execRetrainStart (port : Nat) (s : State) : Host.Outcome State Fault Refusal :=
  s.run fun s => s.startRetrain port true

/-- HOLD_EXPIRY (R370). -/
def execHoldExpiry (port : Nat) (s : State) : Host.Outcome State Fault Refusal :=
  s.run fun s => ((s.opPortHoldExpiry port).sweepHeld).pumpConflicts

/-- UTXON_ENABLE_WRITE (R366). -/
def execUtxonEnableWrite (role : Role) (port value : Nat) (s : State) : Host.Outcome State Fault Refusal :=
  s.run fun s => s.when (decide (port < 24)) fun s => s.rowWrite role (E.utxonEnable port) value

end Sys2Proof.Machine
end

