-- ==== Sys2Proof/Machine/ExecMemory.lean ====
section
/-! DEFINITION. Stacked memory: the meaning of each command (R178 to R195, R499). -/

namespace Sys2Proof.Machine

/-- FULL_STRIPE_HOLD_EXPIRY (R181). -/
def execFullStripeHoldExpiry (stripe : Nat) (s : State) : Host.Outcome State Fault Refusal :=
  s.run fun s => s.opHoldStripe stripe

/-- TEST_ARM_WRITE (R179). -/
def execTestArmWrite (value : Nat) (s : State) : Host.Outcome State Fault Refusal :=
  s.run fun s => s.plainWrite E.eccTestArm value

/-- GROUNDSHEET_BASE_WRITE (R195). -/
def execGroundsheetBaseWrite (value : Nat) (s : State) : Host.Outcome State Fault Refusal :=
  s.run fun s => s.plainWrite E.eccGroundsheetBase value

/-- SCRUB_LINE (R178). -/
def execScrubLine (stack index : Nat) (err : Nat) (s : State) : Host.Outcome State Fault Refusal :=
  s.run fun s => s.opScrub stack index err

/-- CHANNEL_RETIRE (R499). -/
def execChannelRetire (stack channel : Nat) (s : State) : Host.Outcome State Fault Refusal :=
  s.run fun s => s.when (decide (stack < 16) && decide (channel < 32)) fun s => s.writeRetire stack channel

/-- STACK_RETIRE (R183). -/
def execStackRetire (stack : Nat) (s : State) : Host.Outcome State Fault Refusal :=
  s.run fun s => s.when (decide (stack < 16)) fun s => s.opStackRetire stack

/-- REBUILD_LINE (R184). -/
def execRebuildLine (stack index : Nat) (s : State) : Host.Outcome State Fault Refusal :=
  s.run fun s => s.opRebuild stack index

end Sys2Proof.Machine
end

