-- ==== Sys2Proof/Machine/ExecObserv.lean ====
section
/-! DEFINITION. Observability, global stop and the TAP: the meaning of each command (R518 to R533). -/

namespace Sys2Proof.Machine

/-- CLEAR_RANGE (R518). -/
def execClearRange (word : Nat) (s : State) : Host.Outcome State Fault Refusal :=
  s.run fun s => s.plainWrite E.cntClearRange word

/-- LOG_ENTRY_WRITE (R520). -/
def execLogEntryWrite (s : State) : Host.Outcome State Fault Refusal :=
  s.run fun s => s.opLogWrite

/-- LOG_ACK_WRITE (R521). -/
def execLogAckWrite (role : Role) (value : Nat) (s : State) : Host.Outcome State Fault Refusal :=
  s.run fun s => s.rowWrite role E.logLogAck value

/-- LANTERN_ENABLE_WRITE (R523). -/
def execLanternEnableWrite (role : Role) (value : Nat) (s : State) : Host.Outcome State Fault Refusal :=
  s.run fun s => s.rowWrite role E.traceLanternEnable value

/-- SUPERFRAME_SEND (R524). -/
def execSuperframeSend (s : State) : Host.Outcome State Fault Refusal :=
  s.run fun s => s.opSuperframe

/-- SAMPLE_TIMER (R526). -/
def execSampleTimer (s : State) : Host.Outcome State Fault Refusal :=
  s.run fun s => s.opSampleTimer

/-- STOP_NOW (R528). -/
def execStopNow (role : Role) (s : State) : Host.Outcome State Fault Refusal :=
  s.run fun s => s.rowWrite role E.stopStopNow 1

/-- STOP_IN_LOW (R530). -/
def execStopInLow (s : State) : Host.Outcome State Fault Refusal :=
  s.run fun s => s.opStopIn

/-- STOP_CLEAR (R531). -/
def execStopClear (s : State) : Host.Outcome State Fault Refusal :=
  s.run fun s => s.plainWrite E.stopStopClear 1

/-- RESUME (R531). -/
def execResume (s : State) : Host.Outcome State Fault Refusal :=
  s.run fun s => s.plainWrite E.stopResume 1

/-- BYPASS (R533). -/
def execJtagBypass (s : State) : Host.Outcome State Fault Refusal :=
  s.runPin fun s => s.opBypass

/-- IDCODE (R533). -/
def execIdcode (s : State) : Host.Outcome State Fault Refusal :=
  s.runPin fun s => s.opIdcode

/-- SAMPLE_PRELOAD (R533). -/
def execSamplePreload (bits : List Bool) (s : State) : Host.Outcome State Fault Refusal :=
  s.runPin fun s => s.opSamplePreload bits

/-- EXTEST (R533). -/
def execExtest (s : State) : Host.Outcome State Fault Refusal :=
  s.runPin fun s => s.opExtest

/-- HIGHZ (R533). -/
def execHighz (s : State) : Host.Outcome State Fault Refusal :=
  s.runPin fun s => s.opHighz

/-- CLAMP (R533). -/
def execClamp (s : State) : Host.Outcome State Fault Refusal :=
  s.runPin fun s => s.opClamp

/-- STOP_REQ (R528). -/
def execStopReq (s : State) : Host.Outcome State Fault Refusal :=
  s.runPin fun s => s.opStopReq

/-- TAP_RESET (R473). -/
def execTapReset (s : State) : Host.Outcome State Fault Refusal :=
  s.runPin fun s => s.opTapReset

end Sys2Proof.Machine
end

