-- ==== Sys2Proof/Machine/ExecPower.lean ====
section
/-! DEFINITION. Power, reset and bring-up: the meaning of each command (R469 to R485, R541 to R547). -/

namespace Sys2Proof.Machine

/-- POWER_ON (R474). -/
def execPowerOn (boardPos plcaId : Nat) (s : State) : Host.Outcome State Fault Refusal :=
  s.runPin fun s => s.opPowerOn boardPos plcaId

/-- POWER_LOSS (R478). -/
def execPowerLoss (s : State) : Host.Outcome State Fault Refusal :=
  s.runPin fun s => s.opPowerLoss

/-- RESET_N_ASSERTED (R474). -/
def execResetNAsserted (s : State) : Host.Outcome State Fault Refusal :=
  s.runPin fun s => s.opResetAsserted

/-- RESET_N_RELEASED (R471). -/
def execResetNReleased (boardPos plcaId : Nat) (s : State) : Host.Outcome State Fault Refusal :=
  s.runPin fun s => s.opResetReleased boardPos plcaId

/-- WARM_ENTRY_DONE (R475). -/
def execWarmEntryDone (entered : BitVec 16) (s : State) : Host.Outcome State Fault Refusal :=
  s.run fun s => s.opWarmEntryDone entered

/-- PLL_LOCK (R469). -/
def execPllLock (s : State) : Host.Outcome State Fault Refusal :=
  s.run fun s => s.opPllLock

/-- REFCLK_LOSS (R470). -/
def execRefclkLoss (s : State) : Host.Outcome State Fault Refusal :=
  s.run fun s => s.opRefclkLoss

/-- RAIL_FAULT (R543). -/
def execRailFault (rails : BitVec 11) (s : State) : Host.Outcome State Fault Refusal :=
  s.run fun s => s.opRailFault rails

/-- RAIL_IN_RANGE (R543). -/
def execRailInRange (rail : Nat) (s : State) : Host.Outcome State Fault Refusal :=
  s.run fun s => s.opRailInRange rail

/-- THERMAL_EVALUATION (R546). -/
def execThermalEvaluation (logicTemp : Int) (power : Nat) (s : State) : Host.Outcome State Fault Refusal :=
  s.run fun s => s.opThermalEvaluation logicTemp power

/-- THERMAL_TRIP (R547). -/
def execThermalTrip (s : State) : Host.Outcome State Fault Refusal :=
  s.run fun s => s.opThermalTrip

/-- TEMPERATURE_READOUT (R166). -/
def execTemperatureReadout (stack : Nat) (temp : Int) (s : State) : Host.Outcome State Fault Refusal :=
  s.run fun s => s.opTemperature stack temp

/-- REFRESH_ISSUE (R166). -/
def execRefreshIssue (stack channel : Nat) (s : State) : Host.Outcome State Fault Refusal :=
  s.run fun s => s.opRefresh stack channel

/-- REFRESH_MANAGEMENT (R165). -/
def execRefreshManagement (stack : Nat) (s : State) : Host.Outcome State Fault Refusal :=
  s.run fun s => s.opRefreshManagement stack

/-- EMBER_BOOT_DONE (R480). -/
def execEmberBootDone (s : State) : Host.Outcome State Fault Refusal :=
  s.run fun s => s.opEmberBoot

/-- CORE_ENABLE_WRITE (R482). -/
def execCoreEnableWrite (role : Role) (value : Nat) (s : State) : Host.Outcome State Fault Refusal :=
  s.run fun s => s.rowWrite role E.rstCoreEnable value

/-- CORE_ON (R480). -/
def execCoreOn (s : State) : Host.Outcome State Fault Refusal :=
  s.run fun s => s.opCoreOn

/-- RESET_REQUEST_WARM (R477). -/
def execResetRequestWarm (role : Role) (s : State) : Host.Outcome State Fault Refusal :=
  s.run fun s => s.rowWrite role E.rstResetRequest 1

/-- RESET_REQUEST_COLD (R477). -/
def execResetRequestCold (role : Role) (s : State) : Host.Outcome State Fault Refusal :=
  s.run fun s => s.rowWrite role E.rstResetRequest 2

/-- DOMAIN_RESET (R479). -/
def execDomainReset (word : Nat) (s : State) : Host.Outcome State Fault Refusal :=
  s.run fun s => s.plainWrite E.rstDomainReset word

/-- STACK_ENABLE_WRITE (R484). -/
def execStackEnableWrite (role : Role) (bits : BitVec 16) (s : State) : Host.Outcome State Fault Refusal :=
  s.run fun s => s.rowWrite role E.calStackEnable bits.toNat

/-- CALIBRATION_DONE (R483). -/
def execCalibrationDone (stack : Nat) (outcome : CalOutcome) (s : State) : Host.Outcome State Fault Refusal :=
  s.run fun s => s.opCalibrated stack outcome

/-- INIT_PASS_DONE (R175). -/
def execInitPassDone (stack : Nat) (s : State) : Host.Outcome State Fault Refusal :=
  s.run fun s => s.opInitDone stack

/-- BOARD_NUMBER_WRITE (R27). -/
def execBoardNumberWrite (value : Nat) (s : State) : Host.Outcome State Fault Refusal :=
  s.run fun s => s.plainWrite E.idBoardNumber value

/-- REGISTER_WRITE (R443). -/
def execRegisterWrite (role : Role) (item : WriteItem) (s : State) : Host.Outcome State Fault Refusal :=
  s.run fun s => s.itemWrite role item

end Sys2Proof.Machine
end

