-- ==== Sys2Proof/Machine/ExecRegions.lean ====
section
/-! DEFINITION. Regions and pitches: the meaning of each command (R44 to R69, R395). -/

namespace Sys2Proof.Machine

/-- REGION_CREATE (R44). -/
def execRegionCreate (d : DescId) (peer : PeerFit) (s : State) : Host.Outcome State Fault Refusal :=
  s.run fun s => s.opRegionCreate d peer

/-- REGION_SHARE (R54). -/
def execRegionShare (d : DescId) (s : State) : Host.Outcome State Fault Refusal :=
  s.run fun s => s.opRegionShare d

/-- REGION_HANDOVER (R58). -/
def execRegionHandover (d : DescId) (s : State) : Host.Outcome State Fault Refusal :=
  s.run fun s => s.opRegionHandover d

/-- REGION_ACCEPT (R55). -/
def execRegionAccept (d : DescId) (s : State) : Host.Outcome State Fault Refusal :=
  s.run fun s => s.opRegionAccept d

/-- HANDOVER_COMPLETE (R55). -/
def execHandoverComplete (d : DescId) (env : Env) (s : State) : Host.Outcome State Fault Refusal :=
  s.run fun s => s.opHandoverComplete d env

/-- HANDOVER_LIMIT_EXPIRY (R57). -/
def execHandoverLimitExpiry (index : Nat) (s : State) : Host.Outcome State Fault Refusal :=
  s.run fun s => s.opHandoverExpiry index

/-- REGION_HINT (R50). -/
def execRegionHint (d : DescId) (s : State) : Host.Outcome State Fault Refusal :=
  s.run fun s => s.opRegionHint d

/-- REGION_DESTROY (R62). -/
def execRegionDestroy (d : DescId) (s : State) : Host.Outcome State Fault Refusal :=
  s.run fun s => s.opRegionDestroy d

/-- REGION_DESTROY_MESSAGE (R62). -/
def execRegionDestroyMessage (port index originPos originIndex : Nat) (s : State) : Host.Outcome State Fault
    Refusal :=
  s.run fun s => s.opRegionDestroyMessage port index originPos originIndex

/-- CLEAR_REPORT (R62). -/
def execClearReport (port index : Nat) (s : State) : Host.Outcome State Fault Refusal :=
  s.run fun s => s.opClearReport port index

/-- LODGED_DESCRIPTOR_CREATE (R48). -/
def execLodgedDescriptorCreate (port originPos originIndex pages : Nat) (protect : Bool) (rights : Nat) (s :
    State) : Host.Outcome State Fault Refusal :=
  s.run fun s => s.opLodge port originPos originIndex pages protect rights

/-- CLEAR_DONE (R62). -/
def execClearDone (index : Nat) (s : State) : Host.Outcome State Fault Refusal :=
  s.run fun s => s.opClearDone index

/-- CLEAR_LINE (R62). -/
def execClearLine (index line : Nat) (s : State) : Host.Outcome State Fault Refusal :=
  s.run fun s => s.opClearLine index line

/-- PITCH_ACTIVATE (R63). -/
def execPitchActivate (pitch : Nat) (s : State) : Host.Outcome State Fault Refusal :=
  s.run fun s => s.when (wfPitch pitch) fun s => s.plainWrite (E.pitchState pitch) 1

/-- PITCH_QUIESCE (R68). -/
def execPitchQuiesce (pitch : Nat) (s : State) : Host.Outcome State Fault Refusal :=
  s.run fun s => s.when (wfPitch pitch) fun s => s.plainWrite (E.pitchState pitch) 2

/-- DRAIN_LIMIT_EXPIRY (R68). -/
def execDrainLimitExpiry (pitch : Nat) (s : State) : Host.Outcome State Fault Refusal :=
  s.run fun s => (s.opDrainLimit pitch).pumpColl

/-- QUIESCE_DONE (R68). -/
def execQuiesceDone (pitch : Nat) (env : Env) (s : State) : Host.Outcome State Fault Refusal :=
  s.run fun s => s.opQuiesceDone pitch env

/-- PITCH_REVOKE (R65). -/
def execPitchRevoke (pitch : Nat) (s : State) : Host.Outcome State Fault Refusal :=
  s.run fun s => s.when (wfPitch pitch) fun s => (s.plainWrite (E.pitchState pitch) 0).pumpColl

/-- REVOKE_DONE (R65). -/
def execRevokeDone (pitch : Nat) (s : State) : Host.Outcome State Fault Refusal :=
  s.run fun s => s.opRevokeDone pitch

/-- PITCH_RESET (R66). -/
def execPitchReset (pitch : Nat) (s : State) : Host.Outcome State Fault Refusal :=
  s.run fun s => s.when (wfPitch pitch) fun s => (s.plainWrite (ekey (0x4000 + pitch) 0x0C) 1).pumpColl

/-- SERVING_WRITE (R395). -/
def execServingWrite (pitch value : Nat) (s : State) : Host.Outcome State Fault Refusal :=
  s.run fun s => s.when (wfPitch pitch) fun s => s.plainWrite (E.pitchServing pitch) value

end Sys2Proof.Machine
end

