-- ==== Sys2Proof/Machine/ExecRings.lean ====
section
/-! DEFINITION. Rings, translation and the scheduler: the meaning of each command (R76 to R98, R141, R233 to R252). -/

namespace Sys2Proof.Machine

/-- DOORBELL_WRITE (R236). -/
def execDoorbellWrite (r : Req) (s : State) : Host.Outcome State Fault Refusal :=
  s.run fun s => s.request 6 (wordStore r)

/-- RING_CONFIG_WRITE (R239). -/
def execRingConfigWrite (role : Role) (pitch : Nat) (block : List Byte) (s : State) : Host.Outcome State
    Fault Refusal :=
  s.run fun s => s.when (wfPitch pitch) fun s => s.blockWrite role (E.pitchRingConfig pitch) block

/-- DESCRIPTOR_FETCH (R238). -/
def execDescriptorFetch (pitch ring : Nat) (env : Env) (s : State) : Host.Outcome State Fault Refusal :=
  s.run fun s => s.opFetch pitch ring env

/-- WALK_COMPLETE (R76). -/
def execWalkComplete (d : DescId) (env : Env) (s : State) : Host.Outcome State Fault Refusal :=
  s.run fun s => s.opWalkComplete d env

/-- FAULT_HEAD_WRITE (R88). -/
def execFaultHeadWrite (role : Role) (pitch value : Nat) (s : State) : Host.Outcome State Fault Refusal :=
  s.run fun s => s.when (wfPitch pitch) fun s => s.rowWrite role (E.pitchFaultHead pitch) value

/-- RETRY (R90). -/
def execRetry (pitch seq : Nat) (env : Env) (s : State) : Host.Outcome State Fault Refusal :=
  s.run fun s => s.opRetry pitch seq env

/-- MIGRATE_IN (R91). -/
def execMigrateIn (pitch seq : Nat) (env : Env) (s : State) : Host.Outcome State Fault Refusal :=
  s.run fun s => s.opMigrateIn pitch seq env

/-- ABORT (R90). -/
def execAbort (pitch seq : Nat) (env : Env) (s : State) : Host.Outcome State Fault Refusal :=
  s.run fun s => s.opAbort pitch seq env

/-- FAULT_ACTION_DONE (R90). -/
def execFaultActionDone (pitch seq : Nat) (env : Env) (s : State) : Host.Outcome State Fault Refusal :=
  s.run fun s => s.opFaultActionDone pitch seq env

/-- XLATE_INVALIDATE (R93). -/
def execXlateInvalidate (d : DescId) (s : State) : Host.Outcome State Fault Refusal :=
  s.run fun s => s.opXlateInvalidate d

/-- XLATE_INVAL_WRITE (R93). -/
def execXlateInvalWrite (role : Role) (pitch : Nat) (block : List Byte) (s : State) : Host.Outcome State
    Fault Refusal :=
  s.run fun s => s.when (wfPitch pitch) fun s => s.blockWrite role (E.pitchXlateInval pitch) block

/-- INVALIDATION_DONE (R93). -/
def execInvalidationDone (pitch : Nat) (s : State) : Host.Outcome State Fault Refusal :=
  s.run fun s => s.opInvalidationDone pitch

/-- XLATE_ROOT_WRITE (R98). -/
def execXlateRootWrite (role : Role) (pitch value : Nat) (s : State) : Host.Outcome State Fault Refusal :=
  s.run fun s => s.when (wfPitch pitch) fun s => s.rowWrite role (E.pitchXlateRoot pitch) value

/-- FAULT_RING_BASE_WRITE (R98). -/
def execFaultRingBaseWrite (role : Role) (pitch value : Nat) (s : State) : Host.Outcome State Fault Refusal :=
  s.run fun s => s.when (wfPitch pitch) fun s => s.rowWrite role (E.pitchFaultRingBase pitch) value

/-- DISPATCH (R248). -/
def execDispatch (s : State) : Host.Outcome State Fault Refusal :=
  s.run fun s => s.opDispatch

/-- DESCRIPTOR_START (R250). -/
def execDescriptorStart (u : UnitId) (s : State) : Host.Outcome State Fault Refusal :=
  s.run fun s => s.startAt u

/-- DESCRIPTOR_COMPLETE (R252). -/
def execDescriptorComplete (d : DescId) (env : Env) (s : State) : Host.Outcome State Fault Refusal :=
  s.run fun s => (s.opComplete d env).pumpColl

/-- NOP (R243). -/
def execNop (d : DescId) (s : State) : Host.Outcome State Fault Refusal :=
  s.run fun s => s.opNop d

/-- FLUSH_RANGE (R141). -/
def execFlushRange (d : DescId) (env : Env) (s : State) : Host.Outcome State Fault Refusal :=
  s.run fun s => s.opFlushRange d env

/-- FLUSH_RANGE_DONE (R141). -/
def execFlushRangeDone (d : DescId) (s : State) : Host.Outcome State Fault Refusal :=
  s.run fun s => s.opFlushRangeDone d

end Sys2Proof.Machine
end

