-- ==== Sys2Proof/Machine/ExecSearch.lean ====
section
/-! DEFINITION. Vector search: the meaning of each command (R325 to R336). -/

namespace Sys2Proof.Machine

/-- IDX_CREATE (R325). -/
def execIdxCreate (d : DescId) (env : Env) (s : State) : Host.Outcome State Fault Refusal :=
  s.run fun s => s.opIdxCreate d env

/-- IDX_INSERT (R330). -/
def execIdxInsert (d : DescId) (env : Env) (s : State) : Host.Outcome State Fault Refusal :=
  s.run fun s => s.opIdxInsert d env

/-- IDX_DELETE (R332). -/
def execIdxDelete (d : DescId) (env : Env) (s : State) : Host.Outcome State Fault Refusal :=
  s.run fun s => s.opIdxDelete d env

/-- IDX_COMPACT (R333). -/
def execIdxCompact (d : DescId) (env : Env) (s : State) : Host.Outcome State Fault Refusal :=
  s.run fun s => s.opIdxCompact d env

/-- IDX_QUERY (R336). -/
def execIdxQuery (d : DescId) (env : Env) (s : State) : Host.Outcome State Fault Refusal :=
  s.run fun s => s.opIdxQuery d env

/-- IDX_DESTROY (R326). -/
def execIdxDestroy (d : DescId) (s : State) : Host.Outcome State Fault Refusal :=
  s.run fun s => s.opIdxDestroy d

/-- QUERY_SNAPSHOT_FIX (R328). -/
def execQuerySnapshotFix (d : DescId) (s : State) : Host.Outcome State Fault Refusal :=
  s.run fun s => s.opSnapshotFix d

/-- OVF_BUCKET_RETURN (R334). -/
def execOvfBucketReturn (handle : Nat) (env : Env) (s : State) : Host.Outcome State Fault Refusal :=
  s.run fun s => s.opBucketReturn handle env

end Sys2Proof.Machine
end

