-- ==== Sys2Proof/Machine/ExecService.lean ====
section
/-! DEFINITION. Service without stopping: the meaning of each command (R492 to R515). -/

namespace Sys2Proof.Machine

/-- FENCE_BIVOUAC (R495). -/
def execFenceBivouac (unit : Nat) (s : State) : Host.Outcome State Fault Refusal :=
  s.run fun s => s.plainWrite E.procFence (unitWord .bivouac unit)

/-- FENCE_STACK (R500). -/
def execFenceStack (unit : Nat) (s : State) : Host.Outcome State Fault Refusal :=
  s.run fun s => s.plainWrite E.procFence (unitWord .stack unit)

/-- FENCE_UTXON_PORT (R502). -/
def execFenceUtxonPort (unit : Nat) (s : State) : Host.Outcome State Fault Refusal :=
  s.run fun s => s.plainWrite E.procFence (unitWord .utxon unit)

/-- FENCE_HOST_PORT (R503). -/
def execFenceHostPort (unit : Nat) (s : State) : Host.Outcome State Fault Refusal :=
  s.run fun s => s.plainWrite E.procFence (unitWord .host unit)

/-- FENCE_KETTLE_CORE (R505). -/
def execFenceKettleCore (unit : Nat) (s : State) : Host.Outcome State Fault Refusal :=
  s.run fun s => s.plainWrite E.procFence (unitWord .kettle unit)

/-- FENCE_SLICE (R504). -/
def execFenceSlice (unit : Nat) (s : State) : Host.Outcome State Fault Refusal :=
  s.run fun s => s.plainWrite E.procFence (unitWord .slice unit)

/-- FENCE_ENGINE (R506). -/
def execFenceEngine (kind : UnitKind) (unit : Nat) (s : State) : Host.Outcome State Fault Refusal :=
  s.run fun s => s.plainWrite E.procFence (unitWord kind unit)

/-- UNFENCE_BIVOUAC (R498). -/
def execUnfenceBivouac (unit : Nat) (s : State) : Host.Outcome State Fault Refusal :=
  s.run fun s => s.plainWrite E.procUnfence (unitWord .bivouac unit)

/-- UNFENCE_STACK (R500). -/
def execUnfenceStack (unit : Nat) (s : State) : Host.Outcome State Fault Refusal :=
  s.run fun s => s.plainWrite E.procUnfence (unitWord .stack unit)

/-- UNFENCE_PORT (R502). -/
def execUnfencePort (kind : UnitKind) (unit : Nat) (s : State) : Host.Outcome State Fault Refusal :=
  s.run fun s => s.plainWrite E.procUnfence (unitWord kind unit)

/-- UNFENCE_KETTLE_CORE (R505). -/
def execUnfenceKettleCore (unit : Nat) (s : State) : Host.Outcome State Fault Refusal :=
  s.run fun s => s.plainWrite E.procUnfence (unitWord .kettle unit)

/-- UNFENCE_SLICE (R504). -/
def execUnfenceSlice (unit : Nat) (s : State) : Host.Outcome State Fault Refusal :=
  s.run fun s => s.plainWrite E.procUnfence (unitWord .slice unit)

/-- UNFENCE_ENGINE (R492). -/
def execUnfenceEngine (kind : UnitKind) (unit : Nat) (s : State) : Host.Outcome State Fault Refusal :=
  s.run fun s => s.plainWrite E.procUnfence (unitWord kind unit)

/-- SELF_TEST_DONE (R498). -/
def execSelfTestDone (kind : UnitKind) (unit : Nat) (pass : Bool) (s : State) : Host.Outcome State Fault Refusal :=
  s.run fun s => (s.opSelfTest kind unit pass).serveHeld

/-- SWARD_MOVE_DONE (R496). -/
def execSwardMoveDone (phys : Nat) (lost : List Nat) (s : State) : Host.Outcome State Fault Refusal :=
  s.run fun s => s.opSwardMoveDone phys lost

/-- SPARE_FREED (R497). -/
def execSpareFreed (phys : Nat) (s : State) : Host.Outcome State Fault Refusal :=
  s.run fun s => s.opSpareFreed phys

/-- DRAIN_DONE (R493). -/
def execDrainDone (env : Env) (s : State) : Host.Outcome State Fault Refusal :=
  s.run fun s => ((s.opDrainDone env).pumpColl).serveHeld

/-- FENCE_DRAIN_LIMIT_EXPIRY (R493). -/
def execFenceDrainLimitExpiry (s : State) : Host.Outcome State Fault Refusal :=
  s.run fun s => ((s.opDrainLimitEnds).pumpColl).serveHeld

/-- SLICE_FAILURE (R504). -/
def execSliceFailure (phys : Nat) (readable : Bool) (s : State) : Host.Outcome State Fault Refusal :=
  s.run fun s => s.opSliceFailure phys readable

/-- RECAL_WRITE (R501). -/
def execRecalWrite (stack : Nat) (s : State) : Host.Outcome State Fault Refusal :=
  s.run fun s => s.plainWrite E.procRecal stack

/-- RECAL_STEP (R501). -/
def execRecalStep (stack : Nat) (failed : BitVec 32) (s : State) : Host.Outcome State Fault Refusal :=
  s.run fun s => s.opRecalStep stack failed

/-- RECAL_PERIODIC (R501). -/
def execRecalPeriodic (stack : Nat) (s : State) : Host.Outcome State Fault Refusal :=
  s.run fun s => s.opRecalPeriodic stack

/-- AGENT_FENCE_SET (R508). -/
def execAgentFenceSet (agent : Nat) (s : State) : Host.Outcome State Fault Refusal :=
  s.run fun s => s.agentBitWrite agent true

/-- AGENT_FENCE_WALK_DONE (R508). -/
def execAgentFenceWalkDone (agent : Nat) (s : State) : Host.Outcome State Fault Refusal :=
  s.run fun s => s.opFenceWalkDone agent

/-- AGENT_FENCE_CLEAR (R508). -/
def execAgentFenceClear (agent : Nat) (s : State) : Host.Outcome State Fault Refusal :=
  s.run fun s => s.agentBitWrite agent false

/-- AGENT_FENCE_DONE_CLEAR (R515). -/
def execAgentFenceDoneClear (bits : Word) (s : State) : Host.Outcome State Fault Refusal :=
  s.run fun s => s.plainWrite E.fenceAgentFenceDone bits.toNat

/-- PEER_FENCE_WRITE (R509). -/
def execPeerFenceWrite (bits : BitVec 8) (s : State) : Host.Outcome State Fault Refusal :=
  s.run fun s => s.plainWrite E.fencePeerFence bits.toNat

/-- AUDIT_SNAPSHOT_READ (R512). -/
def execAuditSnapshotRead (role : Role) (s : State) : Host.Outcome State Fault Refusal :=
  s.run fun s => s.blockRead role E.auditAuditSnapshot State.takeAudit

/-- DIAG_STATE_READ (R156). -/
def execDiagStateRead (s : State) : Host.Outcome State Fault Refusal :=
  s.run fun s => s.blockRead .fm E.stileDiagState State.takeDiagState

/-- BREAK (R158). -/
def execStileBreak (lock : Nat) (s : State) : Host.Outcome State Fault Refusal :=
  s.run fun s => s.plainWrite E.stileBreak lock

end Sys2Proof.Machine
end

