-- ==== Sys2Proof/Machine/ExecTrail.lean ====
section
/-! DEFINITION. The Trail: the meaning of each command of periods, issue and budgets (R385 to R395). -/

namespace Sys2Proof.Machine

/-- PERIOD_BOUNDARY (R390). -/
def execPeriodBoundary (s : State) : Host.Outcome State Fault Refusal :=
  s.run fun s => s.opPeriodBoundary

/-- CONTROLLER_ISSUE (R387). -/
def execControllerIssue (stack bank : Nat) (err : Nat) (s : State) : Host.Outcome State Fault Refusal :=
  s.run fun s => ((s.opControllerIssue stack bank err).sweepHeld).pumpConflicts

/-- REQUEST_AGED (R389). -/
def execRequestAged (stack id : Nat) (s : State) : Host.Outcome State Fault Refusal :=
  s.run fun s => s.opRequestAged stack id

/-- BUDGET_WRITE (R385). -/
def execBudgetWrite (item : WriteItem) (s : State) : Host.Outcome State Fault Refusal :=
  s.run fun s =>
    s.when (isBudget item.entry) fun s =>
      s.itemWrite (writerOf (ekey item.entry.index item.entry.sub)) item

/-- METER_WRITE (R392). -/
def execMeterWrite (pitch : Nat) (urgent : Bool) (block : List Byte) (s : State) : Host.Outcome State Fault Refusal :=
  s.run fun s =>
    s.when (wfPitch pitch) fun s =>
      s.blockWrite (writerOf (meterEntry pitch urgent)) (meterEntry pitch urgent) block

/-- URGENT_CAP_WRITE (R395). -/
def execUrgentCapWrite (value : Nat) (s : State) : Host.Outcome State Fault Refusal :=
  s.run fun s => s.plainWrite E.trailUrgentCap value

end Sys2Proof.Machine
end

