-- ==== Sys2Proof/Machine/ExecViews.lean ====
section
/-! DEFINITION. Factored views and compression: the meaning of each command (R271 to R291). -/

namespace Sys2Proof.Machine

/-- VIEW_CREATE (R271). -/
def execViewCreate (d : DescId) (env : Env) (s : State) : Host.Outcome State Fault Refusal :=
  s.run fun s => s.opViewCreate d env

/-- VIEW_REFRESH (R280). -/
def execViewRefresh (d : DescId) (env : Env) (s : State) : Host.Outcome State Fault Refusal :=
  s.run fun s => s.opViewRefresh d env

/-- VIEW_MEASURE (R283). -/
def execViewMeasure (d : DescId) (env : Env) (s : State) : Host.Outcome State Fault Refusal :=
  s.run fun s => s.opViewMeasure d env

/-- GRAD_COMPRESS (R286). -/
def execGradCompress (d : DescId) (env : Env) (s : State) : Host.Outcome State Fault Refusal :=
  s.run fun s => s.opGradCompress d env

/-- ACT_PACK (R290). -/
def execActPack (d : DescId) (env : Env) (s : State) : Host.Outcome State Fault Refusal :=
  s.run fun s => s.opActPack d env

/-- ACT_UNPACK (R291). -/
def execActUnpack (d : DescId) (env : Env) (s : State) : Host.Outcome State Fault Refusal :=
  s.run fun s => s.opActUnpack d env

/-- VIEW_READ_SERVE (R275). -/
def execViewReadServe (bracken : Nat) (env : Env) (s : State) : Host.Outcome State Fault Refusal :=
  s.run fun s => ((s.opViewReadServe bracken env).sweepHeld).pumpConflicts

end Sys2Proof.Machine
end

