-- ==== Sys2Proof/Machine/Dispatch.lean ====
section
/-! DEFINITION. The dispatch of commands: one arm per command. -/

namespace Sys2Proof.Machine

/-- The effect of a command on everything but the queue. -/
def exec (i : Instr) (s : State) : Host.Outcome State Fault Refusal :=
  match i with
  | .powerOn boardPos plcaId => Sys2Proof.Machine.execPowerOn boardPos plcaId s
  | .powerLoss => Sys2Proof.Machine.execPowerLoss s
  | .resetNAsserted => Sys2Proof.Machine.execResetNAsserted s
  | .resetNReleased boardPos plcaId => Sys2Proof.Machine.execResetNReleased boardPos plcaId s
  | .warmEntryDone entered => Sys2Proof.Machine.execWarmEntryDone entered s
  | .pllLock => Sys2Proof.Machine.execPllLock s
  | .refclkLoss => Sys2Proof.Machine.execRefclkLoss s
  | .railFault rails => Sys2Proof.Machine.execRailFault rails s
  | .thermalEvaluation logicTemp power => Sys2Proof.Machine.execThermalEvaluation logicTemp power s
  | .thermalTrip => Sys2Proof.Machine.execThermalTrip s
  | .temperatureReadout stack temp => Sys2Proof.Machine.execTemperatureReadout stack temp s
  | .refreshIssue stack channel => Sys2Proof.Machine.execRefreshIssue stack channel s
  | .emberBootDone => Sys2Proof.Machine.execEmberBootDone s
  | .coreEnableWrite role value => Sys2Proof.Machine.execCoreEnableWrite role value s
  | .coreOn => Sys2Proof.Machine.execCoreOn s
  | .resetRequestWarm role => Sys2Proof.Machine.execResetRequestWarm role s
  | .resetRequestCold role => Sys2Proof.Machine.execResetRequestCold role s
  | .domainReset word => Sys2Proof.Machine.execDomainReset word s
  | .stackEnableWrite role bits => Sys2Proof.Machine.execStackEnableWrite role bits s
  | .calibrationDone stack outcome => Sys2Proof.Machine.execCalibrationDone stack outcome s
  | .initPassDone stack => Sys2Proof.Machine.execInitPassDone stack s
  | .boardNumberWrite value => Sys2Proof.Machine.execBoardNumberWrite value s
  | .registerWrite role item => Sys2Proof.Machine.execRegisterWrite role item s
  | .rdShared r => Sys2Proof.Machine.execRdShared r s
  | .rdOwn r => Sys2Proof.Machine.execRdOwn r s
  | .rdNc r => Sys2Proof.Machine.execRdNc r s
  | .upgrade r => Sys2Proof.Machine.execUpgrade r s
  | .wrLine r => Sys2Proof.Machine.execWrLine r s
  | .wrPartial r => Sys2Proof.Machine.execWrPartial r s
  | .wbDirty r => Sys2Proof.Machine.execWbDirty r s
  | .release r => Sys2Proof.Machine.execRelease r s
  | .swap r => Sys2Proof.Machine.execSwap r s
  | .cas r => Sys2Proof.Machine.execCas r s
  | .add r => Sys2Proof.Machine.execAdd r s
  | .andOp r => Sys2Proof.Machine.execAndOp r s
  | .orOp r => Sys2Proof.Machine.execOrOp r s
  | .xorOp r => Sys2Proof.Machine.execXorOp r s
  | .smax r => Sys2Proof.Machine.execSmax r s
  | .smin r => Sys2Proof.Machine.execSmin r s
  | .umax r => Sys2Proof.Machine.execUmax r s
  | .umin r => Sys2Proof.Machine.execUmin r s
  | .fadd r => Sys2Proof.Machine.execFadd r s
  | .stileAcquire r => Sys2Proof.Machine.execStileAcquire r s
  | .stileRenew r => Sys2Proof.Machine.execStileRenew r s
  | .stileRelease r => Sys2Proof.Machine.execStileRelease r s
  | .stileQuery r => Sys2Proof.Machine.execStileQuery r s
  | .reservedOpcodeMessage r opcode => Sys2Proof.Machine.execReservedOpcodeMessage r opcode s
  | .notPresent r => Sys2Proof.Machine.execNotPresent r s
  | .rspI r => Sys2Proof.Machine.execRspI r s
  | .rspS r => Sys2Proof.Machine.execRspS r s
  | .rspKeep r => Sys2Proof.Machine.execRspKeep r s
  | .rspIData r => Sys2Proof.Machine.execRspIData r s
  | .rspSData r => Sys2Proof.Machine.execRspSData r s
  | .rspKeepData r => Sys2Proof.Machine.execRspKeepData r s
  | .dataS r => Sys2Proof.Machine.execDataS r s
  | .dataX r => Sys2Proof.Machine.execDataX r s
  | .dataNc r => Sys2Proof.Machine.execDataNc r s
  | .ackX r => Sys2Proof.Machine.execAckX r s
  | .ack r => Sys2Proof.Machine.execAck r s
  | .nak r => Sys2Proof.Machine.execNak r s
  | .biConflict hostPort line => Sys2Proof.Machine.execBiConflict hostPort line s
  | .meterRedRelease pitch urgent => Sys2Proof.Machine.execMeterRedRelease pitch urgent s
  | .laneOrder slice lane => Sys2Proof.Machine.execLaneOrder slice lane s
  | .directoryLookupDone slice lane ecc => Sys2Proof.Machine.execDirectoryLookupDone slice lane ecc s
  | .holdQueueRelease slice => Sys2Proof.Machine.execHoldQueueRelease slice s
  | .reservationStart slice source => Sys2Proof.Machine.execReservationStart slice source s
  | .reserveLimitExpiry line => Sys2Proof.Machine.execReserveLimitExpiry line s
  | .snoopDeadlineExpiry tag => Sys2Proof.Machine.execSnoopDeadlineExpiry tag s
  | .snoopFinalTimeout tag => Sys2Proof.Machine.execSnoopFinalTimeout tag s
  | .transactionTimeout port tag => Sys2Proof.Machine.execTransactionTimeout port tag s
  | .snoopTagFree tag => Sys2Proof.Machine.execSnoopTagFree tag s
  | .sliceRecallDone phys => Sys2Proof.Machine.execSliceRecallDone phys s
  | .agentNumberWrite port value => Sys2Proof.Machine.execAgentNumberWrite port value s
  | .agentSuspectClear bits => Sys2Proof.Machine.execAgentSuspectClear bits s
  | .doorbellWrite r => Sys2Proof.Machine.execDoorbellWrite r s
  | .ringConfigWrite role pitch block => Sys2Proof.Machine.execRingConfigWrite role pitch block s
  | .descriptorFetch pitch ring env => Sys2Proof.Machine.execDescriptorFetch pitch ring env s
  | .walkComplete d env => Sys2Proof.Machine.execWalkComplete d env s
  | .faultHeadWrite role pitch value => Sys2Proof.Machine.execFaultHeadWrite role pitch value s
  | .retry pitch seq env => Sys2Proof.Machine.execRetry pitch seq env s
  | .migrateIn pitch seq env => Sys2Proof.Machine.execMigrateIn pitch seq env s
  | .abort pitch seq env => Sys2Proof.Machine.execAbort pitch seq env s
  | .faultActionDone pitch seq env => Sys2Proof.Machine.execFaultActionDone pitch seq env s
  | .xlateInvalidate d => Sys2Proof.Machine.execXlateInvalidate d s
  | .xlateInvalWrite role pitch block => Sys2Proof.Machine.execXlateInvalWrite role pitch block s
  | .invalidationDone pitch => Sys2Proof.Machine.execInvalidationDone pitch s
  | .xlateRootWrite role pitch value => Sys2Proof.Machine.execXlateRootWrite role pitch value s
  | .faultRingBaseWrite role pitch value => Sys2Proof.Machine.execFaultRingBaseWrite role pitch value s
  | .dispatch => Sys2Proof.Machine.execDispatch s
  | .descriptorStart u => Sys2Proof.Machine.execDescriptorStart u s
  | .descriptorComplete d env => Sys2Proof.Machine.execDescriptorComplete d env s
  | .nop d => Sys2Proof.Machine.execNop d s
  | .runKernel d part => Sys2Proof.Machine.execRunKernel d part s
  | .flushRange d env => Sys2Proof.Machine.execFlushRange d env s
  | .flushRangeDone d => Sys2Proof.Machine.execFlushRangeDone d s
  | .regionCreate d peer => Sys2Proof.Machine.execRegionCreate d peer s
  | .regionShare d => Sys2Proof.Machine.execRegionShare d s
  | .regionHandover d => Sys2Proof.Machine.execRegionHandover d s
  | .regionAccept d => Sys2Proof.Machine.execRegionAccept d s
  | .handoverComplete d env => Sys2Proof.Machine.execHandoverComplete d env s
  | .handoverLimitExpiry index => Sys2Proof.Machine.execHandoverLimitExpiry index s
  | .regionHint d => Sys2Proof.Machine.execRegionHint d s
  | .regionDestroy d => Sys2Proof.Machine.execRegionDestroy d s
  | .regionDestroyMessage port index originPos originIndex => Sys2Proof.Machine.execRegionDestroyMessage port index originPos originIndex s
  | .clearReport port index => Sys2Proof.Machine.execClearReport port index s
  | .clearDone index => Sys2Proof.Machine.execClearDone index s
  | .clearLine index line => Sys2Proof.Machine.execClearLine index line s
  | .pitchActivate pitch => Sys2Proof.Machine.execPitchActivate pitch s
  | .pitchQuiesce pitch => Sys2Proof.Machine.execPitchQuiesce pitch s
  | .drainLimitExpiry pitch => Sys2Proof.Machine.execDrainLimitExpiry pitch s
  | .quiesceDone pitch env => Sys2Proof.Machine.execQuiesceDone pitch env s
  | .pitchRevoke pitch => Sys2Proof.Machine.execPitchRevoke pitch s
  | .revokeDone pitch => Sys2Proof.Machine.execRevokeDone pitch s
  | .pitchReset pitch => Sys2Proof.Machine.execPitchReset pitch s
  | .servingWrite pitch value => Sys2Proof.Machine.execServingWrite pitch value s
  | .wbEvict biv line env => Sys2Proof.Machine.execWbEvict biv line env s
  | .pegInstruction biv peg env => Sys2Proof.Machine.execPegInstruction biv peg env s
  | .pegAmo biv peg env => Sys2Proof.Machine.execPegAmo biv peg env s
  | .rpCfg biv peg => Sys2Proof.Machine.execRpCfg biv peg s
  | .rpMma biv peg => Sys2Proof.Machine.execRpMma biv peg s
  | .rpZero biv peg => Sys2Proof.Machine.execRpZero biv peg s
  | .rpLoadc biv peg => Sys2Proof.Machine.execRpLoadc biv peg s
  | .rpStore biv peg => Sys2Proof.Machine.execRpStore biv peg s
  | .rpStat biv peg => Sys2Proof.Machine.execRpStat biv peg s
  | .rpFence biv peg => Sys2Proof.Machine.execRpFence biv peg s
  | .ridgepoleEntryStart biv => Sys2Proof.Machine.execRidgepoleEntryStart biv s
  | .amoFaddW biv peg env => Sys2Proof.Machine.execAmoFaddW biv peg env s
  | .stileAcq biv peg env => Sys2Proof.Machine.execStileAcq biv peg env s
  | .stileRenewInsn biv peg env => Sys2Proof.Machine.execStileRenewInsn biv peg env s
  | .stileRel biv peg env => Sys2Proof.Machine.execStileRel biv peg env s
  | .stileQueryInsn biv peg env => Sys2Proof.Machine.execStileQueryInsn biv peg env s
  | .stgWait biv peg => Sys2Proof.Machine.execStgWait biv peg s
  | .stgDone biv peg => Sys2Proof.Machine.execStgDone biv peg s
  | .stgPut biv peg env => Sys2Proof.Machine.execStgPut biv peg env s
  | .pegExit biv peg => Sys2Proof.Machine.execPegExit biv peg s
  | .kernelEnd biv => Sys2Proof.Machine.execKernelEnd biv s
  | .runLimitExpiry biv => Sys2Proof.Machine.execRunLimitExpiry biv s
  | .bufferGrant biv => Sys2Proof.Machine.execBufferGrant biv s
  | .chunkFillDone biv buffer env => Sys2Proof.Machine.execChunkFillDone biv buffer env s
  | .stageFill index biv env => Sys2Proof.Machine.execStageFill index biv env s
  | .bivouacFailure phys => Sys2Proof.Machine.execBivouacFailure phys s
  | .campSyncMarker => Sys2Proof.Machine.execCampSyncMarker s
  | .markerDrive => Sys2Proof.Machine.execMarkerDrive s
  | .markerMissTimeout => Sys2Proof.Machine.execMarkerMissTimeout s
  | .masterMarkerMiss => Sys2Proof.Machine.execMasterMarkerMiss s
  | .timeEnable role => Sys2Proof.Machine.execTimeEnable role s
  | .timeDisable role => Sys2Proof.Machine.execTimeDisable role s
  | .masterPosWrite value => Sys2Proof.Machine.execMasterPosWrite value s
  | .switchAtWrite value => Sys2Proof.Machine.execSwitchAtWrite value s
  | .masterSwitch => Sys2Proof.Machine.execMasterSwitch s
  | .timeFrame port txCount echoTx echoRx lockState valid reply => Sys2Proof.Machine.execTimeFrame port txCount echoTx echoRx lockState valid reply s
  | .viewCreate d env => Sys2Proof.Machine.execViewCreate d env s
  | .viewRefresh d env => Sys2Proof.Machine.execViewRefresh d env s
  | .viewMeasure d env => Sys2Proof.Machine.execViewMeasure d env s
  | .gradCompress d env => Sys2Proof.Machine.execGradCompress d env s
  | .actPack d env => Sys2Proof.Machine.execActPack d env s
  | .actUnpack d env => Sys2Proof.Machine.execActUnpack d env s
  | .viewReadServe bracken env => Sys2Proof.Machine.execViewReadServe bracken env s
  | .embTableCreate d env => Sys2Proof.Machine.execEmbTableCreate d env s
  | .embTableDestroy d => Sys2Proof.Machine.execEmbTableDestroy d s
  | .embGather d env => Sys2Proof.Machine.execEmbGather d env s
  | .embUpdate d env => Sys2Proof.Machine.execEmbUpdate d env s
  | .optStep d env => Sys2Proof.Machine.execOptStep d env s
  | .engineFailure kind e done => Sys2Proof.Machine.execEngineFailure kind e done s
  | .idxCreate d env => Sys2Proof.Machine.execIdxCreate d env s
  | .idxInsert d env => Sys2Proof.Machine.execIdxInsert d env s
  | .idxDelete d env => Sys2Proof.Machine.execIdxDelete d env s
  | .idxCompact d env => Sys2Proof.Machine.execIdxCompact d env s
  | .idxQuery d env => Sys2Proof.Machine.execIdxQuery d env s
  | .idxDestroy d => Sys2Proof.Machine.execIdxDestroy d s
  | .querySnapshotFix d => Sys2Proof.Machine.execQuerySnapshotFix d s
  | .ovfBucketReturn handle env => Sys2Proof.Machine.execOvfBucketReturn handle env s
  | .linkTrained port width => Sys2Proof.Machine.execLinkTrained port width s
  | .linkInfo port w0 w1 w2 w3 => Sys2Proof.Machine.execLinkInfo port w0 w1 w2 w3 s
  | .linkInfoResend port => Sys2Proof.Machine.execLinkInfoResend port s
  | .trainingRetry port => Sys2Proof.Machine.execTrainingRetry port s
  | .msg port h ms => Sys2Proof.Machine.execMsg port h ms s
  | .msgC port h ms => Sys2Proof.Machine.execMsgC port h ms s
  | .ackFrame port h => Sys2Proof.Machine.execAckFrame port h s
  | .replayReq port h => Sys2Proof.Machine.execReplayReq port h s
  | .lane port h logical reply cwCount => Sys2Proof.Machine.execLane port h logical reply cwCount s
  | .badFrame port why => Sys2Proof.Machine.execBadFrame port why s
  | .replayTimeout port => Sys2Proof.Machine.execReplayTimeout port s
  | .ackDelayExpiry port => Sys2Proof.Machine.execAckDelayExpiry port s
  | .laneFailure port logical => Sys2Proof.Machine.execLaneFailure port logical s
  | .retrainStart port => Sys2Proof.Machine.execRetrainStart port s
  | .holdExpiry port => Sys2Proof.Machine.execHoldExpiry port s
  | .utxonEnableWrite role port value => Sys2Proof.Machine.execUtxonEnableWrite role port value s
  | .hostLinkUp port width => Sys2Proof.Machine.execHostLinkUp port width s
  | .hostLinkDown port => Sys2Proof.Machine.execHostLinkDown port s
  | .hostEnableWrite role port value => Sys2Proof.Machine.execHostEnableWrite role port value s
  | .decoderWrite port decoder block => Sys2Proof.Machine.execDecoderWrite port decoder block s
  | .ideKeySet port keySet => Sys2Proof.Machine.execIdeKeySet port keySet s
  | .ideIntegrityFailure port => Sys2Proof.Machine.execIdeIntegrityFailure port s
  | .getEventRecords port => Sys2Proof.Machine.execGetEventRecords port s
  | .clearEventRecords port all handles => Sys2Proof.Machine.execClearEventRecords port all handles s
  | .getFwInfo port => Sys2Proof.Machine.execGetFwInfo port s
  | .transferFw port part => Sys2Proof.Machine.execTransferFw port part s
  | .activateFw port slot online => Sys2Proof.Machine.execActivateFw port slot online s
  | .getTimestamp port => Sys2Proof.Machine.execGetTimestamp port s
  | .setTimestamp port value => Sys2Proof.Machine.execSetTimestamp port value s
  | .getSupportedLogs port => Sys2Proof.Machine.execGetSupportedLogs port s
  | .getLog port => Sys2Proof.Machine.execGetLog port s
  | .identifyMemoryDevice port => Sys2Proof.Machine.execIdentifyMemoryDevice port s
  | .getHealthInfo port => Sys2Proof.Machine.execGetHealthInfo port s
  | .dictAccess port payload => Sys2Proof.Machine.execDictAccess port payload s
  | .kettleMsg port m => Sys2Proof.Machine.execKettleMsg port m s
  | .mailboxUnsupported port opcode => Sys2Proof.Machine.execMailboxUnsupported port opcode s
  | .hello port m => Sys2Proof.Machine.execHello port m s
  | .coreStatus port m => Sys2Proof.Machine.execCoreStatus port m s
  | .coreRestart port m => Sys2Proof.Machine.execCoreRestart port m s
  | .groupList port m => Sys2Proof.Machine.execGroupList port m s
  | .activateWrite role mask => Sys2Proof.Machine.execActivateWrite role mask s
  | .revertWrite role mask => Sys2Proof.Machine.execRevertWrite role mask s
  | .stageImageClosed role path offset data => Sys2Proof.Machine.execStageImageClosed role path offset data s
  | .imageCheckDone => Sys2Proof.Machine.execImageCheckDone s
  | .mgmtTakeoverDone => Sys2Proof.Machine.execMgmtTakeoverDone s
  | .collDrainExpiry => Sys2Proof.Machine.execCollDrainExpiry s
  | .watchdogExpiry core => Sys2Proof.Machine.execWatchdogExpiry core s
  | .coreReloadDone core => Sys2Proof.Machine.execCoreReloadDone core s
  | .collGroupCreate d env => Sys2Proof.Machine.execCollGroupCreate d env s
  | .collGroupDestroy d => Sys2Proof.Machine.execCollGroupDestroy d s
  | .allReduce d => Sys2Proof.Machine.execAllReduce d s
  | .reduceScatter d => Sys2Proof.Machine.execReduceScatter d s
  | .allGather d => Sys2Proof.Machine.execAllGather d s
  | .broadcast d => Sys2Proof.Machine.execBroadcast d s
  | .compAllReduce d => Sys2Proof.Machine.execCompAllReduce d s
  | .collStepStart d env => Sys2Proof.Machine.execCollStepStart d env s
  | .collStepEnd d => Sys2Proof.Machine.execCollStepEnd d s
  | .collFlagReceived d sender env => Sys2Proof.Machine.execCollFlagReceived d sender env s
  | .stepTimeoutExpiry d => Sys2Proof.Machine.execStepTimeoutExpiry d s
  | .mgmtFrame f => Sys2Proof.Machine.execMgmtFrame f s
  | .windowGo r => Sys2Proof.Machine.execWindowGo r s
  | .read path role seq items => Sys2Proof.Machine.execRead path role seq items s
  | .write path role seq items => Sys2Proof.Machine.execWrite path role seq items s
  | .domainRead path role seq entry offset len => Sys2Proof.Machine.execDomainRead path role seq entry offset len s
  | .domainWrite path role seq entry offset last data => Sys2Proof.Machine.execDomainWrite path role seq entry offset last data s
  | .describe path role seq items => Sys2Proof.Machine.execDescribe path role seq items s
  | .domainTimeout path entry => Sys2Proof.Machine.execDomainTimeout path entry s
  | .macAddressWrite value => Sys2Proof.Machine.execMacAddressWrite value s
  | .plcaBeaconLoss => Sys2Proof.Machine.execPlcaBeaconLoss s
  | .revoke key => Sys2Proof.Machine.execRevoke key s
  | .svnFloorWrite cls value => Sys2Proof.Machine.execSvnFloorWrite cls value s
  | .fullStripeHoldExpiry stripe => Sys2Proof.Machine.execFullStripeHoldExpiry stripe s
  | .testArmWrite value => Sys2Proof.Machine.execTestArmWrite value s
  | .groundsheetBaseWrite value => Sys2Proof.Machine.execGroundsheetBaseWrite value s
  | .scrubLine stack index err => Sys2Proof.Machine.execScrubLine stack index err s
  | .channelRetire stack channel => Sys2Proof.Machine.execChannelRetire stack channel s
  | .stackRetire stack => Sys2Proof.Machine.execStackRetire stack s
  | .rebuildLine stack index => Sys2Proof.Machine.execRebuildLine stack index s
  | .periodBoundary => Sys2Proof.Machine.execPeriodBoundary s
  | .controllerIssue stack bank err => Sys2Proof.Machine.execControllerIssue stack bank err s
  | .requestAged stack id => Sys2Proof.Machine.execRequestAged stack id s
  | .budgetWrite item => Sys2Proof.Machine.execBudgetWrite item s
  | .meterWrite pitch urgent block => Sys2Proof.Machine.execMeterWrite pitch urgent block s
  | .urgentCapWrite value => Sys2Proof.Machine.execUrgentCapWrite value s
  | .fenceBivouac unit => Sys2Proof.Machine.execFenceBivouac unit s
  | .swardMoveDone phys lost => Sys2Proof.Machine.execSwardMoveDone phys lost s
  | .spareFreed phys => Sys2Proof.Machine.execSpareFreed phys s
  | .fenceStack unit => Sys2Proof.Machine.execFenceStack unit s
  | .fenceUtxonPort unit => Sys2Proof.Machine.execFenceUtxonPort unit s
  | .fenceHostPort unit => Sys2Proof.Machine.execFenceHostPort unit s
  | .fenceKettleCore unit => Sys2Proof.Machine.execFenceKettleCore unit s
  | .fenceSlice unit => Sys2Proof.Machine.execFenceSlice unit s
  | .fenceEngine kind unit => Sys2Proof.Machine.execFenceEngine kind unit s
  | .unfenceBivouac unit => Sys2Proof.Machine.execUnfenceBivouac unit s
  | .unfenceStack unit => Sys2Proof.Machine.execUnfenceStack unit s
  | .unfencePort kind unit => Sys2Proof.Machine.execUnfencePort kind unit s
  | .unfenceKettleCore unit => Sys2Proof.Machine.execUnfenceKettleCore unit s
  | .unfenceSlice unit => Sys2Proof.Machine.execUnfenceSlice unit s
  | .unfenceEngine kind unit => Sys2Proof.Machine.execUnfenceEngine kind unit s
  | .selfTestDone kind unit pass => Sys2Proof.Machine.execSelfTestDone kind unit pass s
  | .drainDone env => Sys2Proof.Machine.execDrainDone env s
  | .fenceDrainLimitExpiry => Sys2Proof.Machine.execFenceDrainLimitExpiry s
  | .sliceFailure phys readable => Sys2Proof.Machine.execSliceFailure phys readable s
  | .recalWrite stack => Sys2Proof.Machine.execRecalWrite stack s
  | .recalStep stack failed => Sys2Proof.Machine.execRecalStep stack failed s
  | .recalPeriodic stack => Sys2Proof.Machine.execRecalPeriodic stack s
  | .agentFenceSet agent => Sys2Proof.Machine.execAgentFenceSet agent s
  | .agentFenceWalkDone agent => Sys2Proof.Machine.execAgentFenceWalkDone agent s
  | .agentFenceClear agent => Sys2Proof.Machine.execAgentFenceClear agent s
  | .agentFenceDoneClear bits => Sys2Proof.Machine.execAgentFenceDoneClear bits s
  | .peerFenceWrite bits => Sys2Proof.Machine.execPeerFenceWrite bits s
  | .auditSnapshotRead role => Sys2Proof.Machine.execAuditSnapshotRead role s
  | .diagStateRead => Sys2Proof.Machine.execDiagStateRead s
  | .stileBreak lock => Sys2Proof.Machine.execStileBreak lock s
  | .clearRange word => Sys2Proof.Machine.execClearRange word s
  | .logEntryWrite => Sys2Proof.Machine.execLogEntryWrite s
  | .logAckWrite role value => Sys2Proof.Machine.execLogAckWrite role value s
  | .lanternEnableWrite role value => Sys2Proof.Machine.execLanternEnableWrite role value s
  | .superframeSend => Sys2Proof.Machine.execSuperframeSend s
  | .sampleTimer => Sys2Proof.Machine.execSampleTimer s
  | .stopNow role => Sys2Proof.Machine.execStopNow role s
  | .stopInLow => Sys2Proof.Machine.execStopInLow s
  | .stopClear => Sys2Proof.Machine.execStopClear s
  | .resume => Sys2Proof.Machine.execResume s
  | .jtagBypass => Sys2Proof.Machine.execJtagBypass s
  | .idcode => Sys2Proof.Machine.execIdcode s
  | .samplePreload bits => Sys2Proof.Machine.execSamplePreload bits s
  | .extest => Sys2Proof.Machine.execExtest s
  | .highz => Sys2Proof.Machine.execHighz s
  | .clamp => Sys2Proof.Machine.execClamp s
  | .stopReq => Sys2Proof.Machine.execStopReq s
  | .tapReset => Sys2Proof.Machine.execTapReset s
  | .cxlIoCompletion port tag ans env => Sys2Proof.Machine.execCxlIoCompletion port tag ans env s
  | .lodgedDescriptorCreate port originPos originIndex pages protect rights => Sys2Proof.Machine.execLodgedDescriptorCreate port originPos originIndex pages protect rights s
  | .ridgepoleEntryEnd biv => Sys2Proof.Machine.execRidgepoleEntryEnd biv s
  | .plcaBeaconReceived => Sys2Proof.Machine.execPlcaBeaconReceived s
  | .transmitOpportunity => Sys2Proof.Machine.execTransmitOpportunity s
  | .railInRange rail => Sys2Proof.Machine.execRailInRange rail s
  | .refreshManagement stack => Sys2Proof.Machine.execRefreshManagement stack s

end Sys2Proof.Machine
end

