-- ==== Sys2Proof/Machine/Tick.lean ====
section
/-! DEFINITION. One CCLK in which no command arrives: time advances (R254, R259, R469, R489), leases keep their ticks
(R156), the meters fill (R392), and the counts that rise once per CCLK rise. -/

namespace Sys2Proof.Machine

/-! ### Time -/

/-- One Campfire tick: the count advances by one, by none while it is held or corrected down, by two when it is
corrected up (R258, R259). -/
def CampSt.tickCount (c : CampSt) : CampSt :=
  if 0 < c.holdTicks then { c with holdTicks := c.holdTicks - 1 }
  else if c.correction < 0 then { c with correction := c.correction + 1 }
  else if 0 < c.correction then { c with count := c.count + 2, correction := c.correction - 1 }
  else { c with count := c.count + 1 }

/-- One CCLK of time: a tick is two CCLK (R469). -/
def CampSt.cclkTick (c : CampSt) : CampSt :=
  let c := { c with cclk := (c.cclk + 1) % 2 ^ 64, half := !c.half }
  if c.half then c else c.tickCount

/-- Time advances by one CCLK: leases move with a count that does not advance by one (R156), and a marker is high for 8
ticks (R255). -/
def State.advanceTime (s : State) : State :=
  let c := s.camp.cclkTick
  let moved : Int := if c.half then 0 else (c.count : Int) - s.camp.count - 1
  let s := { s with camp := { c with driving := c.driving && decide (c.count < c.lastMarker + 8) } }
  if moved = 0 then s else s.shiftLeases moved

/-! ### Counts of CCLK -/

/-- Every meter fills by one CCLK (R392). -/
def State.fillMeters (s : State) : State :=
  { s with meter := { s.meter with meters := s.meter.meters.map fun e => (e.1, e.2.refill) } }

/-- A parked descriptor is its ring's oldest undispatched one (R83). -/
def State.holdsRing (s : State) (d : Desc) : Bool := d.phase == .parked && d.id.seq == (s.ring d.id.pitch d.id.ring).dispatched

/-- Each pitch with a stalled ring counts one CCLK (R83). -/
def State.countStalls (s : State) : State :=
  let ps := ((s.work.descs.filter s.holdsRing).map fun d => d.id.pitch).eraseDups
  ps.foldl (fun s p => s.bump (E.pitchStallCycles p)) s

/-- What a Bivouac counts in a CCLK: Pegs that wait for a chunk (R223) or for a staged copy (R191), and a Ridgepole that
is busy (R230). -/
def State.countBiv (s : State) (b : Nat) (x : Biv) : State :=
  let s := match x.kernel with
    | some (d, _, _) =>
      let absent := fun (p : Peg) => match p.waiting with
        | some j => !(x.bufs.any fun c => c.desc == d && c.chunk == j && c.present)
        | none => false
      (s.bumpBy (E.pitchOperandStallCycles d.pitch) (x.pegs.filter absent).length).bumpBy
        (E.pitchStageStallCycles d.pitch) ((x.pegs.filter fun p => p.stageWait).length + b2n x.rpWait)
    | none => s
  if x.rpBusy then s.bumpBiv b E.bivRidgepoleBusy 1 else s

/-- The key of an instance's BUSY_CYCLES. -/
def busyKey (k : UnitKind) (e : Nat) : Option Nat :=
  match k with
  | .bracken => some (E.brackenBusyCycles e)
  | .clover => some (E.cloverBusyCycles e)
  | .tinder => some (E.tinderBusyCycles e)
  | .heather => some (E.heatherBusyCycles e)
  | _ => none

/-- Units with a descriptor that runs. -/
def State.busyUnits (s : State) : List UnitId :=
  ((s.work.descs.filter fun d => d.phase == .running).filterMap fun d => d.unit).eraseDups

/-- Each instance and each collective core with work in progress counts one CCLK; a management core counts while it
runs (R294, R318, R346, R436). -/
def State.countBusy (s : State) : State :=
  let s := s.busyUnits.foldl (fun s u =>
    match u with
    | .engine k e => (busyKey k e).elim s s.bump
    | .kettle k => s.bump (E.coreBusyCycles k)
    | _ => s) s
  (List.range 2).foldl (fun s k => if s.core k = 2 then s.bump (E.coreBusyCycles k) else s) s

/-- CCLK with ISSUE_DUTY below 100 (R546). -/
def State.countDuty (s : State) : State :=
  if s.reg E.bivsIssueDuty < 100 then s.bump E.powThrottleCycles else s

/-- One CCLK of the device: nothing moves while it is off or in reset. -/
def State.tick (s : State) : State :=
  if s.running then
    let s := s.markEligible
    let s := s.biv.bivs.foldl (fun s e => s.countBiv e.1 e.2) s.countStalls
    s.countBusy.countDuty.pumpColl.fillMeters.advanceTime
  else s

end Sys2Proof.Machine
end

