-- ==== Sys2Proof/Safety.lean ====
section
/-! DEFINITION. The terms in which statements about the device are made: a command that completes, what a next state
leaves as it was, and the canonical form of every memory. -/

namespace Sys2Proof.Machine

/-- The command answers a next state, and the next state has the property. -/
def Completes (c : Instr) (s : State) (P : State → Prop) : Prop := ∃ t, exec c s = .next t ∧ P t

/-- Nothing but registers has changed, and of these none but those listed. -/
def RegsOnly (ks : List Nat) (s t : State) : Prop :=
  t = { s with regs := t.regs, fuses := s.fuses.programmed } ∧ ∀ k, k ∉ ks → t.reg k = s.reg k

/-- Of the registers none but those listed has changed. -/
def RegsKept (ks : List Nat) (s t : State) : Prop := ∀ k, k ∉ ks → t.reg k = s.reg k

/-- The core domains are on and a management core serves the dictionary, which has been read from reset on. -/
def Served (s : State) : Prop := s.dictUp = true ∧ s.mgmtServes = true

/-! ### Requests that admission takes at once (R34, R59, R391) -/

/-- A command that is a request on a port, with the opcode of R112 that it stands for. -/
abbrev RequestRow := (Req → Instr) × Nat

/-- The requests to a line that R112 lists, WB_DIRTY and the Stile operations apart. -/
def lineRequests : List RequestRow :=
  [(.rdShared, 1), (.rdOwn, 2), (.rdNc, 3), (.upgrade, 4), (.wrLine, 5), (.wrPartial, 6), (.release, 8), (.swap, 0x10),
   (.cas, 0x11), (.add, 0x12), (.andOp, 0x13), (.orOp, 0x14), (.xorOp, 0x15), (.smax, 0x16), (.smin, 0x17),
   (.umax, 0x18), (.umin, 0x19), (.fadd, 0x1A)]

/-- The state that admission meets: the request's flit has been counted. -/
def State.met (s : State) (r : Req) : State := s.front.countFlit r.port

/-- The work item as admission hands it to routing: its priority after the floor of its pitch, and the RESERVE mark. -/
def State.admitted (s : State) (op : Nat) (q : Req) : Work :=
  let p := max q.prio (s.reg (E.pitchPriorityFloor q.pitch))
  let p' := if p = 0 ∧ (s.reg (E.pitchServing q.pitch) = 0 ∨ (s.meterAt (meterKey q.pitch true)).pir = 0) then 1 else p
  if s.fromFardan q.port then { s.newWork op q with prio := p, laneQ := max 1 p }
  else { s.newWork op q with prio := p', laneQ := p', reserve := p' == 0 }

/-- The meter of a request lets it pass in green, and nothing that waits must pass before it (R392, R394). -/
def State.green (s : State) (w : Work) : Prop :=
  let m := s.meterAt (meterKey w.req.pitch (w.prio == 0))
  (isStore w.op = true → s.nakedOf w = []) ∧ (s.fromFardan w.req.port = true ∨
    (s.portHeldBack w.req.port = false ∧ (m.queue.filter Metered.red).length < 64 ∧
      (m.colour (meterBytes w.op)).1 = some .green ∧ (isStore w.op = true → s.storeHeldIn w = none)))

/-- A request of opcode `op` on an UP port passes the agent fence, its meter and the routing to this device; `q` is the
request in the terms of R111. -/
def State.admits (s : State) (op : Nat) (r q : Req) : Prop :=
  s.coreOn = true ∧ s.portUp r.port = true ∧ s.hostMap r = some q ∧ q.addr < 2 ^ 52 ∧
    s.fencedSource (s.sourceOf r.port) = false ∧ s.slotAddr q.addr = false ∧ s.green (s.admitted op q) ∧
    s.routeOf q.addr (s.fromFardan q.port) = .own

/-- The request is one for a line of the local map, and passes the checks of R59. -/
def State.lineRequest (s : State) (q : Req) : Prop :=
  targetOf (bits q.addr 41 0) ∈ [Target.stacked, .view, .sward] ∧ s.agentViolation q = none

/-- A cache-less source's RD_SHARED, RD_OWN and UPGRADE are taken as RD_NC (R101). -/
def Work.converted (w : Work) : Work :=
  if ¬ w.caching ∧ (w.op = 1 ∨ w.op = 2 ∨ w.op = 4) then { w with op := 3 } else w

/-- No BIConflict waits for a response that is owed (R115). -/
def State.noConflicts (s : State) : Prop := ∀ e ∈ s.port.hosts, e.2.conflicts = []

/-- No request waits for a retraining port (R369), and the port holds no message. -/
def State.idleLink (s : State) (n : Nat) : Prop :=
  s.port.retrainWait = [] ∧ (s.link n).egress = [] ∧ (s.link n).replay = []

/-! ### Procedures (R492, R493) -/

/-- A procedure on a unit has begun in state `st`: of the registers only PROC_STATE, PROC_UNIT and those listed have
changed, and nothing else but the mark that its unit has failed. -/
def ProcBegan (k : UnitKind) (u st : Nat) (ks : List Nat) (s t : State) : Prop :=
  t = { s with regs := t.regs, proc := { s.proc with failed := false }, fuses := s.fuses.programmed } ∧
    t.reg E.procProcState = st ∧ t.reg E.procProcUnit = unitWord k u ∧
    RegsKept ([E.procProcState, E.procProcUnit] ++ ks) s t

/-! ### The dictionary and its paths (R376, R445, R448) -/

/-- The value items of a READ whose every entry the role may read. -/
def State.readOut (s : State) (es : List Entry) : List Byte :=
  es.flatMap fun e => padItem (itemHead e (typeOf e.index e.sub) ++ s.readBytes e.index e.sub)

/-- A READ of entries that the role may read, that are served, and whose answer fits its path. -/
def State.readable (s : State) (p : Path) (role : Role) (es : List Entry) : Prop :=
  (∀ e ∈ es, mayRead role e.index e.sub = true) ∧ s.servesAll es = true ∧ 16 + (s.readOut es).length ≤ (pathLimits p).2.1

/-- A management core serves, and the mailbox of an in-service host port takes commands (R376). -/
def State.mailboxOpen (s : State) (n : Nat) : Prop :=
  Served s ∧ n < 4 ∧ s.portServes (.host n) = true

/-- A mailbox command has been answered with a code and a payload, and counted; of the registers only its count and those
listed have changed. -/
def MailboxAnswered (n : Nat) (c : MboxCode) (payload : List Byte) (ks : List Nat) (s t : State) : Prop :=
  t.sent = .mailbox n c.num payload :: s.sent ∧
    t.reg (E.hostMailboxCommands n) = min countMax (s.reg (E.hostMailboxCommands n) + 1) ∧
    RegsKept ([E.hostMailboxCommands n] ++ ks) s t ∧ t.mem = s.mem ∧ t.log = s.log

/-! ### Pins (R463, R473) -/

/-- A command of the power supply, of RESET_N or of the TAP. -/
def PinCommand (c : Instr) : Prop :=
  (∃ b i, c = .powerOn b i ∨ c = .resetNReleased b i) ∨ (∃ bs, c = .samplePreload bs) ∨ c = .powerLoss ∨
    c = .resetNAsserted ∨ c = .jtagBypass ∨ c = .idcode ∨ c = .extest ∨ c = .highz ∨ c = .clamp ∨ c = .stopReq ∨ c = .tapReset

/-! ### Descriptors (R250 to R253) -/

/-- A descriptor of an opcode has started, and its status is open. -/
def State.runs (s : State) (id : DescId) (op : Nat) (d : Desc) : Prop :=
  s.desc id = some d ∧ d.opcode = op ∧ d.phase = .running ∧ d.outcome = none

/-- A descriptor's status is decided. -/
def State.decided (t : State) (id : DescId) (status result : Nat) : Prop :=
  ∃ d, t.desc id = some d ∧ d.phase = .decided ∧ d.outcome = some { status, detail := 0, result }

/-- A descriptor of an opcode runs on engine `e` of kind `k`, which serves, and its status is open. -/
def State.onEngine (s : State) (id : DescId) (op : Nat) (k : UnitKind) (d : Desc) (e : Nat) : Prop :=
  s.front.engineCmd id op k = some (d, e) ∧ d.outcome = none

/-- A command decides a descriptor with a status and a result; memory and the directory are left as `u` has them. -/
def Decides (c : Instr) (s u : State) (id : DescId) (status result : Nat) : Prop :=
  Completes c s fun t => t.decided id status result ∧ t.mem = u.mem ∧ t.dir = u.dir

/-! ### Pegs (R201, R225) -/

/-- Peg `g` of a Bivouac has fetched an instruction: `n` bytes `raw` whose 32-bit form is `i`; the fetch leaves `u`. -/
def State.pegAt (s : State) (env : Env) (b g : Nat) (w : PegWho) (p : Peg) (u : State) (n raw i : Nat) : Prop :=
  s.front.pegContext b g = some (w, p) ∧ s.front.fetchInsn env w p.pc = (u, some (n, raw, some i))

/-- What left the device since, the queue and the pins apart, `t` is `u` but for the Bivouacs. -/
def BivOnly (u s t : State) : Prop :=
  t = { u with
    biv := t.biv, pending := s.pending, sent := u.sent ++ s.sent, jtag := s.jtag
    power := { u.power with resetN := s.power.resetN }, fuses := (s.close u).fuses }

/-- A Bivouac becomes `x`, and nothing else of `u` changes. -/
def BivBecomes (u s t : State) (b : Nat) (x : Biv) : Prop :=
  BivOnly u s t ∧ t.bivAt b = x ∧ ∀ b', b' ≠ b → t.bivAt b' = u.bivAt b'

/-- A Peg becomes `q`, and nothing else of `u` changes. -/
def PegSteps (u s t : State) (b g : Nat) (q : Peg) : Prop :=
  BivBecomes u s t b { u.bivAt b with pegs := (u.bivAt b).pegs.set g q }

/-! ### Pitches (R63 to R66) -/

/-- A pitch has nothing in hand: no held request, descriptor, lock, region or hand-over, and no Bivouac. -/
def State.nothingInHand (s : State) (p : Nat) : Prop :=
  (∀ urgent, (s.meterAt (meterKey p urgent)).queue = []) ∧ s.meter.waiting = [] ∧
    (∀ d ∈ s.work.descs, d.id.pitch ≠ p) ∧ (∀ e ∈ s.stile.locks, ¬ (e.2.held = true ∧ e.2.pitch = p)) ∧
    (∀ e ∈ s.region.table, e.2.owner ≠ p ∧ ¬ (e.2.state = .handover ∧ e.2.parent = p)) ∧
    ∀ b n, b < 512 → s.physOf b = some n → s.reg (E.bivPitch n) ≠ p

/-! ### The canonical form of memory -/

/-- Every table of stacked memory and of the Sward is in canonical form: keys strictly rising, and no entry equal to
what an unlisted key reads as. -/
def Memory.wf (s : State) : Bool :=
  SMap.wf (fun _ => (0 : Byte)) s.mem.bytes && SMap.wf (fun _ => SlotKind.neverWritten) s.mem.kinds &&
    SMap.wf (fun _ => 0) s.mem.errs && SMap.wf (fun _ => (0 : Byte)) s.sward.bytes &&
    SMap.wf (fun _ => false) s.sward.written

end Sys2Proof.Machine
end

