-- ==== Sys2Proof/Certificates/Slice0/Obligations.lean ====
section
/-! DEFINITION. The statements about the device: for every command where it completes and what it does, and what holds of
every step. -/

open Sys2Proof Sys2Proof.Machine

/-- A step runs the command at the front of the queue, and one CCLK passes where none waits; the reset state starts
empty (R7, R175, R189, R381). -/
def Obligations.StepsTakeTheFrontCommandOrOneTick : Prop :=
  (∀ (c : Instr) (s : State), step { s with pending := c :: s.pending } = exec c s) ∧
    (∀ s : State, s.pending = [] → ∃ t, step s = .next t ∧ t.pending = [] ∧
      (s.running = true → t.cclk = (s.cclk + 1) % 2 ^ 64)) ∧
    State.reset.pending = [] ∧ State.reset.sent = [] ∧ Memory.wf State.reset = true

/-- Queued commands all complete in order; no step unsends an output, and a fuse only moves one way (R7, R447, R463,
R465, R473). -/
def Obligations.QueuedCommandsCompleteAndFusesOnlyMoveOneWay : Prop :=
  (∀ (s : State) (cs rest : List Instr), s.pending = cs ++ rest →
    ∃ t, (Sys2Proof.core.run cs.length s : Host.Outcome State Fault Refusal) = .next t ∧ t.pending = rest) ∧
  (∀ s t : State, step s = .next t →
    s.sent <:+ t.sent ∧ t.fuses.serial = s.fuses.serial ∧ t.fuses.dateCode = s.fuses.dateCode ∧
      t.fuses.lifecycle = s.fuses.lifecycle ∧ t.fuses.deviceCert = s.fuses.deviceCert ∧ t.fuses.keys = s.fuses.keys ∧
      (∀ k, t.fuses.keyAt k = s.fuses.keyAt k ∨ t.fuses.keyAt k = 2) ∧ ∀ c, s.fuses.floorAt c ≤ t.fuses.floorAt c) ∧
  ∀ (c : Instr) (s t : State), ¬ PinCommand c → exec c s = .next t →
    t.jtag = s.jtag ∧ t.power.resetN = s.power.resetN

/-- After reset no pitch exists; others become ACTIVE only after pitch 0, which leaves ACTIVE only when they are all
FREE (R64). -/
def Obligations.NoPitchExistsAfterResetAndPitch0ComesFirst : Prop :=
  (∀ p, p < 4096 → State.reset.pitchState p = 0 ∧ ∀ (s : State),
    (∀ b i, s.power.phase = .off → Completes (.powerOn b i) s fun t => t.pitchState p = 0) ∧
    (s.power.phase = .running → s.power.resetN = true → s.reg E.rstPinResetKind = 0 →
      Completes .resetNAsserted s fun t => t.pitchState p = 0) ∧
    ∀ e, s.power.phase = .warmEntry → Completes (.warmEntryDone e) s fun t => t.pitchState p = 0) ∧
  ∀ s : State, Served s →
    (∀ p, p < 4096 → p ≠ 0 → s.pitchState 0 ≠ 1 → Completes (.pitchActivate p) s fun t =>
      RegsOnly [E.mgmtWritesIgnored] s t ∧ ∀ q, q < 4096 → t.pitchState q = s.pitchState q) ∧
    (s.pitchState 0 = 1 → s.kettle.draining = false → ∀ q, q < 4096 → q ≠ 0 → s.pitchState q ≠ 0 → ∀ c ∈ [Instr.pitchQuiesce 0, .pitchRevoke 0],
      Completes c s fun t => RegsOnly [E.mgmtWritesIgnored] s t ∧ t.pitchState 0 = 1) ∧
    (s.pitchState 0 = 1 → (∀ e ∈ s.regs, ∀ q, q < 4096 → q ≠ 0 → e.1 = E.pitchState q → e.2 = 0) →
      (s.region.table.any fun e => e.2.state == .handover && (e.2.owner == 0 || e.2.parent == 0)) = false →
      Completes (.pitchQuiesce 0) s fun t => RegsOnly [E.pitchState 0] s t ∧ t.pitchState 0 = 3)

/-- A write of BOARD_NUMBER takes effect only while no pitch other than pitch 0 exists (R27). -/
def Obligations.BoardNumberMovesOnlyWhileNoOtherPitchExists : Prop :=
  ∀ (s : State) (v : Nat), s.servesEntry 0x1000 0x22 = true →
    (v ≤ 127 → (∀ e ∈ s.regs, ∀ q, q < 4096 → q ≠ 0 → e.1 = E.pitchState q → e.2 = 0) →
      Completes (.boardNumberWrite v) s fun t => RegsOnly [E.idBoardNumber] s t ∧ t.reg E.idBoardNumber = v) ∧
    ∀ q, q < 4096 → q ≠ 0 → s.pitchState q ≠ 0 → Completes (.boardNumberWrite v) s fun t =>
      RegsOnly [E.mgmtWritesIgnored] s t ∧ t.reg E.idBoardNumber = s.reg E.idBoardNumber ∧ t.deviceNumber = s.deviceNumber

/-- POWER_ON and POWER_LOSS reset everything but the fuses, and POWER_ON samples the straps (R23, R447, R464, R474,
R478, R480). -/
def Obligations.PowerUpResetsAllButFuses : Prop :=
  ∀ s : State,
    (∀ pos plca, s.power.phase = .off → Completes (.powerOn pos plca) s fun t =>
      t = { State.reset with
            pending := s.pending, fuses := s.fuses.programmed, regs := t.regs, sent := s.sent, freeCount := s.freeCount } ∧
        t.reg E.idBoardPos = pos % 8 ∧ t.reg E.idPlcaId = plca % 16 ∧
        t.reg E.mgmtMacAddress = 0x465202 + plca % 16 * 2 ^ 40 ∧
        RegsKept [E.idBoardPos, E.idPlcaId, E.mgmtMacAddress] State.reset t) ∧
    Completes .powerLoss s fun t =>
      t = { State.reset with
            pending := s.pending, power := { PowerSt.init with phase := .off, resetN := false },
            fuses := s.fuses.programmed, regs := [], sent := s.sent, freeCount := s.freeCount }

/-- RESET_N asserted on a running device starts a cold reset or a warm entry by PIN_RESET_KIND (R471, R474, R475,
R476, R490). -/
def Obligations.ResetPinStartsItsKindOfReset : Prop :=
  ∀ s : State, s.power.phase = .running → s.power.resetN = true →
    (s.reg E.rstPinResetKind = 0 → Completes .resetNAsserted s fun t =>
      t.power.phase = .held ∧ t.power.resetN = false ∧ t.power.cause = 1 ∧ t.power.kept = 0 ∧ t.mem = MemSt.init ∧
        t.log = { queue := [], ring := [] } ∧ t.region = RegionSt.init ∧ t.work = WorkSt.init ∧ t.dir = DirSt.init ∧
        t.fuses = s.fuses.programmed ∧
        ∀ k, t.reg k = if keptCold k || isLive k then s.reg k else entryDflt k) ∧
    (s.reg E.rstPinResetKind = 1 → Completes .resetNAsserted s fun t =>
      t = { s with
            power := { s.power with phase := .warmEntry, resetN := false, cause := 2 }
            dict := { s.dict with held := [], armed := [], resetPending := none }
            fuses := s.fuses.programmed })

/-- RESET_N released, PLL lock and a rail back in range each end the internal reset when nothing else holds it (R23,
R254, R470, R471, R490, R543). -/
def Obligations.InternalResetEndsOnItsConditions : Prop :=
  ∀ s : State, s.power.phase = .held →
    (∀ pos plca, s.power.resetN = false →
      Completes (.resetNReleased pos plca) s fun t =>
        t.power.resetN = true ∧ t.reg E.idBoardPos = pos % 8 ∧ t.reg E.idPlcaId = plca % 16 ∧ t.mem = s.mem ∧ t.dir = s.dir ∧
          (s.reg E.clkPllState = 2 → s.power.railsOut = 0 → (s.power.tripHold && s.power.sensorHot) = false →
            t.power.phase = .running ∧ t.reg E.rstLastReset = s.power.cause ∧ t.reg E.rstContentsKept = s.power.kept) ∧
          (s.reg E.clkPllState ≠ 2 → t.power.phase = .held)) ∧
    (s.reg E.clkPllState ≠ 2 → s.power.resetN = true → s.power.railHold = false → s.power.tripHold = false →
      s.power.railsOut = 0 → Completes .pllLock s fun t =>
        t.power.phase = .running ∧ t.reg E.clkPllState = 2 ∧ t.reg E.clkRefclkPresent = 1 ∧
          t.reg E.rstLastReset = s.power.cause ∧ t.reg E.rstContentsKept = s.power.kept ∧ t.mem = s.mem ∧ t.dir = s.dir) ∧
    (∀ rail, s.power.railsOut = 2 ^ rail → s.power.resetN = true → s.power.railHold = false → s.power.tripHold = false →
      s.reg E.clkPllState = 2 → Completes (.railInRange rail) s fun t =>
        t.power.phase = .running ∧ t.power.railsOut = 0 ∧ t.reg E.powRailStatus = s.reg E.powRailStatus ||| 2 ^ rail ∧
          t.reg E.rstLastReset = s.power.cause ∧ t.reg E.rstContentsKept = s.power.kept ∧ t.mem = s.mem ∧ t.dir = s.dir)

/-- REFCLK loss, a rail fault and the thermal trip take a running device out of service (R470, R475, R522, R543,
R547). -/
def Obligations.ClockRailAndTripStopTheDevice : Prop :=
  ∀ s : State, s.power.phase = .running →
    (s.reg E.clkPllState = 2 → Completes .refclkLoss s fun t =>
      t.power.phase = .warmEntry ∧ t.power.cause = 5 ∧ t.power.lossAt = s.now ∧ t.reg E.clkPllState = 3 ∧
        t.reg E.clkRefclkPresent = 0 ∧ t.reg E.clkPllLockLosses = min countMax (s.reg E.clkPllLockLosses + 1) ∧
        RegsKept [E.clkPllState, E.clkRefclkPresent, E.clkPllLockLosses] s t ∧ t.mem = s.mem ∧ t.dir = s.dir) ∧
    (∀ rails : BitVec 11, rails ≠ 0 → Completes (.railFault rails) s fun t =>
      t.reg E.powRailFaultLast = rails.toNat ∧ t.power.railHold = true ∧
        t.power.railsOut = s.power.railsOut ||| rails.toNat ∧
        (rails.toNat &&& keepRails = 0 → t.power.phase = .warmEntry ∧ t.mem = s.mem ∧
          RegsKept [E.powRailFaultLast, E.powRailStatus] s t) ∧
        (rails.toNat &&& keepRails ≠ 0 → t.power.phase = .held ∧ t.mem = MemSt.init ∧ t.power.kept = 0)) ∧
    (s.power.tripHold = false → Completes .thermalTrip s fun t =>
      t.power.phase = .warmEntry ∧ t.power.thermTripN = false ∧ t.power.tripHold = true ∧
        t.reg E.powThermalTrips = min countMax (s.reg E.powThermalTrips + 1) ∧
        RegsKept [E.powThermalTrips] s t ∧ t.mem = s.mem ∧ t.dir = s.dir)

/-- The end of the warm entry completes accepted writes, keeps the parked stacks and resets the rest (R175, R182,
R475, R476, R490). -/
def Obligations.WarmEntryKeepsParkedStacks : Prop :=
  ∀ (s : State) (entered : BitVec 16), s.power.phase = .warmEntry →
    let w := s.front.completeWrites
    let kept := w.parkedStacks entered
    Completes (.warmEntryDone entered) s fun t =>
      t.mem = w.mem.keepStacks kept ∧ t.dir = DirSt.init ∧ t.region = RegionSt.init ∧ t.work = WorkSt.init ∧
        t.trail = State.reset.trail ∧ t.biv = State.reset.biv ∧
        (w.power.resetN = false → t.power.phase = .held ∧ t.power.kept = kept ∧
          ∀ k, t.reg k = SMap.get entryDflt (w.keptRegs true) k) ∧
        (w.power.resetN = true → w.power.railHold = false → w.power.tripHold = false → w.power.railsOut = 0 →
          (w.halt true kept).reg E.clkPllState = 2 →
          t.power.phase = .running ∧ t.reg E.rstContentsKept = kept)

/-- Temperatures, refresh and ISSUE_DUTY move as the readings say (R165, R166, R546). -/
def Obligations.TemperaturesAndRefreshFollowTheStacks : Prop :=
  ∀ s : State,
    (∀ st temp, s.coreOn = true → st < 16 → s.stackState st ≠ 0 → Completes (.temperatureReadout st temp) s fun t =>
      t.reg (E.stackTemperature st) = uns 32 temp ∧
        t.reg (E.stackRefreshInterval st) = (if temp ≤ 85 then 3900 else 1950) ∧
        RegsOnly [E.stackTemperature st, E.stackRefreshInterval st, E.powHbmTempMax] s t) ∧
    (∀ st ch, s.coreOn = true → (s.stackState st = 2 ∨ s.stackState st = 3) →
      bitOf (s.reg (E.stackRetiredChannels st)) ch = false → Completes (.refreshIssue st ch) s fun t =>
        t = { s with power := { s.power with refreshes := s.power.refreshes + 1 }, fuses := s.fuses.programmed }) ∧
    (∀ st, s.coreOn = true → (s.stackState st = 2 ∨ s.stackState st = 3) →
      Completes (.refreshManagement st) s fun t =>
        t = { s with power := { s.power with refreshMgmt := s.power.refreshMgmt + 1 }, fuses := s.fuses.programmed }) ∧
    ∀ (logic : Int) (power : Nat), s.running = true →
      let hot := (s.reg E.powThrottleC : Int) ≤ logic ∨ 95 ≤ sgn 32 (s.reg E.powHbmTempMax) ∨ s.reg E.powPowerCap < power
      let cool := logic < (s.reg E.powThrottleC : Int) - 5 ∧ sgn 32 (s.reg E.powHbmTempMax) < 90 ∧
        power + 50 ≤ s.reg E.powPowerCap
      Completes (.thermalEvaluation logic power) s fun t =>
        t.reg E.powLogicTempMax = uns 32 logic ∧ t.reg E.powPowerEstimate = min power 65535 ∧
          t.reg E.bivsIssueDuty =
            (if hot then (if 25 < s.reg E.bivsIssueDuty then s.reg E.bivsIssueDuty - 5 else s.reg E.bivsIssueDuty)
            else if cool ∧ s.reg E.bivsIssueDuty < 100 ∧ s.power.dutyChange + msCclk 1 ≤ s.cclk
              then s.reg E.bivsIssueDuty + 5 else s.reg E.bivsIssueDuty) ∧
          RegsKept [E.powLogicTempMax, E.powPowerEstimate, E.bivsIssueDuty] s t ∧ t.mem = s.mem ∧ t.dir = s.dir

/-- Ember's boot, CORE_ENABLE, the core domains, BOARD_NUMBER and STACK_ENABLE take their steps (R25, R27, R480,
R481, R482, R484). -/
def Obligations.BootAndCoreDomainsComeUp : Prop :=
  ∀ s : State,
    (s.running = true → s.power.emberUp = false → Completes .emberBootDone s fun t =>
      t = { s with power := { s.power with emberUp := true }, regs := t.regs, fuses := s.fuses.programmed } ∧
        t.reg E.mgmtPlcaStatus = (if s.reg E.idPlcaId = 0 then 0 else 1) ∧ RegsKept [E.mgmtPlcaStatus] s t) ∧
    (∀ role v, s.servesEntry 0x2100 1 = true → mayWrite role 0x2100 1 = true → Completes (.coreEnableWrite role v) s fun t =>
      if v = 1 then
        RegsOnly [E.rstCoreEnable, E.rstCoreState] s t ∧ t.reg E.rstCoreEnable = 1 ∧
          t.reg E.rstCoreState = (if s.reg E.rstCoreState = 0 then 1 else s.reg E.rstCoreState)
      else RegsOnly [E.mgmtWritesIgnored] s t ∧
        t.reg E.mgmtWritesIgnored = min countMax (s.reg E.mgmtWritesIgnored + 1)) ∧
    (s.running = true → s.reg E.rstCoreState = 1 → Completes .coreOn s fun t =>
      RegsOnly [E.rstCoreState] s t ∧ t.reg E.rstCoreState = 2) ∧
    (∀ v, v ≤ 255 → s.servesEntry 0x1000 0x22 = true → Completes (.boardNumberWrite v) s fun t =>
      if (s.regs.any fun e => decide (0x4000 < e.1 / 256) && decide (e.1 / 256 < 0x5000) && e.1 % 256 == 1 && e.2 != 0) then
        RegsOnly [E.mgmtWritesIgnored] s t ∧ t.reg E.mgmtWritesIgnored = min countMax (s.reg E.mgmtWritesIgnored + 1)
      else RegsOnly [E.idBoardNumber] s t ∧ t.reg E.idBoardNumber = v % 128) ∧
    ∀ role st, st < 16 → s.servesEntry 0x2101 1 = true → mayWrite role 0x2101 1 = true → s.coreOn = true →
      s.stackState st = 0 → s.power.calQueue = [] → s.reg E.calCalActive = 0xFF →
      Completes (.stackEnableWrite role (BitVec.ofNat 16 (2 ^ st))) s fun t =>
        RegsOnly [E.calStackEnable, E.stackState st, E.calCalActive] s t ∧
          t.reg E.calStackEnable = s.reg E.calStackEnable ||| 2 ^ st ∧ t.stackState st = 1 ∧ t.reg E.calCalActive = st

/-- The end of a stack's calibration and of its init pass move it on by what the pass found (R175, R390, R476, R483,
R484, R485, R500). -/
def Obligations.CalibrationAndInitPassBringStacksIntoService : Prop :=
  ∀ (s : State) (st : Nat), s.coreOn = true → st < 16 →
    (∀ o, s.reg E.procProcState ≠ 4 → s.reg E.calCalActive = st → s.stackState st = 1 →
      Completes (.calibrationDone st o) s fun t =>
        t.reg (E.calCalResult st) = (match o with
          | .pass => if s.calKept st then 2 else 1
          | .channelsFail _ => 1
          | .stackFail => 3) ∧
        (o = .pass → t.mem = s.mem ∧ t.stackState st = (if s.calKept st then 3 else 2))) ∧
    (s.stackState st = 2 → Completes (.initPassDone st) s fun t =>
      t.stackState st = 3 ∧
        (∀ slot, slot / stackSlots = st → t.slotKind slot = .neverWritten ∧ t.slotErr slot = 0) ∧
        (∀ slot, slot / stackSlots ≠ st → t.slotKind slot = s.slotKind slot ∧ t.slotData slot = s.slotData slot) ∧
        RegsKept [E.stackState st] s t ∧ t.dir = s.dir)

/-- RESET_REQUEST takes two writes of one value by one role within 1 s (R475, R477, R474, R490). -/
def Obligations.ResetRequestNeedsTwoWrites : Prop :=
  ∀ (s : State) (role : Role), s.servesEntry 0x2100 4 = true → mayWrite role 0x2100 4 = true → s.owes = false →
    let armed := fun v => s.dict.armed.any fun a => decide (s.cclk ≤ a.time + msCclk 1000) &&
      (a.role == role && a.key == E.rstResetRequest && a.value == v)
    (armed 1 = false → Completes (.resetRequestWarm role) s fun t =>
      t = { s with dict := { s.dict with armed := t.dict.armed }, fuses := s.fuses.programmed } ∧
        t.dict.armed.any (fun a => a.role == role && a.key == E.rstResetRequest && a.value == 1 && a.time == s.cclk)) ∧
    (armed 1 = true → Completes (.resetRequestWarm role) s fun t =>
      t.power.phase = .warmEntry ∧ t.power.cause = 4 ∧ RegsKept [] s t ∧ t.mem = s.mem ∧ t.dir = s.dir) ∧
    (armed 2 = false → Completes (.resetRequestCold role) s fun t =>
      t = { s with dict := { s.dict with armed := t.dict.armed }, fuses := s.fuses.programmed } ∧
        t.dict.armed.any (fun a => a.role == role && a.key == E.rstResetRequest && a.value == 2 && a.time == s.cclk)) ∧
    (armed 2 = true → Completes (.resetRequestCold role) s fun t =>
      t.power.cause = 3 ∧ t.mem = MemSt.init ∧ t.dir = DirSt.init ∧ t.power.kept = 0 ∧ t.power.emberUp = false)

/-- A dictionary write without the right changes nothing but a violation count, and a bad type only WRITES_IGNORED
(R438, R440, R441, R442, R443, R444, R445). -/
def Obligations.DictionaryWritesHoldTheirRights : Prop :=
  ∀ (s : State) (role : Role) (w : WriteItem), s.servesEntry w.entry.index w.entry.sub = true → w.entry.sub < 256 →
    (mayWrite role w.entry.index w.entry.sub = false → Completes (.registerWrite role w) s fun t =>
      RegsOnly [E.violDictDenied] s t ∧ t.reg E.violDictDenied = min countMax (s.reg E.violDictDenied + 1)) ∧
    (mayWrite role w.entry.index w.entry.sub = true → w.type ≠ typeOf w.entry.index w.entry.sub →
      Completes (.registerWrite role w) s fun t =>
        RegsOnly [E.mgmtWritesIgnored] s t ∧
          t.reg E.mgmtWritesIgnored = min countMax (s.reg E.mgmtWritesIgnored + 1)) ∧
    (mayWrite role w.entry.index w.entry.sub = true → w.type = typeOf w.entry.index w.entry.sub →
      ekey w.entry.index w.entry.sub ∈ [E.powThrottleC, E.powPowerCap, E.traceTracePitch, E.dirDiagLine] →
      ((entryRow w.entry.index w.entry.sub).any fun r => inRange w.value r.vmin r.vmax) = true →
      Completes (.registerWrite role w) s fun t =>
        RegsOnly [ekey w.entry.index w.entry.sub] s t ∧ t.reg (ekey w.entry.index w.entry.sub) = w.value)

/-- DOMAIN_RESET turns a fenced unit off and ignores one that is in service (R479, R491, R499). -/
def Obligations.DomainResetTakesFencedUnitsOff : Prop :=
  ∀ (s : State) (k : UnitKind) (u : Nat), s.coreOn = true → s.servesEntry 0x2100 8 = true → u < 65536 →
    ((u < kindNumber k ∧ (s.reg (kindState k u) = kindFenced k ∨ (k ≠ .stack ∧ kindFailed k = some (s.reg (kindState k u))))) →
      Completes (.domainReset (unitWord k u)) s fun t =>
        t.reg (kindState k u) = 0 ∧ t.reg E.rstDomainResets = min countMax (s.reg E.rstDomainResets + 1) ∧
          t.dir = s.dir ∧ t.mem.bytes = s.mem.bytes) ∧
    (¬(u < kindNumber k ∧ (s.reg (kindState k u) = kindFenced k ∨ (k ≠ .stack ∧ kindFailed k = some (s.reg (kindState k u))))) →
      Completes (.domainReset (unitWord k u)) s fun t =>
        RegsOnly [E.mgmtWritesIgnored] s t ∧ t.reg E.mgmtWritesIgnored = min countMax (s.reg E.mgmtWritesIgnored + 1))

/-- Every request to a line that admission takes at once enters its home lane with its source, priority and age
(R32, R34, R59, R101, R107, R108, R112, R391, R393). -/
def Obligations.LineRequestsEnterTheirLane : Prop :=
  ∀ p ∈ lineRequests, ∀ (s : State) (r q : Req), (s.met r).admits p.2 r q → (s.met r).lineRequest q →
    Completes (p.1 r) s fun t =>
      t.dir = { s.dir with
                nextAge := s.dir.nextAge + 1
                queued := s.dir.queued ++
                  [{ ((s.met r).admitted p.2 q).converted with line := bits q.addr 41 0 / 64 }] } ∧
        t.trail = s.trail ∧ t.mem = s.mem ∧ t.sward = s.sward ∧ t.region = s.region ∧ t.stile = s.stile

/-- A request outside every region, of a dead pitch, of a class not allowed or of a fenced agent changes no line
(R34, R59, R61, R508, R512). -/
def Obligations.UnadmittedRequestsAreSilentViolations : Prop :=
  ∀ p ∈ lineRequests, ∀ (s : State) (r q : Req),
    ((s.met r).coreOn = true → (s.met r).portUp r.port = true → (s.met r).hostMap r = some q → q.addr < 2 ^ 52 →
      (s.met r).fencedSource ((s.met r).sourceOf r.port) = true → Completes (p.1 r) s fun t =>
        t.dir = { s.dir with nextAge := s.dir.nextAge + 1 } ∧ t.trail = s.trail ∧ t.mem = s.mem ∧
          t.reg E.violFencedSource = min countMax (s.reg E.violFencedSource + 1)) ∧
    (∀ k, (s.met r).admits p.2 r q → targetOf (bits q.addr 41 0) ∈ [Target.stacked, .view, .sward] →
      (s.met r).agentViolation q = some k → Completes (p.1 r) s fun t =>
        t.dir = { s.dir with nextAge := s.dir.nextAge + 1 } ∧ t.trail = s.trail ∧ t.mem = s.mem ∧
          t.reg k = min countMax (s.reg k + 1))

/-- Acquire, renew, release and query in the Stile window act on their lock as its holder may (R151, R152, R154,
R155, R156, R157, R162). -/
def Obligations.StileRequestsOperateTheirLock : Prop :=
  ∀ (s : State) (r q : Req) (op : Nat), (s.met r).admits op r q → targetOf (bits q.addr 41 0) = .stile →
    (s.met r).mayOperate q.pitch (bits q.addr 21 6) = true → q.offset = 0 → q.width = 0 →
    let k := bits q.addr 21 6
    let l := s.lock k
    let src := (s.met r).sourceOf r.port
    let ticks := (s.met r).leaseUs (q.opLo.toNat % 2 ^ 32) * 800
    let same := fun (t : State) => (∀ j, j ≠ k → t.lock j = s.lock j) ∧ t.dir.entries = s.dir.entries ∧ t.mem = s.mem
    let mine := l.heldBy q.pitch src q.holderTag = true ∧ s.now < l.leaseEnd
    (op = 0x1C → l.held = false → l.leaseEnd = 0 → Completes (.stileAcquire r) s fun t =>
      t.lock k = { l with held := true, pitch := q.pitch, source := src, tag := q.holderTag, leaseEnd := s.now + ticks,
                          generation := (l.generation + 1) % 2 ^ 32, leaseTicks := ticks } ∧ same t) ∧
    (op = 0x1D → mine → Completes (.stileRenew r) s fun t =>
      t.lock k = { l with leaseEnd := s.now + ticks, leaseTicks := ticks } ∧ same t) ∧
    (op = 0x1E → mine → Completes (.stileRelease r) s fun t =>
      t.lock k = { l with held := false, pitch := 0, source := 0, tag := 0, leaseEnd := 0,
                          broken := l.broken && !q.opLo.toNat.testBit 32 } ∧ same t) ∧
    (op = 0x1F → l.held = true → s.now < l.leaseEnd → Completes (.stileQuery r) s fun t => t.lock k = l ∧ same t)

/-- A WB_DIRTY of a line's owner gives up or keeps its copy by KEEP and queues the line's data for its stack (R103,
R113, R114, R116, R124, R388). -/
def Obligations.WritebacksOfTheOwnerReachMemory : Prop :=
  ∀ s : State,
    (∀ r q, s.front.memWrByNonOwner r = false →
      let m := s.met r
      let w := m.newWork 7 q
      let ln := bits q.addr 41 0 / 64
      m.coreOn = true → m.portUp r.port = true → m.hostMap r = some q → q.addr < 2 ^ 52 → m.fencedSource w.src = false →
      m.routeOf q.addr (m.fromFardan q.port) = .own → targetOf (bits q.addr 41 0) = .stacked → m.agentViolation q = none →
      (s.dir.trans.find? fun t => t.line == ln && t.waiting.contains w.src) = none → w.caching = true → q.keep < 3 →
      m.writeRefused ln = false →
      (∃ e, s.entry ln = some e ∧ e.state = .x ∧ e.owner = w.src ∧ e.resv = none) → Completes (.wbDirty r) s fun t =>
        t.trail.queue = s.trail.queue ++
            [{ id := s.trail.nextId, line := ln, kind := .write fullMask q.data, req := q, prio := q.prio, reserve := false,
               free := true, directory := false, arrived := s.cclk, aged := false, reply := none }] ∧
          (t.entry ln).map DirEntry.state = (match q.keep with
            | 0 => none
            | 1 => some .s
            | _ => some .x) ∧ t.mem = s.mem) ∧
    (∀ r op, s.coreOn = true → s.portUp r.port = true → reservedOpcode op = true →
      let off := bits r.addr 41 0
      let k := if bits r.addr 51 42 = (s.met r).deviceNumber ∧ targetOf off = .stile then E.stileStileErrors
        else E.sliceProtocolErrors ((s.met r).countSlice (homeSlice (off / 64)))
      Completes (.reservedOpcodeMessage r op) s fun t =>
        t.dir = s.dir ∧ t.trail = s.trail ∧ t.mem = s.mem ∧ t.reg k = min countMax (s.reg k + 1)) ∧
    ∀ n ln, s.coreOn = true → s.portUp (.host n) = true →
      (s.responsesOwed (.host n) ln = false →
        Completes (.biConflict n ln) s fun t => t.sent = .biConflictAck n ln :: s.sent ∧ t.dir = s.dir ∧ t.mem = s.mem) ∧
      (s.responsesOwed (.host n) ln = true → Completes (.biConflict n ln) s fun t =>
        t.sent = s.sent ∧ t.dir = s.dir ∧ t.mem = s.mem ∧
          (SMap.get (fun _ => ({} : HostPort)) t.port.hosts n).conflicts =
            (SMap.get (fun _ => ({} : HostPort)) s.port.hosts n).conflicts ++ [ln])

/-- LANE_ORDER starts the lookup of the arbiter's choice, and every lookup and held request that is decided leaves
its queue (R106, R107, R116, R119, R128, R130). -/
def Obligations.LanesOrderAndLookupsEnd : Prop :=
  ∀ (s : State) (slice lane : Nat),
    (∀ w, s.servingSlice slice ≠ none → s.meter.waiting = [] →
      argMin (fun w => (w.laneQ * 2 + if s.reservedSlot w then 0 else 1) * 2 ^ 64 + w.age)
        ((s.laneQueue slice lane).filter s.orderable) = some w → Completes (.laneOrder slice lane) s fun t =>
      t.dir = { s.dir with
                queued := removeFirst (fun x => x.age == w.age) s.dir.queued
                lookups := s.dir.lookups ++ [w]
                recent := t.dir.recent } ∧
        (slice * 16 + lane, w.line, s.cclk) ∈ t.dir.recent ∧ t.mem = s.mem ∧ t.trail = s.trail) ∧
    (∀ ecc w, (s.dir.lookups.find? fun w => homeSlice w.line == slice && homeLane w.line == lane) = some w →
      Completes (.directoryLookupDone slice lane ecc) s fun t =>
        t.dir.lookups = removeFirst (fun x => x.age == w.age) s.dir.lookups ∧
          (ecc = .good → w.op = 3 → targetOf (w.line * 64) = .stacked → s.transOf w.line = none → s.entry w.line = none →
            s.readRefused w.line = false → (s.ownSlice (homeSlice w.line)).isSome = true →
            t.trail.queue = s.trail.queue ++
              [{ accessOf w .read (some (replyOf w 0x3A)) with id := s.trail.nextId, arrived := s.cclk }] ∧
            t.dir.entries = s.dir.entries ∧ t.dir.trans = s.dir.trans ∧ t.mem = s.mem)) ∧
    ∀ w, argMin (fun w => (if w.prio = 0 then 0 else 1) * 2 ^ 64 + w.age) 
        ((s.heldOf slice).filter s.mayRelease) = some w →
      w.op = 3 → targetOf (w.line * 64) = .stacked → s.entry w.line = none → s.readRefused w.line = false →
      (s.ownSlice (homeSlice w.line)).isSome = true → Completes (.holdQueueRelease slice) s fun t =>
        t.dir.hold = removeFirst (fun x => x.age == w.age) s.dir.hold ∧
          t.trail.queue = s.trail.queue ++
            [{ accessOf w .read (some (replyOf w 0x3A)) with id := s.trail.nextId, arrived := s.cclk }] ∧
          t.dir.entries = s.dir.entries ∧ t.mem = s.mem

/-- A caching agent's ordered request for an unheld line makes it a sharer or the owner and reads memory (R101,
R109, R110, R116, R129). -/
def Obligations.UnheldLinesAreGrantedByTheTable : Prop :=
  ∀ (s : State) (slice lane : Nat) (w : Work),
    (s.dir.lookups.find? fun w => homeSlice w.line == slice && homeLane w.line == lane) = some w →
    w.op ∈ [1, 2, 4] → w.caching = true → w.src < 64 → targetOf (w.line * 64) = .stacked → s.transOf w.line = none →
    s.entry w.line = none → (s.ownSlice (homeSlice w.line)).isSome = true → s.sliceRecalling w.line = false →
    (s.setEntries w.line).length < 16 → s.readRefused w.line = false →
    Completes (.directoryLookupDone slice lane .good) s fun t =>
      t.entry w.line = some { sharers := agentBit w.src, state := if w.op = 1 then .s else .x,
                              owner := if w.op = 1 then 0 else w.src, resv := none, resvOn := false,
                              used := s.dir.nextAge + 1 } ∧
        (∀ ln, ln ≠ w.line → t.entry ln = s.entry ln) ∧
        t.trail.queue = s.trail.queue ++
          [{ accessOf w .read (some (replyOf w (dataRsp w.op))) with id := s.trail.nextId, arrived := s.cclk }] ∧
        t.mem = s.mem

/-- A request for a line that another agent owns begins a transition with a snoop of the table's kind to the owner
(R112, R116, R118, R128). -/
def Obligations.HeldLinesAreSnooped : Prop :=
  ∀ (s : State) (slice lane : Nat) (w : Work) (e : DirEntry) (tag : Nat),
    (s.dir.lookups.find? fun w => homeSlice w.line == slice && homeLane w.line == lane) = some w →
    w.op ∈ [1, 2, 3, 4, 5, 6] → targetOf (w.line * 64) = .stacked → s.transOf w.line = none → s.entry w.line = some e →
    e.state = .x → e.resv = none → e.resvOn = false → (s.ownSlice (homeSlice w.line)).isSome = true →
    ¬ (w.caching = true ∧ e.owner = w.src) → s.freeTag (homeSlice w.line) = some tag →
    Completes (.directoryLookupDone slice lane .good) s fun t =>
      t.dir.trans = s.dir.trans ++
          [{ line := w.line, tag, snoop := if w.op = 1 then 0x20 else if w.op = 3 then 0x22 else 0x21, work := some w,
             waiting := [e.owner], data := none, keptS := false, keptX := false, dirtyKept := false, poisoned := false,
             repeated := false, fromX := true }] ∧
        t.mem = s.mem ∧ t.trail = s.trail

/-- Each snoop response is taken into the transition of its tag, and the last one ends it and cools the tag (R112,
R113, R118, R126, R128). -/
def Obligations.SnoopAnswersReachTheirTransition : Prop :=
  ∀ p ∈ ([(.notPresent, .notPresent), (.rspI, .rspI), (.rspS, .rspS), (.rspKeep, .rspKeep), (.rspIData, .rspIData),
      (.rspSData, .rspSData), (.rspKeepData, .rspKeepData)] : List ((SnpRsp → Instr) × SnpKind)),
    ∀ (s : State) (r : SnpRsp),
    let m := s.front.countFlit r.port
    let hit := s.dir.trans.find? fun t => t.tag == r.tag && t.waiting.contains (m.portAgent r.port)
    (∀ x, m.portUp r.port = true → m.coreOn = true → hit = some x →
      (takeAnswer x (m.portAgent r.port) p.2 r.data).waiting ≠ [] → Completes (p.1 r) s fun t =>
        t.dir = { s.dir with trans := s.dir.trans.map fun y =>
                    if y.tag = r.tag then takeAnswer x (m.portAgent r.port) p.2 r.data else y } ∧
          t.mem = s.mem ∧ t.trail = s.trail) ∧
    (∀ x, m.portUp r.port = true → m.coreOn = true → hit = some x →
      (takeAnswer x (m.portAgent r.port) p.2 r.data).waiting = [] → Completes (p.1 r) s fun t =>
        t.dir.trans = s.dir.trans.filter (fun y => y.tag != r.tag) ∧ t.dir.cooling = s.dir.cooling ++ [r.tag]) ∧
    (m.portUp r.port = true → m.coreOn = true → hit = none → Completes (p.1 r) s fun t =>
      t.dir = s.dir ∧ t.mem = s.mem ∧ t.trail = s.trail ∧
        let k := E.sliceLateResponses (m.countSlice (r.tag / 2048 % 32))
        t.reg k = min countMax (m.reg k + 1))

/-- A snoop's first deadline repeats it, its last ends the transition, and a cooled tag is free again (R126, R128,
R133, R104, R129). -/
def Obligations.SnoopDeadlinesRepeatThenEndATransition : Prop :=
  ∀ (s : State) (tag : Nat),
    (∀ x, (s.dir.trans.find? fun t => t.tag == tag && !t.repeated) = some x → x.waiting ≠ [] →
      Completes (.snoopDeadlineExpiry tag) s fun t =>
        t.dir = { s.dir with trans := s.dir.trans.map fun y => if y.tag = tag then { x with repeated := true } else y } ∧
          t.mem = s.mem ∧ t.trail = s.trail) ∧
    (∀ x, (s.dir.trans.find? fun t => t.tag == tag && t.repeated) = some x → Completes (.snoopFinalTimeout tag) s fun t =>
      t.dir.trans = s.dir.trans.filter (fun y => y.tag != tag) ∧ t.dir.cooling = s.dir.cooling ++ [tag]) ∧
    Completes (.snoopTagFree tag) s fun t =>
      t = { s with dir := { s.dir with cooling := s.dir.cooling.filter (· != tag) }, fuses := s.fuses.programmed }

/-- A starved source reserves its line until it is ordered or the limit passes, and a red request is released (R107,
R121, R122, R392, R394). -/
def Obligations.ReservationsStartAndEnd : Prop :=
  ∀ s : State,
    (∀ slice src x, (s.dir.trackers.find? fun t => t.slice == slice && t.src == src && t.count == 16) = some x →
      (∀ e, s.entry x.line = some e → e.resv = none → e.state ≠ .i → Completes (.reservationStart slice src) s fun t =>
        t.entry x.line = some { e with resv := some src, resvOn := s.stable x.line } ∧
          (∀ ln, ln ≠ x.line → t.entry ln = s.entry ln) ∧ t.mem = s.mem) ∧
      (s.entry x.line = none → (s.setEntries x.line).length < 16 → Completes (.reservationStart slice src) s fun t =>
        t.entry x.line = some { noEntry with resv := some src, resvOn := true, used := s.dir.nextAge } ∧
          (∀ ln, ln ≠ x.line → t.entry ln = s.entry ln) ∧ t.mem = s.mem)) ∧
    (∀ ln e, s.entry ln = some e → e.resvOn = true → Completes (.reserveLimitExpiry ln) s fun t =>
      t.entry ln = (if e.state = .i then none else some { e with resv := none, resvOn := false }) ∧
        (∀ j, j ≠ ln → t.entry j = s.entry j) ∧ t.mem = s.mem) ∧
    ∀ pitch urgent q rest, (s.meterAt (meterKey pitch urgent)).queue = q :: rest → rest.takeWhile (fun x => !x.red) = [] →
      ((s.meterAt (meterKey pitch urgent)).pir = 0 ∨
        meterBytes q.work.op * 1024 ≤ (s.meterAt (meterKey pitch urgent)).tp) → s.meter.waiting = [] →
      (isStore q.work.op = true → s.nakedOf q.work = []) →
      s.routeOf q.work.req.addr (s.fromFardan q.work.req.port) = .own → s.lineRequest q.work.req →
      Completes (.meterRedRelease pitch urgent) s fun t =>
        (t.meterAt (meterKey pitch urgent)).queue = rest ∧
          (t.meterAt (meterKey pitch urgent)).tp =
            (s.meterAt (meterKey pitch urgent)).tp - meterBytes q.work.op * 1024 ∧
          t.dir = { s.dir with queued := s.dir.queued ++
                      [{ (coloured q.work urgent .released).converted with line := bits q.work.req.addr 41 0 / 64 }] } ∧
          t.mem = s.mem ∧ t.trail = s.trail

/-- A whole-line write of an unprotected line is read back, and no other line of the plain part changes (R167, R170,
R172, R174, R382). -/
def Obligations.MemoryReadsBackWhatWasWritten : Prop :=
  ∀ (s : State) (ln st k slot : Nat) (d : Line) (err : Nat), s.home ln = .plain st k → s.place st k = .here slot →
    s.reg E.eccTestArm = 0 →
    let m := s.writeLine ln fullMask d err
    m.ok = true ∧ m.cost = [(slot / stackSlots, 1)] ∧ (m.s.readLine ln 0).ok = true ∧ (m.s.readLine ln 0).data = d ∧
      ∀ x, x ≠ slot → m.s.slotKind x = s.slotKind x ∧ m.s.slotData x = s.slotData x ∧ m.s.slotErr x = s.slotErr x

/-- Every command of stacked memory and of power leaves the memory tables canonical (R36, R172, R174, R175, R180,
R181, R184, R188, R189, R475). -/
def Obligations.MemoryCommandsKeepTheCanonicalForm : Prop :=
  ∀ s : State, Memory.wf s = true →
    ∀ c : Instr, (match c with
      | .powerOn _ _ | .powerLoss | .initPassDone _ | .scrubLine _ _ _ | .rebuildLine _ _ | .channelRetire _ _
      | .stackRetire _ | .clearLine _ _ | .fullStripeHoldExpiry _ | .controllerIssue _ _ _ | .periodBoundary => True
      | _ => False) → Completes c s fun t => Memory.wf t = true

/-- Scrubbing corrects a word, a retired channel holds nothing, and a relocated slot is poisoned until written
(R178, R179, R181, R183, R184, R187, R193, R195, R499). -/
def Obligations.RepairCommandsActOnTheirSlots : Prop :=
  ∀ s : State,
    (∀ stripe, Completes (.fullStripeHoldExpiry stripe) s fun t =>
      t.trail.gather = s.trail.gather.filter fun g => g.1 != stripe) ∧
    (∀ st k err d, s.coreOn = true → s.stackState st = 3 → s.unitRetired st k = false → s.slotStale st k = false →
      s.readSlot (slotOf st k) err = .corrected d → Completes (.scrubLine st k err) s fun t =>
        t.slotKind (slotOf st k) = .codeword ∧ t.slotData (slotOf st k) = d ∧ t.slotErr (slotOf st k) = 0 ∧
          ∀ x, x ≠ slotOf st k → t.slotKind x = s.slotKind x ∧ t.slotData x = s.slotData x) ∧
    (∀ st ch, st < 16 → ch < 32 → s.stackState st ≠ 5 → bitOf (s.reg (E.stackRetiredChannels st)) ch = false →
      Completes (.channelRetire st ch) s fun t =>
        t.reg (E.stackRetiredChannels st) = s.reg (E.stackRetiredChannels st) + 2 ^ ch ∧
          (∀ x, x / stackSlots = st → channelOf (x % stackSlots) = ch → t.slotKind x = .neverWritten) ∧
          ∀ x, x / stackSlots ≠ st → t.slotKind x = s.slotKind x ∧ t.slotData x = s.slotData x) ∧
    (∀ st, s.coreOn = true → st < 16 → s.stackState st ≠ 5 → Completes (.stackRetire st) s fun t =>
      t.stackState st = 5 ∧ (∀ x, x / stackSlots = st → t.slotKind x = .neverWritten) ∧
        ∀ x, x / stackSlots ≠ st → t.slotKind x = s.slotKind x ∧ t.slotData x = s.slotData x) ∧
    ∀ st k slot, s.coreOn = true → s.unitRetired st k = true → k < s.protBase / 16 →
      SMap.get (fun _ => 0) s.mem.reloc (slotOf st k) = 0 → s.nextGoodSlot false = some slot →
      s.systemFits 2 (s.reg E.eccRebuildSlots) [(slot / stackSlots, 1)] = true → Completes (.rebuildLine st k) s fun t =>
        SMap.get (fun _ => 0) t.mem.reloc (slotOf st k) = slot + 1 ∧ t.slotKind slot = .poisoned ∧
          ∀ x, x ≠ slot → t.slotKind x = s.slotKind x ∧ t.slotData x = s.slotData x

/-- TEST_ARM, GROUNDSHEET_BASE, budgets, meters and URGENT_CAP take what their rules allow and ignore the rest
(R133, R179, R195, R385, R386, R392, R395, R396, R402, R443). -/
def Obligations.ProtectionEntriesBindTheirWrites : Prop :=
  ∀ s : State, Served s →
    let ignored := fun t => RegsOnly [E.mgmtWritesIgnored] s t ∧
      t.reg E.mgmtWritesIgnored = min countMax (s.reg E.mgmtWritesIgnored + 1)
    (∀ v, v ≤ 1 → Completes (.testArmWrite v) s fun t => RegsOnly [E.eccTestArm] s t ∧ t.reg E.eccTestArm = v) ∧
    (∀ v, v < 2 ^ 64 → Completes (.groundsheetBaseWrite v) s fun t =>
      if v % 0x400000000 = 0 ∧ v ≤ 0x10000000000 ∧
          ((List.range 16).all fun st => s.stackState st != 5 && s.reg (E.stackRetiredChannels st) == 0) = true ∧
          s.regionFrom (min v (s.reg E.eccGroundsheetBase) / 65536) = false then
        RegsOnly [E.eccGroundsheetBase, E.eccProtectedBytes] s t ∧ t.reg E.eccGroundsheetBase = v ∧
          t.reg E.eccProtectedBytes = (0x10000000000 - v) / 16 * 15
      else ignored t) ∧
    (∀ w : WriteItem, ∀ r : ERow, isBudget w.entry = true → w.entry.sub ≠ 0 → w.entry.sub < 256 →
      entryRow w.entry.index w.entry.sub = some r → w.type = r.ty → r.ty ≠ 9 → r.ty ≠ 10 →
      inRange w.value r.vmin r.vmax = true →
      mayWrite (writerOf (ekey w.entry.index w.entry.sub)) w.entry.index w.entry.sub = true →
      (w.entry.index / 0x1000 = 4 → s.reg (E.pitchServing (w.entry.index - 0x4000)) = 1) →
      Completes (.budgetWrite w) s fun t =>
        if s.budgetFits (s.setReg (ekey w.entry.index w.entry.sub) w.value) then
          RegsOnly [ekey w.entry.index w.entry.sub] s t ∧ t.reg (ekey w.entry.index w.entry.sub) = w.value
        else ignored t) ∧
    (∀ v, v < 2 ^ 32 → Completes (.urgentCapWrite v) s fun t =>
      if v ≤ 4000000 ∧ s.urgentSum s.serves ≤ v then RegsOnly [E.trailUrgentCap] s t ∧ t.reg E.trailUrgentCap = v
      else ignored t) ∧
    ∀ pitch urgent block, pitch < 4096 → block.length = 16 → (meterOf block []).legal = true →
      (urgent = true → (s.setMeter (meterKey pitch true)
        (meterOf block (s.meterAt (meterKey pitch true)).queue)).urgentSum s.serves ≤ s.reg E.trailUrgentCap) →
      Completes (.meterWrite pitch urgent block) s fun t =>
        t.meterAt (meterKey pitch urgent) = meterOf block (s.meterAt (meterKey pitch urgent)).queue ∧
          (∀ k, k ≠ meterKey pitch urgent → t.meterAt k = s.meterAt k) ∧ RegsKept [] s t ∧ t.mem = s.mem ∧ t.dir = s.dir

/-- A period boundary balances every stack's books, and the controller issues the access that precedence chooses
(R381, R382, R383, R387, R389, R390, R399). -/
def Obligations.PeriodsCloseAndControllersIssue : Prop :=
  ∀ s : State,
    (Completes .periodBoundary s fun t =>
      t.reg E.trailPeriods = min countMax (s.reg E.trailPeriods + 1) ∧ t.mem = s.mem ∧ t.dir = s.dir ∧
        t.trail.queue = s.trail.queue ∧
        ∀ st < 16, s.stackState st = 3 →
          let x := s.trailOf st
          x.refresh + x.carried + x.reserve + x.cls + x.overrun + x.system + x.borrowed ≤ x.slots →
          sumBy id ((t.trailOf st).book.drop 1) = x.slots ∧ (t.trailOf st).book.headD 0 = x.slots) ∧
    (∀ st bank err a c, (s.trailOf st).left ≠ 0 → s.nextIssue st bank = some (a, c) →
      Completes (.controllerIssue st bank err) s fun t =>
        (∀ x ∈ t.trail.queue, x.id ≠ a.id) ∧
          (∀ d x k slot, a.kind = .write fullMask d → s.home a.line = .plain x k → s.place x k = .here slot →
            s.reg E.eccTestArm = 0 →
            t.slotKind slot = .codeword ∧ t.slotData slot = d ∧ t.slotErr slot = 0 ∧
              ∀ y, y ≠ slot → t.slotKind y = s.slotKind y ∧ t.slotData y = s.slotData y)) ∧
    ∀ st id, Completes (.requestAged st id) s fun t =>
      t = { s with
            trail := { s.trail with queue := s.trail.queue.map fun a =>
              if a.id = id ∧ (s.accessHome a.line).1 = st then { a with aged := true } else a }
            fuses := s.fuses.programmed }

/-- FENCE of a unit that may leave service begins its procedure, and is ignored while another runs (R492, R493,
R495, R500, R502, R503, R504, R505, R506). -/
def Obligations.FenceBeginsTheProcedureOfItsUnit : Prop :=
  ∀ (s : State) (u : Nat), s.coreOn = true → s.servesEntry 0x9000 1 = true → u < 65536 →
    let begins := fun (c : Instr) (k : UnitKind) => Completes c s fun t => ProcBegan k u 2 [] s t
    (s.procBusy = false →
      (u < 528 → inRange (s.unitState .bivouac u) 1 3 = true →
        s.proc.moves.any (fun m => m.old == u || m.spare == u) = false → begins (.fenceBivouac u) .bivouac) ∧
      (u < 16 → s.stackState u = 3 →
        (List.range 16).any (fun x => x != u && (s.stackState x == 4 || s.stackState x == 5)) = false →
        s.relocPending = 0 → s.mem.exposed = [] → begins (.fenceStack u) .stack) ∧
      (u < 24 → s.reg (E.utxonState u) ≠ 0 → s.reg (E.utxonState u) ≠ 6 → begins (.fenceUtxonPort u) .utxon) ∧
      (u < 4 → s.reg (E.hostState u) ≠ 0 → s.reg (E.hostState u) ≠ 4 → begins (.fenceHostPort u) .host) ∧
      (2 ≤ u → u < 8 → s.core u = 2 → begins (.fenceKettleCore u) .kettle) ∧
      (u < 2 → s.core u = 2 → s.core (1 - u) = 3 → Completes (.fenceKettleCore u) s fun t =>
        t.reg E.procProcState = 3 ∧ t.reg E.procProcUnit = unitWord .kettle u ∧ t.kettle.takeover = some (1 - u) ∧
          t.mem = s.mem ∧ t.dir = s.dir) ∧
      (u < 33 → s.reg (E.sliceState u) = 1 → s.reg E.dirSpareState = 0 → Completes (.fenceSlice u) s fun t =>
        ProcBegan .slice u 2 [E.sliceState u] s t ∧ t.reg (E.sliceState u) = 2) ∧
      ∀ k, k ∈ [UnitKind.bracken, .clover, .tinder, .heather] → u < kindNumber k → s.reg (kindState k u) = 1 →
        (List.range (kindNumber k)).any (fun x => x != u && s.engineServes k x) = true → begins (.fenceEngine k u) k) ∧
    (s.procBusy = true →
      ∀ c, c ∈ [Instr.fenceBivouac u, .fenceStack u, .fenceUtxonPort u, .fenceHostPort u, .fenceKettleCore u, .fenceSlice u,
          .fenceEngine .bracken u, .fenceEngine .clover u, .fenceEngine .tinder u, .fenceEngine .heather u] →
        Completes c s fun t => RegsOnly [E.mgmtWritesIgnored] s t ∧
          t.reg E.mgmtWritesIgnored = min countMax (s.reg E.mgmtWritesIgnored + 1))

/-- UNFENCE of a fenced or off unit begins its self-test, verification, load or training (R366, R483, R492, R498,
R500, R502, R503, R504, R505, R506). -/
def Obligations.UnfenceBeginsTheReturnOfItsUnit : Prop :=
  ∀ (s : State) (u : Nat), s.coreOn = true → s.servesEntry 0x9000 2 = true → u < 65536 →
    let begins := fun (c : Instr) (k : UnitKind) => Completes c s fun t => ProcBegan k u 4 [] s t
    (s.procBusy = false →
      (u < 528 → (s.reg (E.bivState u) = 4 ∨ s.reg (E.bivState u) = 0) → begins (.unfenceBivouac u) .bivouac) ∧
      (u < 16 → s.stackState u = 4 → begins (.unfenceStack u) .stack) ∧
      (u < 33 → (s.reg (E.sliceState u) = 3 ∨ s.reg (E.sliceState u) = 0) → begins (.unfenceSlice u) .slice) ∧
      (∀ k, k ∈ [UnitKind.bracken, .clover, .tinder, .heather] → u < kindNumber k →
        (s.reg (kindState k u) = 2 ∨ s.reg (kindState k u) = 0) → begins (.unfenceEngine k u) k) ∧
      (u < 8 → (s.core u = 5 ∨ s.core u = 0) → (s.halves (if u < 2 then 1 else 2)).active ≠ [] →
        Completes (.unfenceKettleCore u) s fun t =>
          ProcBegan .kettle u 4 [E.coreState u, E.coreRole u] s t ∧ t.core u = 1 ∧ t.reg (E.coreRole u) = 0) ∧
      (u < 24 → s.reg (E.utxonState u) = 6 → Completes (.unfencePort .utxon u) s fun t =>
        t.reg (E.utxonState u) = 1 ∧ t.reg E.procProcState = 5 ∧ t.reg E.procProcUnit = unitWord .utxon u ∧ t.mem = s.mem) ∧
      (u < 4 → s.reg (E.hostState u) = 4 → Completes (.unfencePort .host u) s fun t =>
        t.reg (E.hostState u) = 1 ∧ t.reg E.procProcState = 5 ∧ t.reg E.procProcUnit = unitWord .host u ∧ t.mem = s.mem)) ∧
    (s.procBusy = true →
      ∀ c, c ∈ [Instr.unfenceBivouac u, .unfenceStack u, .unfencePort .utxon u, .unfencePort .host u, .unfenceKettleCore u,
          .unfenceSlice u, .unfenceEngine .bracken u, .unfenceEngine .clover u, .unfenceEngine .tinder u,
          .unfenceEngine .heather u] →
        Completes c s fun t => RegsOnly [E.mgmtWritesIgnored] s t ∧
          t.reg E.mgmtWritesIgnored = min countMax (s.reg E.mgmtWritesIgnored + 1))

/-- The end of a drain, its limit and a self-test leave the unit in the state of its procedure (R493, R494, R495,
R498, R500, R502, R503, R504, R506). -/
def Obligations.DrainsEndInTheFencedState : Prop :=
  ∀ (s : State) (u : Nat) (env : Env), s.coreOn = true → s.dict.held = [] → s.kettle.draining = false → u < 65536 →
    let ends := fun (c : Instr) (key st : Nat) => Completes c s fun t =>
      t.reg key = st ∧ t.reg E.procProcState = (if s.proc.failed then 7 else 5) ∧ t.proc.failed = false
    (s.reg E.procProcState = 2 →
      (s.reg E.procProcUnit = unitWord .bivouac u → s.reg (E.bivState u) = 3 → ends (.drainDone env) (E.bivState u) 4) ∧
      (s.reg E.procProcUnit = unitWord .stack u → s.trail.queue = [] → s.trail.gather = [] →
        ends (.drainDone env) (E.stackState u) 4 ∧ (s.stop.halted = false → ends .fenceDrainLimitExpiry (E.stackState u) 4)) ∧
      (s.reg E.procProcUnit = unitWord .host u → s.reg (E.hostState u) ≠ 2 →
        ends (.drainDone env) (E.hostState u) 4 ∧ (s.stop.halted = false → ends .fenceDrainLimitExpiry (E.hostState u) 4)) ∧
      (s.reg E.procProcUnit = unitWord .tinder u → s.engineRunning .tinder u = none → s.unitWaiting (.engine .tinder u) = [] →
        ends (.drainDone env) (E.tinderState u) 2) ∧
      (s.reg E.procProcUnit = unitWord .slice u →
        (Completes (.drainDone env) s fun t => RegsOnly [E.procProcState] s t ∧ t.reg E.procProcState = 3) ∧
          (s.stop.halted = false → Completes .fenceDrainLimitExpiry s fun t =>
            RegsOnly [E.procProcState] s t ∧ t.reg E.procProcState = 3))) ∧
    (s.reg E.procProcState = 4 →
      (∀ k pass, k ∈ [UnitKind.bracken, .clover, .tinder, .heather] → s.reg E.procProcUnit = unitWord k u →
        Completes (.selfTestDone k u pass) s fun t =>
          t.reg (kindState k u) = (if pass then 1 else 3) ∧
            t.reg E.procProcState = (if pass && !s.proc.failed then 5 else 7) ∧ t.mem = s.mem ∧ t.dir = s.dir) ∧
      (∀ k, k ∈ [UnitKind.bivouac, .slice] → s.reg E.procProcUnit = unitWord k u →
        Completes (.selfTestDone k u false) s fun t =>
          t.reg (kindState k u) = (if k = .slice then 3 else 5) ∧ t.reg E.procProcState = 7 ∧ t.mem = s.mem ∧ t.dir = s.dir))

/-- A failed slice, engine or Bivouac leaves service with its log entry, and a replacement takes its number (R131,
R228, R494, R495, R496, R497, R504, R506, R522). -/
def Obligations.FailedAndReplacedUnitsMove : Prop :=
  ∀ s : State, s.coreOn = true → s.log.queue.length < 64 →
    let logged := fun (t : State) (code unit detail : Nat) =>
      t.log.queue = s.log.queue ++ [{ time := s.now, code, severity := 3, pitch := 0xFFF, unit, detail }]
    (∀ q, q < 33 → s.reg (E.sliceState q) = 1 → Completes (.sliceFailure q true) s fun t =>
      t.reg (E.sliceState q) = 2 ∧ logged t 0x000C (unitWord .slice q) (s.reg (E.sliceLogical q)) ∧ t.dir = s.dir) ∧
    (∀ q r, q < 33 → s.reg (E.sliceState q) = 4 → Completes (.sliceFailure q r) s fun t =>
      t.reg (E.sliceState q) = 3 ∧ t.reg E.dirSpareState = 2 ∧ t.dir = s.dir) ∧
    (∀ e done, e < 16 → s.reg (E.tinderState e) = 1 → s.engineRunning .tinder e = none →
      s.unitWaiting (.engine .tinder e) = [] → Completes (.engineFailure .tinder e done) s fun t =>
        t.reg (E.tinderState e) = 3 ∧ logged t 0x000B (unitWord .tinder e) 0 ∧ t.mem = s.mem ∧ t.dir = s.dir) ∧
    (∀ n, n < 528 → s.proc.moves.any (fun m => m.old == n || m.spare == n) = false →
      (s.reg (E.bivState n) = 3 → Completes (.bivouacFailure n) s fun t =>
        t.reg (E.bivState n) = 5 ∧ logged t 0x000A (unitWord .bivouac n) (s.reg (E.bivLogical n)) ∧ t.mem = s.mem) ∧
      (∀ x, s.reg (E.bivState n) = 1 → (s.bivAt (s.reg (E.bivLogical n))).kernel = none → s.spareFor n = some x →
        Completes (.bivouacFailure n) s fun t =>
          t.reg (E.bivState x) = 1 ∧ logged t 0x000A (unitWord .bivouac n) (s.reg (E.bivLogical n)) ∧
            t.proc.moves = s.proc.moves ++ [{ old := n, logical := s.reg (E.bivLogical n), spare := x, failed := true }])) ∧
    (∀ n lost m, n < 528 → m.spare < 528 → m.spare ≠ n → (s.proc.moves.find? fun m => m.old == n) = some m →
      Completes (.swardMoveDone n lost) s fun t =>
        t.reg (E.bivLogical m.spare) = m.logical ∧ t.reg (E.bivState m.spare) = 1 ∧
          t.reg (E.bivLogical n) = 0xFFFF ∧ t.reg (E.bivState n) = (if m.failed then 5 else 4) ∧
          t.proc.moves = s.proc.moves.filter (fun x => x.old != n) ∧ t.mem = s.mem) ∧
    (∀ n b, n < 528 → s.reg (E.bivState n) = 3 → (List.range 512).find? s.bivUnserved = some b →
      Completes (.spareFreed n) s fun t =>
        t.reg (E.bivLogical n) = b ∧ t.reg (E.bivState n) = 1 ∧ RegsKept [E.bivLogical n, E.bivState n] s t ∧ t.mem = s.mem) ∧
    ∀ q x, q < 33 → s.reg (E.sliceState q) = 2 → s.sliceEntries (s.reg (E.sliceLogical q)) = [] → s.spareSlice = some x →
      Completes (.sliceRecallDone q) s fun t =>
        t.reg (E.sliceLogical x) = s.reg (E.sliceLogical q) ∧ t.reg (E.sliceState x) = 1 ∧ t.reg (E.sliceState q) = 3 ∧
          t.reg E.dirSpareState = 1 ∧ t.dir = s.dir ∧ t.mem = s.mem

/-- RECAL starts a pass on a serving cool stack, each step counts, and the last one ends the pass (R483, R499,
R501). -/
def Obligations.RetrainingPassesRunInSteps : Prop :=
  ∀ (s : State) (st : Nat), s.coreOn = true →
    (s.servesEntry 0x9000 7 = true → st < 256 → Completes (.recalWrite st) s fun t =>
      if s.recalReady st then
        (bitOf (s.reg E.procRecalActive) st = false → RegsKept [E.procRecalActive] s t ∧
          t.reg E.procRecalActive = s.reg E.procRecalActive + 2 ^ st ∧ t.mem = s.mem)
      else RegsOnly [E.mgmtWritesIgnored] s t) ∧
    (s.reg E.procRecalHours ≠ 0 → s.reg E.procRecalActive = 0 → s.recalReady st = true →
      Completes (.recalPeriodic st) s fun t =>
        t.reg E.procRecalActive = 2 ^ st ∧ RegsKept [E.procRecalActive] s t ∧ t.mem = s.mem ∧ t.dir = s.dir) ∧
    (bitOf (s.reg E.procRecalActive) st = true → s.recalReady st = true → Completes (.recalStep st 0) s fun t =>
      let n := SMap.get (fun _ => 0) s.proc.recal st + 1
      t.mem = s.mem ∧ t.dir = s.dir ∧
        if n < 120 then SMap.get (fun _ => 0) t.proc.recal st = n ∧ RegsKept [] s t
        else t.reg E.procRecalActive = s.reg E.procRecalActive - 2 ^ st ∧
          t.reg E.procRecalPasses = min countMax (s.reg E.procRecalPasses + 1))

/-- Regions are created where they fit, shared, staged and handed over, each with its descriptor and its result
(R38, R42, R43, R44, R46, R47, R48, R50, R54, R55, R57, R58). -/
def Obligations.RegionsAreCreatedSharedAndHandedOver : Prop :=
  ∀ (s : State) (id : DescId) (d : Desc),
    let others := fun (i : Nat) (t : State) => ∀ j, j ≠ i → t.regionAt j = s.regionAt j
    let i := d.regionIndex
    let r := s.regionAt i
    (∀ n peer, s.runs id 0x08 d → d.createArgs.bad = false → s.freeDescriptor = some n →
      let a := d.createArgs
      s.quotaExcess a.target 1 (if a.placement = 1 then 0 else a.pages * 65536)
        (if a.placement = 1 then a.pages else if a.placement = 2 then a.pages * a.count else 0) = none →
      ¬ (a.overflow = true ∧ (a.peerPos = s.reg E.idBoardPos ∨ s.peerPort a.peerPos = none)) →
      let made := fun (base pages peerPages peerBase peerIndex : Nat) => Completes (.regionCreate id peer) s fun t =>
        let x := t.regionAt n
        x.basePage = base ∧ x.pages = pages ∧ x.owner = a.target ∧ x.rights = a.rights ∧ x.placement = a.placement ∧
          x.protect = a.protect ∧ x.state = .live ∧ x.isAlias = false ∧ x.peerPages = peerPages ∧ x.peerBase = peerBase ∧
          x.peerIndex = peerIndex ∧ others n t ∧ t.decided id 0 (regionResult n base) ∧ t.mem = s.mem ∧ RegsKept [] s t
      (∀ base pages biv, s.fitCreate a = .fits base pages biv → made base pages 0 0 0) ∧
      (∀ base pages pb pi, s.fitCreate a = .partly base pages → peer = .lodged pb pi → made base pages (a.pages - pages) pb pi) ∧
      ∀ short, s.fitCreate a = .short short → Completes (.regionCreate id peer) s fun t =>
        t.decided id 0x12 (short * 65536) ∧ t.reg (E.pitchLastShortfall a.target) = short * 65536 ∧
          RegsKept [E.pitchLastShortfall a.target] s t ∧ t.region = s.region ∧ t.mem = s.mem) ∧
    (∀ n, s.runs id 0x09 d → (d.fld 8 29 28 = 1 ∨ d.fld 8 29 28 = 3 ∧ r.rights ≠ 1 ∧ r.factored = false) →
      mayName id.pitch r = true → r.busy = false → r.isAlias = false → 0 < d.fld 9 51 26 →
      d.fld 9 25 0 + d.fld 9 51 26 ≤ r.pages → s.freeDescriptor = some n → s.quotaExcess d.pitchArg 1 0 0 = none →
      Completes (.regionShare id) s fun t =>
        let x := t.regionAt n
        x.basePage = r.basePage + d.fld 9 25 0 ∧ x.pages = d.fld 9 51 26 ∧ x.owner = d.pitchArg ∧
          x.rights = d.fld 8 29 28 ∧ x.isAlias = true ∧ x.parent = i ∧ x.state = .live ∧ others n t ∧
          t.decided id 0 (regionResult n (r.basePage + d.fld 9 25 0)) ∧ RegsKept [] s t ∧ t.mem = s.mem) ∧
    (s.runs id 0x0A d → mayName id.pitch r = true → r.busy = false → r.isAlias = false →
      Completes (.regionHandover id) s fun t =>
        t.regionAt i = { r with state := .handover, parent := d.pitchArg, outcome := none } ∧ others i t ∧
          t.decided id 0 (regionResult i r.basePage) ∧ RegsKept [] s t ∧ t.mem = s.mem) ∧
    ((s.region.accepting.any fun a => a.index == i) = false → r.state = .handover →
      (s.runs id 0x0B d → r.parent = id.pitch → Completes (.regionAccept id) s fun t =>
        t = { s with
          region := { s.region with accepting := s.region.accepting ++ [{ index := i, target := id.pitch }] }
          fuses := s.fuses.programmed }) ∧
      Completes (.handoverLimitExpiry i) s fun t =>
        t.regionAt i = { r with state := .live, parent := 0, outcome := some (r.owner, r.parent, 2) } ∧ others i t ∧
          RegsKept [E.pitchLastHandover r.owner, E.pitchLastHandover r.parent] s t ∧ t.mem = s.mem) ∧
    (∀ env u, s.runs id 0x0B d → (s.region.accepting.any fun a => a.index == i && a.target == id.pitch) = true →
      r.state = .handover → s.handoverQuiet d r = true →
      s.front.wbFlushRegion env r = u →
      u.region = s.region → u.work = s.work → Completes (.handoverComplete id env) s fun t =>
        t.regionAt i = { r with state := .live, owner := r.parent, parent := 0, outcome := some (r.owner, r.parent, 1) } ∧
          others i t ∧ t.decided id 0 (regionResult i r.basePage) ∧ t.mem = u.mem) ∧
    (s.runs id 0x0C d → d.fld 5 3 2 = 0 → mayName id.pitch r = true → r.busy = false → r.isAlias = false →
      r.factored = false → r.placement ≠ 1 → Completes (.regionHint id) s fun t =>
        t.regionAt i = { r with placement := 0, stageFirst := 0, stageCount := 0 } ∧ others i t ∧
          t.sward.staged = s.sward.staged.filter (fun c => c.region != i) ∧ t.decided id 0 (regionResult i r.basePage) ∧
          RegsKept [] s t ∧ t.mem = s.mem)

/-- A destroyed region is cleared line by line, its peer reports, and its descriptor becomes FREE; lodged parts
follow their origin (R48, R54, R61, R62, R185, R189, R281). -/
def Obligations.RegionsAreClearedBeforeTheyAreFree : Prop :=
  ∀ (s : State) (i : Nat),
    let r := s.regionAt i
    let others := fun (t : State) => ∀ j, j ≠ i → t.regionAt j = s.regionAt j
    (∀ id d, s.runs id 0x0D d → d.regionIndex = i → mayName id.pitch r = true → r.busy = false →
      (r.isAlias = true → Completes (.regionDestroy id) s fun t =>
        t.regionAt i = {} ∧ others t ∧ t.decided id 0 (regionResult i r.basePage) ∧ RegsKept [] s t ∧ t.mem = s.mem) ∧
      (r.isAlias = false → r.factored = false → r.placement ≠ 1 → r.peerPages = 0 → Completes (.regionDestroy id) s fun t =>
        t.regionAt i = { r with state := .clearing, outcome := none } ∧
          t.region.clearing = s.region.clearing ++ [{ index := i, next := r.basePage * 1024, peerOwed := false }] ∧
          t.sward.staged = s.sward.staged.filter (fun c => c.region != i) ∧
          (∀ e ∈ s.region.table, e.1 ≠ i → e.2.isAlias = true → e.2.parent = i → e.2.state ≠ .free → t.regionAt e.1 = {}) ∧
          t.decided id 0 (regionResult i r.basePage) ∧ RegsKept [] s t ∧ t.mem = s.mem)) ∧
    (∀ ln c st k slot, s.coreOn = true → (s.region.clearing.find? fun c => c.index == i) = some c → c.next = ln →
      ln < (r.basePage + r.pages) * 1024 → s.home ln = .plain st k → s.place st k = .here slot →
      s.front.settleLine ln = s.front → s.systemFits 0 4096 (s.clearCost ln) = true → Completes (.clearLine i ln) s fun t =>
        t.slotKind slot = .neverWritten ∧ (∀ x, x ≠ slot → t.slotKind x = s.slotKind x ∧ t.slotData x = s.slotData x) ∧
          t.region.clearing = s.region.clearing.map (fun c => if c.index = i then { c with next := ln + 1 } else c) ∧
          t.region.table = s.region.table) ∧
    (∀ port, s.coreOn = true → s.portUp (.utxon port) = true → s.partnerType port = 1 →
      (∀ pos oi n, ¬ (r.lodged = true ∧ r.peerPos = pos ∧ r.peerIndex = oi ∧ r.state ≠ .free) → s.peerPort pos = some n →
        Completes (.regionDestroyMessage port i pos oi) s fun t =>
          t = { s with sent := .region n 1 oi (s.reg E.idBoardPos) i :: s.sent, fuses := s.fuses.programmed }) ∧
      (Completes (.clearReport port i) s fun t =>
        t = { s with
          region := { s.region with clearing := s.region.clearing.map fun c =>
            if c.index = i then { c with peerOwed := false } else c }
          fuses := s.fuses.programmed }) ∧
      ∀ pos oi pages protect rights base, 0 < pages → s.freeDescriptor = some i →
        fitRun pages (s.freeRuns (if protect then .prot else .plain)) = some base →
        Completes (.lodgedDescriptorCreate port pos oi pages protect rights) s fun t =>
          t.regionAt i = { basePage := base, pages, rights, protect, peerPos := pos, peerIndex := oi, state := .live
                           lodged := true } ∧ others t ∧ RegsKept [] s t ∧ t.mem = s.mem) ∧
    ∀ c, (s.region.clearing.find? fun c => c.index == i) = some c → c.peerOwed = false →
      (r.basePage + r.pages) * 1024 ≤ c.next → r.state = .clearing → Completes (.clearDone i) s fun t =>
        t.regionAt i = {} ∧ others t ∧ t.region.clearing = s.region.clearing.filter (fun c => c.index != i) ∧
          t.mem.bytes = s.mem.bytes ∧ RegsKept [] s t ∧
          ∀ n, r.lodged = true → s.peerPort r.peerPos = some n →
            t.sent = .region n 1 r.peerIndex (s.reg E.idBoardPos) i :: s.sent

/-- Pitches become ACTIVE, QUIESCING, DORMANT, REVOKING and FREE, are reset, and serve (R63, R64, R65, R66, R68,
R69, R97, R240, R395, R396). -/
def Obligations.PitchesMoveBetweenTheirStates : Prop :=
  ∀ (s : State) (p : Nat), p < 4096 →
    let ignored := fun t => RegsOnly [E.mgmtWritesIgnored] s t ∧
      t.reg E.mgmtWritesIgnored = min countMax (s.reg E.mgmtWritesIgnored + 1)
    (Served s →
      (Completes (.pitchActivate p) s fun t =>
        if (s.pitchState p = 0 ∨ s.pitchState p = 2) ∧ (p = 0 ∨ s.pitchState 0 = 1) then
          RegsOnly [E.pitchState p] s t ∧ t.pitchState p = 1
        else ignored t) ∧
      ((s.region.table.any fun e => e.2.state == .handover && (e.2.owner == p || e.2.parent == p)) = false →
        Completes (.pitchQuiesce p) s fun t =>
          if s.pitchState p = 1 ∧ (p ≠ 0 ∨ s.otherPitches 0 = false) then RegsOnly [E.pitchState p] s t ∧ t.pitchState p = 3
          else ignored t) ∧
      (∀ v, v ≤ 1 → Completes (.servingWrite p v) s fun t =>
        if s.pitchState p = 0 ∧ (v = 0 ∨ s.urgentSum (fun q => q == p || s.serves q) ≤ s.reg E.trailUrgentCap) then
          RegsOnly [E.pitchServing p] s t ∧ t.reg (E.pitchServing p) = v
        else ignored t) ∧
      (s.nothingInHand p → s.kettle.draining = false →
        (inRange (s.pitchState p) 1 3 = true → (p ≠ 0 ∨ s.otherPitches 0 = false) → Completes (.pitchRevoke p) s fun t =>
          t.pitchState p = 4 ∧ RegsKept [E.pitchState p] s t ∧ t.mem = s.mem ∧ t.dir = s.dir ∧
            (∀ h, (t.tableAt h).used = true → (t.tableAt h).owner ≠ p) ∧ t.work.rings = s.work.rings) ∧
        (s.pitchState p = 1 → s.migrating p = false → Completes (.pitchReset p) s fun t =>
          t.pitchState p = 1 ∧ t.reg (E.pitchPitchReset p) = 0 ∧ t.mem = s.mem ∧ t.dir = s.dir ∧
            ∀ k, k < 16 → t.ring p k = { s.ring p k with tail := 0, fetched := 0, dispatched := 0, floor := 0 }))) ∧
    (∀ d, s.pitchState p = 3 → (s.work.descs.filter fun d => d.id.pitch == p && d.inUnit) = [d] → s.desc d.id = some d →
      s.kettle.draining = false → Completes (.drainLimitExpiry p) s fun t => t.pitchState p = 3 ∧ t.mem = s.mem ∧
        ∃ e, t.desc d.id = some e ∧ e.phase = .decided ∧ e.outcome = some { status := 0x01 }) ∧
    (∀ env, s.pitchState p = 3 → (s.work.descs.any fun d => d.id.pitch == p && d.inUnit) = false →
      let u := (s.front.wbFlush env p fun l => l.pitch == p).1
      (∀ b n, b < 512 → u.physOf b = some n → u.reg (E.bivPitch n) ≠ p) → Completes (.quiesceDone p env) s fun t =>
        t.pitchState p = 2 ∧ t.mem = u.mem ∧ t.dir = u.dir ∧ t.biv = u.biv) ∧
    (s.pitchState p = 4 → s.migrating p = false → s.descsEnded p = true → Completes (.revokeDone p) s fun t =>
      t.pitchState p = 0 ∧ t.reg (E.pitchReservedSlots p) = 0 ∧ (∀ k, k < 16 → t.ring p k = {}) ∧
        t.meterAt (meterKey p true) = {} ∧ t.meterAt (meterKey p false) = {} ∧
        (∀ e ∈ t.work.descs, e.id.pitch ≠ p) ∧ t.mem = s.mem ∧ t.dir = s.dir ∧
        RegsKept [E.pitchState p, E.pitchReservedSlots p, E.pitchFaultTail p, E.pitchFaultHead p, E.pitchFaultDone p] s t)

/-- Markers correct or unlock the count, the master drives them, TIME frames give the offset, and mastership moves
at SWITCH_AT (R254, R255, R257, R258, R259, R260, R261, R358). -/
def Obligations.TheTimeBaseFollowsItsMarkersAndWrites : Prop :=
  ∀ (s : State) (role : Role) (v : Nat),
    let c : Int := s.now
    let e := c - s.reg E.campSyncDelay - nearestMarker (c - s.reg E.campSyncDelay)
    let near := -(s.reg E.campLockTolerance : Int) ≤ e ∧ e ≤ s.reg E.campLockTolerance
    let unlocked := fun (st : Nat) (t : State) => t.reg E.campLockState = st ∧
      t.reg E.campUnlockEvents = min countMax (s.reg E.campUnlockEvents + 1) ∧ t.camp.count = s.camp.count ∧ t.mem = s.mem
    (s.running = true →
      (Completes .campSyncMarker s fun t => t.reg E.campLastError = uns 32 e ∧
        t.reg E.campMarkers = min countMax (s.reg E.campMarkers + 1)) ∧
      (s.lockState = 0 ∨ s.lockState = 3 → Completes .campSyncMarker s (RegsOnly [E.campLastError, E.campMarkers] s)) ∧
      (s.lockState = 2 → near → Completes .campSyncMarker s fun t =>
        t = { s with
            regs := t.regs
            camp := if e < 0 then { s.camp with correction := 1 } else if 0 < e then { s.camp with correction := -1 }
              else s.camp
            fuses := s.fuses.programmed } ∧
          RegsKept [E.campLastError, E.campMarkers] s t) ∧
      (s.lockState = 2 → ¬ near → Completes .campSyncMarker s (unlocked 1)) ∧
      (s.lockState = 2 → Completes .markerMissTimeout s (unlocked 1)) ∧
      (s.lockState = 3 → Completes .masterMarkerMiss s (unlocked 0)) ∧
      (s.lockState = 3 → s.camp.switching = false → s.now % 65536 = 0 → (s.camp.driving = false ∨ s.camp.lastMarker ≠ s.now) →
        Completes .markerDrive s fun t => t = { s with
          camp := { s.camp with driving := true, lastMarker := s.now }, sent := .marker s.now :: s.sent
          fuses := s.fuses.programmed }) ∧
      (s.camp.switching = true → s.reg E.campSwitchAt ≤ s.now →
        (s.reg E.campMasterPos ≠ s.reg E.idBoardPos → s.lockState = 3 → Completes .masterSwitch s fun t =>
          t.reg E.campLockState = 2 ∧ t.camp.driving = false ∧ t.camp.switching = false ∧ t.mem = s.mem) ∧
        (s.reg E.campMasterPos = s.reg E.idBoardPos → s.lockState = 2 → Completes .masterSwitch s fun t =>
          t.reg E.campLockState = 3 ∧ t.camp.switching = false ∧ t.mem = s.mem))) ∧
    (Served s → mayWrite role 0x2010 3 = true →
      (s.reg E.campTimeEnable = 0 → s.reg E.idBoardPos ≠ s.reg E.campMasterPos → Completes (.timeEnable role) s fun t =>
        t.reg E.campTimeEnable = 1 ∧ t.reg E.campLockState = 1 ∧ t.camp.offset = none ∧ t.mem = s.mem) ∧
      (s.reg E.campTimeEnable = 0 → s.reg E.idBoardPos = s.reg E.campMasterPos → s.timePorts = [] →
        Completes (.timeEnable role) s fun t => t.reg E.campTimeEnable = 1 ∧ t.reg E.campLockState = 3 ∧
          t.reg E.campCountValid = 1 ∧ t.camp.count = s.camp.count ∧ t.mem = s.mem) ∧
      (Completes (.timeDisable role) s fun t => t.reg E.campTimeEnable = 0 ∧ t.reg E.campLockState = 0 ∧
        t.camp.count = s.camp.count ∧ t.mem = s.mem)) ∧
    (Served s → v < 8 → Completes (.masterPosWrite v) s fun t =>
      RegsOnly [E.campMasterPos] s t ∧ t.reg E.campMasterPos = v) ∧
    (Served s → v < 2 ^ 64 → Completes (.switchAtWrite v) s fun t =>
      if v % 65536 = 0 ∧ s.now + 131072 ≤ v then
        t = { s with regs := t.regs, camp := { s.camp with switching := true }, fuses := s.fuses.programmed } ∧
          t.reg E.campSwitchAt = v ∧ RegsKept [E.campSwitchAt] s t
      else RegsOnly [E.mgmtWritesIgnored] s t) ∧
    ∀ n tx rx lk valid, s.portUp (.utxon n) = true →
      (∀ echo, Completes (.timeFrame n tx echo rx lk valid false) s fun t =>
        t.sent = .time n s.now tx s.now (s.timeFlags true) :: s.sent ∧ t.camp = s.camp ∧ t.mem = s.mem ∧
          RegsKept [E.utxonFramesRx n, E.utxonFramesTx n] s t) ∧
      (∀ echo : Nat, (n, echo) ∈ s.camp.exchanges → s.camp.starting = false → s.lockState = 1 → s.camp.offset = none →
        Completes (.timeFrame n tx echo rx lk true true) s fun t =>
          t.camp.offset = some ((((rx : Int) - echo) - ((s.now : Int) - tx)) / 2) ∧
            RegsKept [E.utxonFramesRx n] s t ∧ t.mem = s.mem)

/-- A response ends the forwarded transaction it matches and goes to the originator; a NAK repeats it, and a late
one is counted (R32, R101, R112, R120, R127, R128, R132, R133, R371). -/
def Obligations.ResponsesEndForwardedTransactions : Prop :=
  ∀ s : State, s.coreOn = true →
    let find := fun (p : Port) (tag : Nat) => s.port.fwds.find? fun f => Port.utxon f.port == p && f.tag == tag && f.live
    let left := fun (f : Fwd) => s.port.fwds.filter fun x => !(x.port == f.port && x.tag == f.tag)
    (∀ r : Rsp, s.portUp r.port = true →
      (∀ f c op, (c, op) ∈ [(Instr.dataS r, 0x38), (.dataX r, 0x39), (.dataNc r, 0x3A), (.ackX r, 0x3B), (.ack r, 0x3C)] →
        find r.port r.tag = some f → s.port.retrainWait = [] → Completes c s fun t =>
          t.port.fwds = left f ∧ t.port.coolTags = s.port.coolTags ++ [(f.port, f.tag, s.cclk)] ∧ t.mem = s.mem ∧
            t.dir = s.dir ∧
            ∀ n, f.work.req.port = .host n → s.portUp (.host n) = true → s.noConflicts →
              t.sent = .host n (mkRsp { opcode := op, port := .host n, tag := f.work.req.tag
                                        agent := if f.work.caching then f.work.src else 0
                                        prio := f.work.prio, colour := f.work.colour } r.load r.status r.data
                (if isAtomic f.work.op then some (r.resLo, r.resHi) else none)) :: s.sent) ∧
      (∀ f, find r.port r.tag = some f → Completes (.nak r) s fun t =>
        t.port.fwds = s.port.fwds ∧ t.port.coolTags = s.port.coolTags ∧ t.mem = s.mem ∧ t.dir = s.dir) ∧
      (find r.port r.tag = none →
        ∀ c, c ∈ [Instr.dataS r, .dataX r, .dataNc r, .ackX r, .ack r, .nak r] → Completes c s fun t =>
          t.port.fwds = s.port.fwds ∧ t.mem = s.mem ∧ t.dir = s.dir ∧
            t.reg (E.sliceLateResponses (s.countSlice (r.tag / 2048 % 32))) =
              min countMax (s.reg (E.sliceLateResponses (s.countSlice (r.tag / 2048 % 32))) + 1))) ∧
    (∀ p tag f, find p tag = some f →
      ((s.link f.port).holdsReq f.tag = true → Completes (.transactionTimeout p tag) s fun t =>
        t.port.fwds = (s.port.fwds.map fun x => if x.port == f.port && x.tag == f.tag then { x with live := false } else x) ∧
          RegsKept [] s t) ∧
      ((s.link f.port).holdsReq f.tag = false → s.port.retrainWait = [] → Completes (.transactionTimeout p tag) s fun t =>
        t.port.fwds = left f ∧ t.port.coolTags = s.port.coolTags ++ [(f.port, f.tag, s.cclk)] ∧ RegsKept [] s t)) ∧
    (∀ p v, p.wf = true → Served s → Completes (.agentNumberWrite p v) s fun t =>
      if s.portUp p = false ∧ (v < 64 ∨ v = 0xFF) then RegsOnly [agentKey p] s t ∧ t.reg (agentKey p) = v
      else RegsOnly [E.mgmtWritesIgnored] s t) ∧
    ∀ v : Word, Served s → Completes (.agentSuspectClear v) s fun t => RegsOnly [E.dirAgentSuspect] s t ∧
      ∀ a, bitOf (t.reg E.dirAgentSuspect) a = (bitOf (s.reg E.dirAgentSuspect) a && !bitOf v.toNat a)

/-- Utxon ports train, exchange LINK_INFO, come up fresh or resumed, retrain, expire and are enabled (R350, R352,
R357, R359, R366, R367, R368, R370, R377, R378). -/
def Obligations.UtxonPortsTrainRetrainAndExpire : Prop :=
  ∀ (s : State) (n : Nat), n < 24 → s.coreOn = true →
    (∀ w, s.reg (E.utxonState n) = 1 → Completes (.linkTrained n w) s fun t =>
      let width := if w = 8 then 8 else 4
      t.reg (E.utxonWidth n) = width ∧ t.reg (E.utxonLaneMap n) = laneMap width 0 ∧ t.reg (E.utxonState n) = 1 ∧
        (t.link n).trained = true ∧ (t.link n).nextRx = 0 ∧ (t.link n).nextTx = 0 ∧
        ∃ ws, t.sent = .linkInfo n ws :: s.sent ∧ ws.take 2 = (s.linkInfoWords n).take 2 ∧ ws.drop 3 = [0]) ∧
    ((s.reg (E.utxonState n) = 1 ∨ s.reg (E.utxonState n) = 3) → (s.link n).trained = true →
      (Completes (.linkInfoResend n) s fun t =>
        t.sent = .linkInfo n (s.linkInfoWords n) :: s.sent ∧ t.port = s.port ∧ RegsKept [E.utxonFramesTx n] s t) ∧
      ∀ w0 w1 w2 w3 : Word, fld w0 23 16 = 1 → inRange (fld w0 3 0) 1 3 = true → s.conflicts w0.toNat = false →
        s.idleLink n → s.region.msgs = [] → s.reg E.fencePeerFence = 0 →
        (s.reg (E.utxonState n) = 1 → Completes (.linkInfo n w0 w1 w2 w3) s fun t =>
          t.reg (E.utxonState n) = 2 ∧ t.reg (E.utxonPartnerType n) = fld w0 3 0 ∧
            t.reg (E.utxonPartnerIdentity n) = w1.toNat ∧ (t.link n).req = freshBook (fld w2 15 0) 4096 ∧
            (t.link n).snp = freshBook (fld w2 31 16) 1024 ∧ (t.link n).rsp = freshBook (fld w2 47 32) 4096 ∧
            t.mem = s.mem ∧ t.dir = s.dir) ∧
        (s.reg (E.utxonState n) = 3 → (s.link n).resume = true → flag w3 12 = true →
          s.reg (E.utxonPartnerIdentity n) = w1.toNat → Completes (.linkInfo n w0 w1 w2 w3) s fun t =>
            t.reg (E.utxonState n) = 2 ∧ t.reg (E.utxonRetrains n) = min countMax (s.reg (E.utxonRetrains n) + 1) ∧
              (t.link n).req = (s.link n).req ∧ (t.link n).nextTx = (s.link n).nextTx ∧
              (t.link n).nextRx = (s.link n).nextRx ∧ t.mem = s.mem ∧ t.dir = s.dir)) ∧
    ((s.reg (E.utxonState n) = 4 ∨ s.reg (E.utxonState n) = 5) → Completes (.trainingRetry n) s fun t =>
      RegsOnly [E.utxonState n] s t ∧ t.reg (E.utxonState n) = 1) ∧
    (s.reg (E.utxonState n) = 2 → s.reg (E.utxonHoldTime n) ≠ 0 → Completes (.retrainStart n) s fun t =>
      t.reg (E.utxonState n) = 3 ∧
        t.link n = { s.link n with trained := false, resume := true, holding := true, replays := 0 } ∧ t.mem = s.mem) ∧
    (s.reg (E.utxonState n) = 3 → s.fencing .utxon n = false → s.idleLink n → Completes (.holdExpiry n) s fun t =>
      t.reg (E.utxonState n) = 4 ∧ t.reg (E.utxonLinkLostEvents n) = min countMax (s.reg (E.utxonLinkLostEvents n) + 1) ∧
        t.reg (E.utxonWidth n) = 0 ∧ (t.link n).trained = false ∧ t.mem = s.mem) ∧
    ∀ role : Role, Served s → mayWrite role (E.utxonEnable n / 256) (E.utxonEnable n % 256) = true →
      s.reg (E.utxonState n) = 0 → Completes (.utxonEnableWrite role n 1) s fun t =>
        RegsOnly [E.utxonEnable n, E.utxonState n] s t ∧ t.reg (E.utxonEnable n) = 1 ∧ t.reg (E.utxonState n) = 1

/-- Frames in order are taken, others asked for or acknowledged again, and unacknowledged ones replayed oldest first
(R351, R353, R354, R355, R356, R359, R363, R364, R365). -/
def Obligations.FramesAreTakenInOrderAndReplayed : Prop :=
  ∀ (s : State) (n : Nat), s.coreOn = true → s.portUp (.utxon n) = true → s.fromFencedPeer n = false →
    let l := s.link n
    let frames := fun (os : List Out) => os.filterMap fun o => match o with
      | .frame _ f _ _ _ => some f
      | _ => none
    let rose := fun (k : Nat) (t : State) => t.reg k = min countMax (s.reg k + 1)
    (s.idleLink n → s.noConflicts → ∀ h : FrameHdr, h.vc = 2 →
      (h.seq = l.nextRx → h.ackValid = false → h.credVc = 3 →
        (∀ m : WireMsg, inRange m.opcode 0x38 0x3D = true →
          (s.port.fwds.find? fun f => f.port == n && f.tag == m.req.tag && f.live) = none → l.creditsFor 2 5 = true →
          Completes (.msg n h [m]) s fun t => (t.link n).nextRx = (l.nextRx + 1) % 4096 ∧ rose (E.utxonFramesRx n) t ∧
            rose (E.sliceLateResponses (s.countSlice (m.req.tag / 2048 % 32))) t ∧ t.mem = s.mem ∧ t.dir = s.dir) ∧
        ∀ m : CompactMsg, inRange m.opcode 0x38 0x3A = true →
          (s.port.fwds.find? fun f => f.port == n && f.tag == m.tag && f.live) = none → l.creditsFor 2 5 = true →
          Completes (.msgC n h [m]) s fun t => (t.link n).nextRx = (l.nextRx + 1) % 4096 ∧ rose (E.utxonFramesRx n) t ∧
            rose (E.sliceLateResponses (s.countSlice (m.tag / 2048 % 32))) t ∧ t.mem = s.mem ∧ t.dir = s.dir) ∧
      (∀ ms : List WireMsg, ms ≠ [] → ms.length ≤ 6 → 2048 ≤ (h.seq + 4096 - l.nextRx) % 4096 → Completes (.msg n h ms) s fun t =>
        rose (E.utxonDuplicates n) t ∧ (t.link n).nextRx = l.nextRx ∧ t.mem = s.mem ∧ t.dir = s.dir ∧
          ∃ a vc total, t.sent = .control n 3 a vc total 0 :: s.sent) ∧
      (∀ ms : List WireMsg, 6 < ms.length → Completes (.msg n h ms) s fun t =>
        rose (E.utxonCrcErrors n) t ∧ (t.link n).nextRx = l.nextRx ∧ t.mem = s.mem ∧ t.dir = s.dir)) ∧
    (∀ why, Completes (.badFrame n why) s fun t => rose (E.utxonCrcErrors n) t ∧ (t.link n).replay = l.replay ∧
      (t.link n).nextRx = l.nextRx ∧ t.mem = s.mem ∧ t.dir = s.dir) ∧
    (l.egress = [] → s.port.retrainWait = [] → ∀ h : FrameHdr,
      (h.ackValid = true → Completes (.ackFrame n h) s fun t =>
        (t.link n).replay = (l.ackFrames h.ackSeq).replay ∧ rose (E.utxonFramesRx n) t ∧ t.mem = s.mem ∧ t.dir = s.dir) ∧
      (h.ackValid = false → h.credVc = 3 → l.replay ≠ [] → l.replays < 3 → Completes (.replayReq n h) s fun t =>
        rose (E.utxonReplays n) t ∧ (t.link n).replay = l.replay ∧ (t.link n).replays = l.replays + 1 ∧
          ∃ out, t.sent = out ++ s.sent ∧ frames out = l.replay.reverse)) ∧
    (l.replay ≠ [] → l.replays < 3 → Completes (.replayTimeout n) s fun t =>
      rose (E.utxonReplays n) t ∧ (t.link n).replay = l.replay ∧ (t.link n).replays = l.replays + 1 ∧ t.mem = s.mem ∧
        ∃ out, t.sent = out ++ s.sent ∧ frames out = l.replay.reverse) ∧
    (0 < l.unacked → Completes (.ackDelayExpiry n) s fun t =>
      (t.link n).unacked = 0 ∧ RegsKept [E.utxonFramesTx n] s t ∧ ∃ a vc total, t.sent = .control n 3 a vc total 0 :: s.sent) ∧
    (∀ i v, i < s.reg (E.utxonWidth n) → bitOf l.rxBad (mapLane (s.reg (E.utxonLaneMap n)) i) = false →
      mapLane (s.reg (E.utxonLaneMap n)) i < 9 →
      spareLane (s.reg (E.utxonLaneMap n)) (s.reg (E.utxonWidth n))
        (l.rxBad ||| 2 ^ mapLane (s.reg (E.utxonLaneMap n)) i) = some v →
      Completes (.laneFailure n i) s fun t =>
        t.reg (E.utxonLaneState n (mapLane (s.reg (E.utxonLaneMap n)) i)) = 3 ∧ t.reg (E.utxonState n) = 2 ∧
          (t.link n).rxBad = l.rxBad ||| 2 ^ mapLane (s.reg (E.utxonLaneMap n)) i ∧ t.mem = s.mem ∧
          ∃ a vc total, t.sent = .control n 7 a vc total (laneBody i 0 0 (s.reg (E.utxonWidth n))) :: s.sent) ∧
    ∀ (h : FrameHdr) i v cw, i < s.reg (E.utxonWidth n) → h.ackValid = false → h.credVc = 3 → l.egress = [] →
      s.port.retrainWait = [] →
      spareLane l.txMap (s.reg (E.utxonWidth n)) (l.txBad ||| 2 ^ mapLane l.txMap i) = some v →
      Completes (.lane n h i false cw) s fun t =>
        (t.link n).txMap = setMapLane l.txMap i v ∧ (t.link n).txBad = l.txBad ||| 2 ^ mapLane l.txMap i ∧
          rose (E.utxonLaneSwaps n) t ∧ t.reg (E.utxonState n) = 2 ∧ t.mem = s.mem

/-- Host ports come up and go down, decoders take effect at once, and the IDE stream makes a port secure or takes it
down (R372, R373, R374, R375, R380). -/
def Obligations.HostPortsFollowTheirLinkAndKeys : Prop :=
  ∀ (s : State) (n : Nat), n < 4 → s.coreOn = true →
    (∀ w, w ∈ [4, 8, 16] → s.reg (E.hostEnable n) = 1 → (s.reg (E.hostState n) = 1 ∨ s.reg (E.hostState n) = 3) →
      Completes (.hostLinkUp n w) s fun t => RegsOnly [E.hostState n, E.hostWidth n] s t ∧
        t.reg (E.hostState n) = 2 ∧ t.reg (E.hostWidth n) = w) ∧
    (s.reg (E.hostState n) = 2 → (s.port.ios.any fun q => q.port == n) = false →
      (Completes (.hostLinkDown n) s fun t => t.reg (E.hostState n) = 3 ∧ t.reg (E.hostWidth n) = 0 ∧
        t.reg (E.hostLinkDowns n) = min countMax (s.reg (E.hostLinkDowns n) + 1) ∧ (t.host n).conflicts = [] ∧
        RegsKept [E.hostState n, E.hostWidth n, E.hostLinkDowns n] s t ∧ t.mem = s.mem ∧ t.dir = s.dir) ∧
      (s.reg (E.hostIdeState n) = 1 → Completes (.ideIntegrityFailure n) s fun t =>
        t.reg (E.hostIdeState n) = 2 ∧ t.reg (E.hostState n) = 3 ∧ (t.host n).keys = 0 ∧
          t.reg (E.hostIdeFailures n) = min countMax (s.reg (E.hostIdeFailures n) + 1) ∧
          t.reg (E.hostLinkDowns n) = min countMax (s.reg (E.hostLinkDowns n) + 1) ∧ t.mem = s.mem)) ∧
    (∀ set, set < 2 → s.reg (E.hostState n) = 2 → Completes (.ideKeySet n set) s fun t =>
      t.reg (E.hostIdeState n) = 1 ∧ (t.host n).keySet = set ∧ (t.host n).keys = (s.host n).keys ||| 2 ^ set ∧
        RegsKept [E.hostIdeState n] s t ∧ t.mem = s.mem ∧ t.dir = s.dir) ∧
    (∀ role : Role, Served s → mayWrite role (E.hostEnable n / 256) (E.hostEnable n % 256) = true →
      s.reg (E.hostState n) = 0 → Completes (.hostEnableWrite role n 1) s fun t =>
        RegsOnly [E.hostEnable n, E.hostState n] s t ∧ t.reg (E.hostEnable n) = 1 ∧ t.reg (E.hostState n) = 1) ∧
    ∀ d b, d < 8 → b.length = 16 → Served s → Completes (.decoderWrite n d b) s fun t =>
      if (decoderOf b).base % 2 ^ 28 = 0 then
        t.decoderAt n d = decoderOf b ∧ (∀ m e, m < 4 → e < 8 → (m, e) ≠ (n, d) → t.decoderAt m e = s.decoderAt m e) ∧
          RegsKept [] s t ∧ t.mem = s.mem
      else RegsOnly [E.mgmtWritesIgnored] s t

/-- Each mailbox command of an open mailbox is counted, does its work and is answered (R376, R413, R417, R418, R419,
R420, R461, R520, R521). -/
def Obligations.MailboxCommandsAreAnswered : Prop :=
  ∀ (s : State) (n : Nat), s.mailboxOpen n →
    let answers := fun (c : Instr) (code : MboxCode) (payload : List Byte) (ks : List Nat) (P : State → Prop) =>
      Completes c s fun t => MailboxAnswered n code payload ks s t ∧ P t
    let replies := fun (c : Instr) (st : Nat) (m : FwMsg) (P : State → Prop) => Completes c s fun t =>
      t.sent = .firmware n st m :: s.sent ∧ t.mem = s.mem ∧ P t
    let version := s.reg (E.kettleHostMsgVersion n)
    let same := fun (t : State) => t.kettle = s.kettle ∧ t.dict = s.dict ∧ t.freeCount = s.freeCount
    answers (.getEventRecords n) .success (s.unacked.flatMap fun q => bytesOfWords (s.logEntry q)) [] same ∧
    answers (.clearEventRecords n true []) .success [] [E.logLogAck] (fun t => t.reg E.logLogAck = s.reg E.logLogNextSeq) ∧
    (∀ h q, s.handleSeq h = some q → answers (.clearEventRecords n false [h]) .success [] [E.logLogAck] fun t =>
      t.reg E.logLogAck = (q + 1) % 2 ^ 32) ∧
    (∀ h, s.handleSeq h = none → answers (.clearEventRecords n false [h]) .invalidHandle [] [] same) ∧
    answers (.getFwInfo n) .success (leBytes 1 3 ++ [1, 2, 3].flatMap fun c => leBytes 4 (s.reg (E.imageActiveVersion c))) []
      same ∧
    (∀ p : FwPart, inRange p.slot 1 3 = true → p.first = true → p.last = false → p.offset = 0 → s.transferring = false →
      answers (.transferFw n p) .success [] [] fun t => t.kettle.xfer = some { cls := p.slot, port := n, data := p.data }) ∧
    (s.reg (E.imageInactiveState 3) = 1 → peersAgree (s.runningSet [3]) = true → Completes (.activateFw n 3 true) s fun t =>
      t.sent = .mailbox n 0 [] :: s.sent ∧ t.reg (E.imageActiveVersion 3) = imageVersion (s.halves 3).inactive ∧
        (t.halves 3).active = (s.halves 3).inactive ∧ t.mem = s.mem) ∧
    answers (.getTimestamp n) .success (leBytes 8 (s.now * 5 / 4)) [] same ∧
    (∀ v, answers (.setTimestamp n v) .success [] [] fun t => t.camp = s.camp ∧ same t) ∧
    (∃ payload, answers (.getSupportedLogs n) .success payload [] fun t => t.kettle = s.kettle) ∧
    answers (.getLog n) .success s.logBlock [] same ∧
    answers (.identifyMemoryDevice n) .success (leBytes 8 (2 ^ 40) ++ leBytes 8 0) [] same ∧
    (∃ payload, answers (.getHealthInfo n) .success payload [] fun t => t.kettle = s.kettle) ∧
    (∀ b es, 16 ≤ b.length → parseBody (.mailbox n) b = .ok (.read es) → s.owes = false →
      let u := (s.front.bump (E.hostMailboxCommands n)).bump E.mgmtRequests
      u.readable (.mailbox n) .hd es →
        answers (.dictAccess n b) .success (dapResponse 1 (leNat ((b.drop 2).take 2)) 0 es.length (u.readOut es))
          [E.mgmtRequests] same) ∧
    (∀ op, answers (.mailboxUnsupported n op) .unsupported [] [] same) ∧
    (∀ m : FwMsg, m.body.length = 16 →
      ∀ a i c, (c = .hello n m ∨ c = .kettleMsg n m ∧ m.msgType = 1) →
        negotiated (versionList m.body 0) (versionList (s.halves 1).active 12) = some (a, i) →
        replies c 0 { m with major := a, minor := i, body := ((s.halves 1).active.drop 96).take 16 } fun t =>
          t.reg (E.kettleHostMsgVersion n) = a * 256 + i) ∧
    ∀ m : FwMsg, version ≠ 0 → version = m.major * 256 + m.minor →
      replies (.coreStatus n m) 0
        { m with body := (List.range 8).flatMap fun k => leBytes 1 (s.core k) ++ leBytes 1 (s.reg (E.coreRole k)) ++
            leBytes 6 0 ++ leBytes 8 (s.reg (E.coreWatchdogResets k)) } same ∧
      (∀ k, m.body.head? = some (BitVec.ofNat 8 k) → inRange k 2 7 = true → s.core k = 2 →
        (s.work.descs.any fun d => d.unit == some (.kettle k) && d.phase == .running) = false →
        replies (.coreRestart n m) 0 { m with body := [] } fun t => t.core k = 1 ∧ t.reg (E.coreRole k) = 0 ∧
          t.reg (E.coreWatchdogResets k) = s.reg (E.coreWatchdogResets k)) ∧
      replies (.groupList n m) 0
        { m with body := s.eng.groups.flatMap fun e => leBytes 8 e.2.groupId ++ leBytes 2 e.2.pitch ++
            leBytes 2 e.2.members.length ++ leBytes 4 e.2.core ++ leBytes 8 e.2.started ++ leBytes 8 0 } same ∧
      (m.msgType = 0x30 → replies (.kettleMsg n m) 3 { m with body := [] } same)

/-- Images are staged, checked and activated, cores take over, reload, drain and fail (R408, R410, R411, R412, R413,
R414, R415, R416, R436). -/
def Obligations.ImagesAndCoresFollowTheirCommands : Prop :=
  ∀ (s : State) (role : Role), s.coreOn = true → s.dict.held = [] →
    (Served s →
      (∀ path off before data, mayWrite role 0x7800 3 = true → inRange (s.reg E.kettleStageClass) 1 3 = true →
        s.kettle.checking = none → s.kettle.xfer = none →
        (s.dict.transfers.any fun x => x.entry == { index := 0x7800, sub := 3 } && x.path != path) = false →
        s.dict.transfers.length < 16 → (before ++ data).length ≤ 2 ^ 20 →
        (off = 0 ∧ before = [] ∨
          off = before.length ∧ off ≠ 0 ∧
            s.transfer path { index := 0x7800, sub := 3 } = some { path, entry := { index := 0x7800, sub := 3 }, data := before }) →
        Completes (.stageImageClosed role path off data) s fun t =>
          t.kettle.checking = some (s.reg E.kettleStageClass) ∧ (t.halves (s.reg E.kettleStageClass)).inactive = before ++ data ∧
            t.reg (E.imageInactiveVersion (s.reg E.kettleStageClass)) = imageVersion (before ++ data) ∧ t.mem = s.mem) ∧
      ∀ c cmd, inRange c 1 3 = true →
        (cmd = .activateWrite role (2 ^ c) ∧ s.reg (E.imageInactiveState c) = 1 ∧ mayWrite role 0x7800 4 = true ∨
          cmd = .revertWrite role (2 ^ c) ∧ (s.halves c).ran = true ∧ mayWrite role 0x7800 5 = true) →
        Completes cmd s fun t =>
          if peersAgree (s.runningSet [c]) then
            t.reg E.kettleLoadResult = 2 ∧ t.reg (E.imageActiveVersion c) = imageVersion (s.halves c).inactive ∧
              (t.halves c).active = (s.halves c).inactive ∧ (t.halves c).inactive = (s.halves c).active ∧ t.mem = s.mem
          else t.reg E.kettleLoadResult = 3 ∧ t.reg E.kettleRefuseReason = 7 ∧ t.kettle = s.kettle ∧ t.mem = s.mem) ∧
    (∀ c, inRange c 1 3 = true → s.kettle.checking = some c → Completes .imageCheckDone s fun t =>
      t.kettle.checking = none ∧ t.kettle.images = s.kettle.images ∧ t.mem = s.mem ∧
        match s.imageFault c (s.halves c).inactive with
        | none => t.reg (E.imageInactiveState c) = 1 ∧ t.reg E.kettleLoadResult = 1 ∧ t.reg E.kettleRefuseReason = 0
        | some r => t.reg (E.imageInactiveState c) = 2 ∧ t.reg E.kettleLoadResult = 3 ∧ t.reg E.kettleRefuseReason = r) ∧
    (∀ k, k < 2 → s.kettle.takeover = some k → s.kettle.relieved = none → Completes .mgmtTakeoverDone s fun t =>
      t.core k = 2 ∧ t.reg (E.coreRole k) = 1 ∧ t.reg E.kettleMgmtActive = k ∧ t.reg E.mgmtDictServer = 1 + k ∧
        t.kettle.takeover = none ∧ t.mem = s.mem) ∧
    (s.kettle.draining = true → s.stop.halted = false → s.collRunning = false →
      (collCores.any fun k => s.fencing .kettle k) = false → Completes .collDrainExpiry s fun t =>
        t.kettle.draining = false ∧ t.mem = s.mem ∧ ∀ k, k ∈ collCores → s.core k = 2 → t.core k = 1) ∧
    ∀ k, inRange k 2 7 = true →
      let recent := (s.kettle.expiries.filter fun e => decide (s.cclk < e.2 + msCclk 10000)) ++ [(k, s.cclk)]
      (s.core k = 2 → s.stop.halted = false →
        (s.work.descs.any fun d => d.unit == some (.kettle k)) = false →
        Completes (.watchdogExpiry k) s fun t =>
          t.core k = (if s.reg E.kettlePersistLimit ≤ (recent.filter fun e => e.1 == k).length then 4 else 1) ∧
            t.reg (E.coreRole k) = 0 ∧ t.kettle.expiries = recent ∧
            t.reg (E.coreWatchdogResets k) = min countMax (s.reg (E.coreWatchdogResets k) + 1) ∧ t.mem = s.mem) ∧
      (s.core k = 1 → s.kettle.takeover ≠ some k → s.reg E.procProcState ≠ 4 → Completes (.coreReloadDone k) s fun t =>
        t.core k = 2 ∧ t.reg (E.coreRole k) = 3 ∧ t.reg (E.coreLastResetTime k) = s.now ∧ t.mem = s.mem)

/-- Doorbells move TAIL, RING_CONFIG changes idle rings, and descriptors are fetched, dispatched, started and
completed in turn (R233, R234, R235, R236, R238, R239, R242, R248, R249, R250, R251, R252). -/
def Obligations.RingsFeedTheDispatcherAndComplete : Prop :=
  ∀ s : State, s.coreOn = true →
    (∀ r q : Req, (s.met r).admits 6 (wordStore r) q → targetOf (bits q.addr 41 0) = .doorbells → bits q.addr 11 10 = 0 →
      let p := bits q.addr 23 12
      let k := bits q.addr 9 6
      let x := s.ring p k
      let tail := takeBytes q.data 0 4
      s.pitchState p ≠ 0 → s.pitchState p ≠ 4 → bitOf (s.reg (E.pitchBudgetClasses p)) q.bclass = true → tail ≠ x.tail →
        Completes (.doorbellWrite r) s fun t => t.mem = s.mem ∧ t.dir.entries = s.dir.entries ∧
          if x.enable = true ∧ seqSub 32 tail x.tail ≤ 2 ^ x.log2 - seqSub 32 x.tail x.floor then
            t.ring p k = { x with tail := tail % 2 ^ 32 }
          else t.work = s.work ∧ t.reg (E.pitchDoorbellDrops p) = min countMax (s.reg (E.pitchDoorbellDrops p) + 1)) ∧
    (∀ (role : Role) p b, wfPitch p = true → Served s → mayWrite role (0x4000 + p) 0x10 = true → b.length = 256 →
      Completes (.ringConfigWrite role p b) s fun t =>
        t = { s with regs := t.regs, work := { s.work with rings := t.work.rings }, fuses := s.fuses.programmed } ∧
          RegsKept [E.mgmtWritesIgnored] s t ∧
          ∀ k, k < 16 → (s.ring p k).enable = false → (s.ring p k).floor = (s.ring p k).tail →
            let w0 := ((wordsOfBytes b).getD (2 * k) 0).toNat
            let w1 := ((wordsOfBytes b).getD (2 * k + 1) 0).toNat
            t.ring p k = { s.ring p k with
              base := bits w0 51 0, log2 := bits w0 56 52, compl := bits w1 51 0
              enable := bitOf w1 52 && s.ringAllowed p (bits w0 51 0) (bits w1 51 0) (bits w0 56 52) }) ∧
    (∀ p k env u ws, s.fetches p = true → (s.ring p k).enable = true → (s.ring p k).fetched ≠ (s.ring p k).tail →
      s.front.readDescSlot env p ((s.ring p k).base + 128 * ((s.ring p k).fetched % 2 ^ (s.ring p k).log2)) = (u, .ok, ws) →
      let id : DescId := { pitch := p, ring := k, seq := (s.ring p k).fetched }
      let d := freshDesc id ws
      let d := { d with prio := max (d.fld 0 9 8) (u.reg (E.pitchPriorityFloor p)) }
      d.opcode ≠ 0x10 → (u.headerCheck d).2 = none → u.desc id = none → Completes (.descriptorFetch p k env) s fun t =>
        (t.ring p k).fetched = ((s.ring p k).fetched + 1) % 2 ^ 32 ∧ t.mem = u.mem ∧
          ∃ e, t.desc id = some e ∧ e.words = ws ∧ e.prio = d.prio ∧
            (e.phase = if u.firstRanges d = [] then .ready else .walking)) ∧
    (∀ d u, s.stop.halted = false →
      (argMin Desc.preference (s.markEligible.work.descs.filter fun d => d.eligible.isSome && s.markEligible.placing d != .wait))
        = some d → s.markEligible.placing d = .give u → d.phase = .ready → Completes .dispatch s fun t =>
          t.work.nextOrder = s.work.nextOrder + 1 ∧ t.mem = s.mem ∧ t.dir = s.dir ∧
            ∃ e, t.desc d.id = some e ∧ e.phase = .dispatched ∧
              match u with
              | .bivouac b => e.parts = d.parts ++ [{ idx := d.parts.length, biv := b, order := s.work.nextOrder }]
              | u => e.unit = some u ∧ e.order = s.work.nextOrder) ∧
    (∀ u d, (∀ b, u ≠ .bivouac b) → ((s.unitWaiting u).find? fun d => !s.unitBusy u d) = some d → d.timed = false →
      d.start = none → s.unitUp u = true → Completes (.descriptorStart u) s fun t =>
        t.desc d.id = some { d with phase := .running, start := some s.now } ∧ t.mem = s.mem ∧ t.dir = s.dir) ∧
    (∀ id d, s.runs id 1 d → Completes (.nop id) s fun t =>
      t.decided id 0 0 ∧ (∀ j, j ≠ id → t.desc j = s.desc j) ∧ RegsKept [] s t ∧ t.mem = s.mem ∧ t.dir = s.dir) ∧
    ∀ id d o env, s.desc id = some d → d.phase = .decided → d.outcome = some o →
      let x := s.ring id.pitch id.ring
      let a := x.compl + 32 * (id.seq % 2 ^ x.log2)
      let u := s.front.ownWrite env id.pitch a (rangeMask (a % 64) 32)
        (placeBytes (a % 64) 32 (leNat (bytesOfWords (recordWords d o x.log2 s.now)))) d.charge
      u.kettle.draining = false → u.work = s.work → x.floor = id.seq → x.dispatched = (id.seq + 1) % 2 ^ 32 →
        x.dispatched ≠ x.floor → x.fetched = x.dispatched →
        Completes (.descriptorComplete id env) s fun t =>
          (t.ring id.pitch id.ring).floor = x.dispatched ∧ t.desc id = none ∧ t.mem = u.mem ∧ t.dir = u.dir ∧
            t.reg (E.pitchCompletions id.pitch) = min countMax (u.reg (E.pitchCompletions id.pitch) + 1)

/-- A walk that ends translates its descriptor, and RETRY, ABORT, MIGRATE_IN and the end of an action serve a fault
in order (R76, R80, R82, R85, R88, R89, R90, R91). -/
def Obligations.WalksFaultsAndTheirActionsEnd : Prop :=
  ∀ (s : State) (env : Env),
    (∀ id d u rec, s.desc id = some d → d.phase = .walking → d.opcode ≠ 0x10 → d.needTable = false →
      State.walkRanges env id.pitch d.charge d.todo false s.front d.record = (u, rec, .going, []) → u.work.descs = s.work.descs →
      Completes (.walkComplete id env) s fun t =>
        t.desc id = some { d with phase := .ready, record := rec, todo := [], fault := none, rewalk := false } ∧ t.mem = u.mem) ∧
    (∀ (role : Role) p v, wfPitch p = true → Served s → mayWrite role (0x4000 + p) 0x23 = true → v < 65536 →
      Completes (.faultHeadWrite role p v) s fun t =>
        let done := s.reg (E.pitchFaultDone p)
        if seqSub 16 (s.reg (E.pitchFaultHead p)) done ≤ seqSub 16 v done ∧
            seqSub 16 v done ≤ seqSub 16 (s.reg (E.pitchFaultTail p)) done then
          RegsOnly [E.pitchFaultHead p] s t ∧ t.reg (E.pitchFaultHead p) = v
        else RegsOnly [E.mgmtWritesIgnored] s t) ∧
    (∀ p seq e u w, s.nextAction p seq = some e → s.front.readAction env p seq = (u, w) → u.work = s.work →
      let v := u.setFault e { e with acted := true, finished := true }
      let done := fun (f : FaultEnt) (t : State) => t.work.faults = s.work.faults.map fun x => if x = e then f else x
      (bits w 3 0 ≤ 1 → ∀ d x rec, v.attached p seq = [d] → v.desc d.id = some d → d.needTable = false →
        State.walkRanges env d.id.pitch d.charge d.todo true v d.record = (x, rec, .going, []) → x.work = v.work →
        Completes (.retry p seq env) s fun t => done { e with acted := true, finished := true } t ∧
          t.desc d.id = some { d with phase := .ready, record := rec, todo := [], fault := none, rewalk := false }) ∧
      (3 ≤ bits w 3 0 → ∀ d, v.attached p seq = [d] → d.outcome = none → Completes (.abort p seq env) s fun t =>
        done { e with acted := true, finished := true } t ∧
          ∃ f, t.desc d.id = some f ∧ f.phase = .decided ∧ f.outcome = some { status := 0x0C, detail := e.cause }) ∧
      (bits w 3 0 = 2 → ∀ x, u.readEntry env p e.addr (.cls (u.waiterClass e)) = (x, some e.entry) → x.work = s.work →
        x.port = s.port → x.migrateTarget p (bits w 51 16) = true → x.portUp (.host (bits e.entry 6 5)) = true →
        1024 ≤ (s.freeIoTags (bits e.entry 6 5)).length → Completes (.migrateIn p seq env) s fun t =>
          t.work.migrations = s.work.migrations ++ [{ pitch := p, seq, va := e.va, addr := e.addr, entry := e.entry
                                                      frame := bits w 51 16, bclass := u.waiterClass e }] ∧
            t.port.ios.length = s.port.ios.length + 1024 ∧ done { e with acted := true } t ∧ t.mem = x.mem)) ∧
    (∀ port tag a q m u st, (s.port.ios.find? fun q => q.port == port && q.tag == tag) = some q →
      (s.work.migrations.find? fun m => m.pitch == q.pitch && m.seq == q.seq) = some m → a.status = .ok →
      let v := { s.front with port := { s.port with ios := s.port.ios.filter fun r => r != q } }
      v.localWrite env q.pitch q.pitch (bits q.dst 41 0) fullMask a.data (.cls m.bclass) = (u, st) → u.port.ios = v.port.ios →
      (v.port.ios.any fun r => r.pitch == q.pitch && r.seq == q.seq) = true → Completes (.cxlIoCompletion port tag a env) s fun t =>
        t.port.ios = s.port.ios.filter (fun r => r != q) ∧ t.mem = u.mem ∧ t.work = u.work) ∧
    ∀ p seq e, (s.work.faults.find? fun e => e.pitch == p && e.seq == seq && e.finished && !e.closed) = some e →
      let v := s.front.setFault e { e with closed := true }
      let u := v.ownWrite env p (s.faultSlot p seq) (rangeMask 56 8)
        (placeBytes 56 8 (packWord [(0, seq), (16, 1), (17, b2n e.failed)]).toNat) (.cls 0)
      u.work = v.work → u.reg (E.pitchFaultDone p) = seq → s.faultWaiting p = 0 →
        (s.work.faults.any fun x => x.pitch == p && x.seq == (seq + 1) % 65536 && x.closed) = false →
        Completes (.faultActionDone p seq env) s fun t => t.reg (E.pitchFaultDone p) = (seq + 1) % 65536 ∧
          t.work.faults = s.work.faults.filter (fun x => !(x.pitch == p && x.seq == seq)) ∧ t.mem = u.mem

/-- Invalidations are taken one at a time and counted, roots drop their cached entries, and FLUSH_RANGE ends once
its writes are answered (R80, R93, R95, R98, R141, R246). -/
def Obligations.InvalidationsAndFlushesEnd : Prop :=
  ∀ s : State,
    let queued := fun (v : Inval) (t : State) =>
      if (s.work.invals.any fun x => x.pitch == v.pitch) = true then t.work.invals = s.work.invals ++ [v]
      else t.work.invals = s.work.invals ++ [{ v with taken := true }] ∧
        ∀ e ∈ t.work.xcache, e ∈ s.work.xcache ∧ ¬ (e.1 / 2 ^ 50 = v.pitch ∧ bitOf e.2.toNat 1 = false)
    (∀ id d, s.desc id = some d → d.opcode = 0x10 → d.phase = .walking → invalLegal (d.word 4) (d.word 5) = true →
      Completes (.xlateInvalidate id) s fun t => RegsKept [] s t ∧ t.mem = s.mem ∧
        queued { pitch := if id.pitch = 0 then d.fld 8 27 16 else id.pitch, va := d.word 4, pages := d.word 5, owner := some id
                 taken := false } t) ∧
    (∀ (role : Role) p b, wfPitch p = true → Served s → mayWrite role (0x4000 + p) 0x28 = true → b.length = 32 →
      s.invalPending p < 15 → Completes (.xlateInvalWrite role p b) s fun t => t.mem = s.mem ∧ t.dir = s.dir ∧
        let va := leNat (b.take 8)
        let pages := leNat ((b.drop 8).take 8)
        if invalLegal va pages = true then
          queued { pitch := p, va, pages, owner := none, taken := false } t ∧ RegsKept [] s t
        else t.work = s.work ∧ t.reg (E.pitchInvalDone p) = (s.reg (E.pitchInvalDone p) + 1) % 2 ^ 32) ∧
    (∀ p v, (s.work.invals.find? fun x => x.pitch == p && x.taken) = some v → s.invalEnded v = true →
      ((s.work.invals.filter fun x => x != v).any fun x => x.pitch == p) = false →
      Completes (.invalidationDone p) s fun t =>
        t.work.invals = s.work.invals.filter (fun x => x != v) ∧ t.work.xcache = s.work.xcache ∧ t.mem = s.mem ∧
          match v.owner with
          | none => RegsKept [E.pitchInvalDone p] s t ∧
              t.reg (E.pitchInvalDone p) = (s.reg (E.pitchInvalDone p) + 1) % 2 ^ 32
          | some id => RegsKept [] s t ∧ ∀ d, s.desc id = some d → d.outcome = none → t.decided id 0 0) ∧
    (∀ (role : Role) p v, wfPitch p = true → Served s → v < 2 ^ 64 →
      (mayWrite role (0x4000 + p) 0x20 = true → Completes (.xlateRootWrite role p v) s fun t =>
        RegsKept [E.pitchXlateRoot p] s t ∧ t.reg (E.pitchXlateRoot p) = v ∧
          t.work = { s.work with xcache := s.work.xcache.filter fun e => e.1 / 2 ^ 50 != p } ∧ t.mem = s.mem) ∧
      (mayWrite role (0x4000 + p) 0x21 = true → Completes (.faultRingBaseWrite role p v) s fun t =>
        if s.reg (E.pitchFaultTail p) = s.reg (E.pitchFaultDone p) ∧ s.faultWaiting p = 0 then
          RegsOnly [E.pitchFaultRingBase p] s t ∧ t.reg (E.pitchFaultRingBase p) = v
        else RegsOnly [E.mgmtWritesIgnored] s t)) ∧
    ∀ id d, s.desc id = some d → d.opcode = 3 → d.phase = .running →
      (d.outcome = none →
        (s.work.descs.any fun x => x.id.pitch == id.pitch && x.id.ring == id.ring && decide (x.order < d.order) &&
          x.unit.isSome && x.phase != .done) = false →
        ∀ env u n,
          s.front.wbFlush env id.pitch (if d.word 5 = 0 then fun (l : WbLine) => l.pitch == id.pitch
            else fun (l : WbLine) => recordLine d.record { va := d.fld 4 56 0, len := d.word 5 } l.addr) = (u, n) →
          u.work = s.work → Completes (.flushRange id env) s fun t =>
            t.desc id = some { d with outcome := some { status := 0, result := n } } ∧ t.mem = u.mem ∧ t.biv = u.biv) ∧
      ∀ o, d.outcome = some o → Completes (.flushRangeDone id) s fun t =>
        t.desc id = some { d with phase := .decided } ∧ RegsKept [] s t ∧ t.mem = s.mem ∧ t.dir = s.dir

/-- READ, WRITE, DOMAIN_READ, DOMAIN_WRITE and DESCRIBE of a path are answered once, after their items are performed
in order (R440, R442, R445, R448, R449, R450, R451, R452, R453, R454). -/
def Obligations.RequestsArePerformedInOrderAndAnswered : Prop :=
  ∀ (s : State) (p : Path) (role : Role) (seq : Nat), s.dictUp = true → s.dictHeld = false → s.owes = false →
    let u := s.front.bump E.mgmtRequests
    let fits := fun (items : DapItems) => items.bodyBytes ≤ (pathLimits p).1 ∧ items.segment ≤ (pathLimits p).2.2
    let quiet := fun (t : State) => RegsKept [E.mgmtRequests] s t ∧ t.mem = s.mem ∧ t.dir = s.dir ∧ t.log = s.log ∧
      t.reg E.mgmtRequests = min countMax (s.reg E.mgmtRequests + 1)
    (∀ es, fits (.read es) → u.readable p role es → Completes (.read p role seq es) s fun t =>
      quiet t ∧ t.dict = s.dict ∧ t.sent = .dap p (dapResponse 1 seq 0 es.length (u.readOut es)) :: s.sent) ∧
    (∀ ws : List WriteItem, fits (.write ws) → (ws.any fun w => decide (11 ≤ w.type)) = false →
      s.servesAll (ws.map fun w => w.entry) = true →
      let v := ws.foldl (fun s w => s.writeItem role w) u
      v.owes = false → Completes (.write p role seq ws) s fun t =>
        t.regs = v.regs ∧ t.dict = v.dict ∧ t.mem = v.mem ∧ t.port = v.port ∧
          t.sent = .dap p (dapResponse 2 seq 0 ws.length []) :: (v.sent ++ s.sent)) ∧
    (∀ e len, fits (.domRead e 0 len) → mayRead role e.index e.sub = true → typeOf e.index e.sub = 10 →
      s.servesEntry e.index e.sub = true →
      let b := (u.takeBlock e.index e.sub).2
      b.length ≤ len → Completes (.domainRead p role seq e 0 len) s fun t =>
        t.sent = .dap p (dapResponse 3 seq 0 1
            (padItem (itemHead e 1 ++ leBytes 4 0 ++ leBytes 4 b.length ++ b))) :: s.sent ∧
          t.snapshot p e = none) ∧
    (∀ e data, fits (.domWrite e 0 false data) → mayWrite role e.index e.sub = true → typeOf e.index e.sub = 10 →
      s.servesEntry e.index e.sub = true → s.secondImage p e = false → s.dict.transfers.length < 16 →
      Completes (.domainWrite p role seq e 0 false data) s fun t => quiet t ∧
        t.transfer p e = some { path := p, entry := e, data } ∧
        t.sent = .dap p (dapResponse 4 seq 0 1 (itemHead e 0 ++ leBytes 4 data.length ++ leBytes 4 0)) :: s.sent) ∧
    (∀ es, fits (.describe es) → s.servesAll es = true → 16 + (es.flatMap describeItem).length ≤ (pathLimits p).2.1 →
      Completes (.describe p role seq es) s fun t => quiet t ∧ t.dict = s.dict ∧
        t.sent = .dap p (dapResponse 5 seq 0 es.length (es.flatMap describeItem)) :: s.sent) ∧
    ∀ e x, s.transfer p e = some x → Completes (.domainTimeout p e) s fun t =>
      t.transfer p e = none ∧ t.snapshot p e = none ∧ t.sent = s.sent ∧ RegsKept [E.mgmtDomainTimeouts] s t ∧
        t.reg E.mgmtDomainTimeouts = min countMax (s.reg E.mgmtDomainTimeouts + 1)

/-- Management frames queue their answers, slots answer a GO write, and keys and floors change at the second write
(R25, R440, R455, R456, R457, R458, R459, R460, R464, R465). -/
def Obligations.PathsCarryRequestsAndIrreversibleWritesRepeat : Prop :=
  ∀ s : State, s.dictUp = true → s.dictHeld = false → s.owes = false →
    (∀ (f : EthFrame) es, f.fcsOk = true → s.accepts f = true →
      (s.dict.replies.any fun r => r.1 == (f.src, leNat ((f.body.drop 2).take 2))) = false →
      parseBody (.mgmt f.src) f.body = .ok (.read es) →
      let u := (s.front.bump E.mgmtFramesRx).bump E.mgmtRequests
      u.readable (.mgmt f.src) .bm es → Completes (.mgmtFrame f) s fun t =>
        let b := dapResponse 1 (leNat ((f.body.drop 2).take 2)) 0 es.length (u.readOut es)
        t.dict.txq = s.dict.txq ++ [{ dst := f.src, body := b, fires := false }] ∧
          t.dict.replies = (((f.src, leNat ((f.body.drop 2).take 2)), b) :: s.dict.replies).take 16 ∧
          t.reg E.mgmtFramesRx = min countMax (s.reg E.mgmtFramesRx + 1) ∧
          RegsKept [E.mgmtFramesRx, E.mgmtRequests] s t ∧ t.mem = s.mem ∧ t.sent = s.sent) ∧
    (∀ m rest, s.reg E.mgmtPlcaStatus = 2 → s.reg E.mgmtPlcaBurstCount = 0 → s.dict.txq = m :: rest → m.fires = false →
      Completes .transmitOpportunity s fun t => t.sent = .mgmt m.dst m.body :: s.sent ∧ t.dict.txq = rest ∧
        t.reg E.mgmtFramesTx = min countMax (s.reg E.mgmtFramesTx + 1) ∧ RegsKept [E.mgmtFramesTx] s t) ∧
    (s.reg E.mgmtPlcaStatus = 2 → Completes .plcaBeaconLoss s fun t => RegsOnly [E.mgmtPlcaStatus, E.mgmtBeaconLosses] s t ∧
      t.reg E.mgmtPlcaStatus = 1 ∧ t.reg E.mgmtBeaconLosses = min countMax (s.reg E.mgmtBeaconLosses + 1)) ∧
    (s.reg E.mgmtPlcaStatus = 1 → Completes .plcaBeaconReceived s fun t =>
      RegsOnly [E.mgmtPlcaStatus] s t ∧ t.reg E.mgmtPlcaStatus = 2) ∧
    (∀ (r q : Req) i es, i < 4 → r.port = .host i → s.coreOn = true → s.portUp r.port = true →
      s.hostMap { r with mask := 0xFF } = some q → q.addr < 2 ^ 52 → s.fencedSource (s.sourceOf r.port) = false →
      s.slotAddr q.addr = true → slotOfAddr q.addr = i → bits q.addr 15 6 = 0 → bitOf (takeBytes q.data 0 8) 32 = true →
      (s.slot i).busy = false → (s.slot i).done = false →
      parseBody (.window i) (s.slotBytes i 0x40 (min 32704 (16 + leNat (s.slotBytes i 0x46 2)))) = .ok (.read es) →
      (∀ e ∈ es, mayRead .hd e.index e.sub = true) → s.servesAll es = true →
      Completes (.windowGo r) s fun t =>
        t.slot i = { doneSeq := takeBytes q.data 0 4, busy := false, done := true } ∧ t.mem = s.mem) ∧
    (∀ v, Served s → v < 2 ^ 48 → v % 2 = 0 → v ≠ 0 → Completes (.macAddressWrite v) s fun t =>
      RegsKept [E.mgmtMacAddress] s t ∧ t.reg E.mgmtMacAddress = v ∧ t.dict = s.dict ∧ t.mem = s.mem) ∧
    (Served s → ∀ v,
      let again := fun (role : Role) (key : Nat) => s.dict.armed.any fun a =>
        decide (s.cclk ≤ a.time + msCclk 1000) && (a.role == role && a.key == key && a.value == v)
      (v < 8 → ((List.range 8).any fun j => j != v && s.keyState j == 1) = true → Completes (.revoke v) s fun t =>
        t.fuses = (if again (writerOf E.secRevoke) E.secRevoke then { s.fuses.programmed with burning := [.revoke v] }.programmed
          else s.fuses.programmed) ∧ t.regs = s.regs ∧ t.mem = s.mem) ∧
      ∀ c, inRange c 1 3 = true → (s.halves c).active ≠ [] → s.fuses.floorAt c ≤ v → v < 256 →
        v ≤ bits (hdrWord (s.halves c).active 1) 47 32 → Completes (.svnFloorWrite c v) s fun t =>
          t.fuses = (if again (writerOf (E.secSvnFloor (c - 1))) (E.secSvnFloor (c - 1))
            then { s.fuses.programmed with burning := [.floor c v] }.programmed else s.fuses.programmed) ∧
          t.regs = s.regs ∧ t.mem = s.mem)

/-- CLEAR_RANGE, the fault log, LOG_ACK, the Lantern port, its superframes and the sampling timer (R517, R518, R520,
R521, R522, R523, R524, R526). -/
def Obligations.CountsLogAndTraceFollowTheirCommands : Prop :=
  ∀ (s : State) (role : Role) (v : Nat),
    (Served s → v < 2 ^ 32 → bits v 15 0 ≤ bits v 31 16 → (bits v 31 16 < 0x8F00 ∨ 0x8F00 < bits v 15 0) →
      Completes (.clearRange v) s fun t =>
        t = { s with regs := t.regs, fuses := s.fuses.programmed } ∧ t.reg E.cntClearTime = s.now ∧
          ∀ k, k ≠ E.cntClearTime →
            t.reg k = if isCount k ∧ bits v 15 0 ≤ k / 256 ∧ k / 256 ≤ bits v 31 16 then 0 else s.reg k) ∧
    (∀ e rest, s.running = true → s.log.queue = e :: rest → Completes .logEntryWrite s fun t =>
      t.log.queue = rest ∧ t.logEntry (s.reg E.logLogNextSeq) = e.words (s.reg E.logLogNextSeq) ∧
        t.reg E.logLogNextSeq = (s.reg E.logLogNextSeq + 1) % 2 ^ 32 ∧ t.reg E.logLogAck = s.reg E.logLogAck ∧
        t.mem = s.mem ∧ t.dir = s.dir ∧ t.port = s.port) ∧
    (Served s → mayWrite role 0x8100 3 = true → v < 2 ^ 32 → Completes (.logAckWrite role v) s fun t =>
      if seqSub 32 v (s.reg E.logLogAck) ≤ seqSub 32 (s.reg E.logLogNextSeq) (s.reg E.logLogAck) then
        RegsOnly [E.logLogAck] s t ∧ t.reg E.logLogAck = v
      else RegsOnly [E.mgmtWritesIgnored] s t ∧
        t.reg E.mgmtWritesIgnored = min countMax (s.reg E.mgmtWritesIgnored + 1)) ∧
    (Served s → mayWrite role 0x8200 1 = true → v ≤ 1 → Completes (.lanternEnableWrite role v) s fun t =>
      RegsOnly [E.traceLanternEnable] s t ∧ t.reg E.traceLanternEnable = v) ∧
    (s.running = true → s.reg E.traceLanternEnable = 1 → Completes .superframeSend s fun t =>
      ∃ crc recs, t.sent = .superframe [packWord [(0, 0x4C414E54), (32, s.trace.superframe)], BitVec.ofNat 64 s.now,
          packWord [(0, s.trace.dropped), (16, s.deviceNumber), (32, crc)], 0] recs :: s.sent ∧
        recs.length = 127 ∧ s.trace.buffer.take 127 <+: recs ∧ crc = crc32c (recs.flatMap bytesOfWords) ∧
        t.trace = { s.trace with
          buffer := s.trace.buffer.drop 127, dropped := 0, superframe := (s.trace.superframe + 1) % 2 ^ 32 } ∧
        t.reg E.traceSuperframes = min countMax (s.reg E.traceSuperframes + 1) ∧
        RegsKept [E.traceSuperframes] s t ∧ t.mem = s.mem ∧ t.log = s.log) ∧
    (s.coreOn = true → s.reg E.traceLanternEnable = 1 → bitOf (s.reg E.traceTraceTypes) 6 = true →
      s.reg E.traceTracePitch = 0xFFFF → bitOf (s.reg E.stopStopTriggers) 1 = false → s.stop.frozen = false →
      s.trace.buffer.length < 2048 → s.trace.samples.length = 4 → Completes .sampleTimer s fun t =>
        let idx := leNat (s.trace.samples.take 2)
        let sub := leNat ((s.trace.samples.drop 2).take 1)
        t = { s with
          trace := { s.trace with buffer := s.trace.buffer ++
            [({ type := 6, seq := idx + sub * 65536, data := s.value idx sub } : TraceEv).record s.now] }
          fuses := s.fuses.programmed })

/-- STOP_NOW and STOP_REQ latch the trigger, STOP_IN stops the device, RESUME lets it go on, and the TAP moves
nothing else (R473, R528, R529, R530, R531, R533). -/
def Obligations.StopAndTapFollowTheirCommands : Prop :=
  ∀ (s : State) (role : Role),
    (Served s → mayWrite role 0xA000 5 = true → Completes (.stopNow role) s fun t =>
      if s.stop.latched then t = { s with fuses := s.fuses.programmed }
      else t = { s with regs := t.regs, stop := { s.stop with latched := true }, fuses := s.fuses.programmed } ∧
        t.reg E.stopStopCause = 1 ∧ RegsKept [E.stopStopCause] s t) ∧
    (s.running = true → s.stop.stopIn = true → s.reg E.stopStopMode ≠ 0 → bitOf (s.reg E.stopStopTriggers) 1 = false →
      Completes .stopInLow s fun t =>
        let halt := s.reg E.stopStopMode == 2
        t.stop = { latched := s.stop.latched, stopIn := false, halted := halt, frozen := !halt } ∧
          t.reg E.stopStopState = (if halt then 2 else 3) ∧ t.reg E.stopStopTime = s.now ∧
          t.reg E.stopStopOrigin = b2n s.stop.latched ∧
          t.reg E.stopStopCause = (if s.stop.latched then s.reg E.stopStopCause else 5) ∧
          t.reg E.stopStops = min countMax (s.reg E.stopStops + 1) ∧ t.mem = s.mem ∧ t.dir = s.dir ∧ t.stile = s.stile) ∧
    (Served s → Completes .stopClear s fun t =>
      t = { s with stop := { s.stop with latched := false, stopIn := true }, fuses := s.fuses.programmed }) ∧
    (Served s → Completes .resume s fun t =>
      if s.stop.stopIn = true ∨ s.reg E.stopStopMode = 0 then
        t = { s with
            regs := t.regs, stop := { s.stop with stopIn := true, halted := false, frozen := false }
            fuses := s.fuses.programmed } ∧
          t.reg E.stopStopState = 0 ∧ RegsKept [E.stopStopState] s t
      else RegsOnly [E.mgmtWritesIgnored] s t) ∧
    (s.power.phase ≠ .off →
      let selects := fun (c : Instr) (ir : JtagIr) (driven highZ : Bool) => Completes c s fun t =>
        t = { s with jtag := { s.jtag with ir, driven, highZ }, fuses := s.fuses.programmed }
      selects .jtagBypass .bypass false false ∧ selects .extest .extest true false ∧ selects .highz .highz false true ∧
        selects .clamp .clamp true false ∧ selects .tapReset .idcode false false ∧
        (Completes .idcode s fun t => t = { s with
          jtag := { s.jtag with ir := .idcode, driven := false, highZ := false }
          sent := .tdo 0x19740E35 :: s.sent, fuses := s.fuses.programmed }) ∧
        (∀ bits, Completes (.samplePreload bits) s fun t => t = { s with
          jtag := { ir := .samplePreload, boundary := bits, driven := false, highZ := false }
          fuses := s.fuses.programmed }) ∧
        (bitOf (s.reg E.stopStopTriggers) 2 = false → selects .stopReq .stopReq false false) ∧
        (s.running = true → bitOf (s.reg E.stopStopTriggers) 2 = true → s.stop.latched = false →
          Completes .stopReq s fun t => t.jtag.ir = .stopReq ∧ t.stop.latched = true ∧ t.reg E.stopStopCause = 4 ∧
            RegsKept [E.stopStopCause] s t ∧ t.mem = s.mem))

/-- AGENT_FENCE and its walk, PEER_FENCE, the audit snapshot, DIAG_STATE and BREAK (R156, R158, R163, R508, R509,
R512, R515). -/
def Obligations.FencesAuditsAndBreaksFollowTheirCommands : Prop :=
  ∀ (s : State) (a k : Nat) (role : Role), Served s →
    let fence := s.reg E.fenceAgentFence
    let done := s.reg E.fenceAgentFenceDone
    (a < 64 → fence < 2 ^ 64 → bitOf fence a = false → (∀ x ∈ s.dir.trans, a ∉ x.waiting) →
      Completes (.agentFenceSet a) s fun t =>
        t = { s with
          regs := t.regs, dir := { s.dir with fenceWalks := s.dir.fenceWalks ++ [a] }, fuses := s.fuses.programmed } ∧
        t.reg E.fenceAgentFence = fence + 2 ^ a ∧ RegsKept [E.fenceAgentFence] s t) ∧
    (a < 64 → fence < 2 ^ 64 → bitOf fence a = true → Completes (.agentFenceClear a) s fun t =>
      if bitOf done a then RegsOnly [E.fenceAgentFence] s t ∧ t.reg E.fenceAgentFence = fence - 2 ^ a
      else RegsOnly [E.mgmtWritesIgnored] s t ∧ t.reg E.mgmtWritesIgnored = min countMax (s.reg E.mgmtWritesIgnored + 1)) ∧
    (∀ b : Word, done < 2 ^ 64 → Completes (.agentFenceDoneClear b) s fun t =>
      RegsOnly [E.fenceAgentFenceDone] s t ∧ ∀ i, i < 64 → bitOf (t.reg E.fenceAgentFenceDone) i =
        (bitOf done i && !(bitOf b.toNat i && !bitOf fence i))) ∧
    (s.dir.fenceWalks.contains a = true →
      let walked := { s.dir with fenceWalks := s.dir.fenceWalks.filter (· != a) }
      ((∀ e ∈ s.dir.entries, e.2.sharers &&& agentBit a = 0 ∧ ¬ (e.2.state = .x ∧ e.2.owner = a)) →
        Completes (.agentFenceWalkDone a) s fun t =>
          t = { s with regs := t.regs, dir := walked, fuses := s.fuses.programmed } ∧
            t.reg E.fenceAgentFenceDone = done ||| 2 ^ a ∧ RegsKept [E.fenceAgentFenceDone] s t) ∧
      (∀ ln e, s.dir.entries = [(ln, e)] → e.state = .s → e.sharers = agentBit a → agentBit a ≠ 0 →
        Completes (.agentFenceWalkDone a) s fun t =>
          (t.entry ln).elim true (fun x => x.state == .i && x.sharers == 0) = true ∧ t.mem = s.mem ∧
            t.reg E.fenceAgentFenceDone = done ||| 2 ^ a)) ∧
    (∀ b : BitVec 8,
      (bitOf b.toNat (s.reg E.idBoardPos) = false →
        (∀ n j, n < 24 → j < 8 → bitOf b.toNat j = true → bitOf (s.reg E.fencePeerFence) j = false →
          s.partnerAt n j = false) →
        Completes (.peerFenceWrite b) s fun t => RegsOnly [E.fencePeerFence] s t ∧ t.reg E.fencePeerFence = b.toNat) ∧
      (bitOf b.toNat (s.reg E.idBoardPos) = true → Completes (.peerFenceWrite b) s fun t =>
        RegsOnly [E.mgmtWritesIgnored] s t ∧
          t.reg E.mgmtWritesIgnored = min countMax (s.reg E.mgmtWritesIgnored + 1))) ∧
    (mayRead role 0x9100 3 = true → s.log.queue.length < 64 →
      let b := s.book (s.reg E.auditAuditKind) (s.reg E.auditAuditUnit)
      let ws := b.words (s.reg E.auditAuditKind) (s.reg E.auditAuditUnit) s.now
      Completes (.auditSnapshotRead role) s fun t =>
        t.sent = .block 0x9100 3 (bytesOfWords ws) :: s.sent ∧
          t.reg E.auditAuditRuns = min countMax (s.reg E.auditAuditRuns + 1) ∧
          RegsKept [E.auditAuditRuns, E.auditAuditFails] s t ∧
          (if b.balanced ∨ b.window then t.log = s.log ∧ t.reg E.auditAuditFails = s.reg E.auditAuditFails
            else t.reg E.auditAuditFails = min countMax (s.reg E.auditAuditFails + 1) ∧
              t.log = { s.log with queue := s.log.queue ++ [{
                time := s.now, code := 0x0006, severity := 1, pitch := 0xFFF, unit := 0
                detail := (ws.headD 0).toNat }] }) ∧
          t.mem = s.mem ∧ t.dir = s.dir ∧ t.port = s.port) ∧
    (s.reg E.stileDiagLock = k → k < 65536 →
      ((s.lock k).held = true → s.now < (s.lock k).leaseEnd → Completes .diagStateRead s fun t =>
        t = { s with sent := .block 0x9400 0x0B (bytesOfWords (lockRecord (s.lock k))) :: s.sent
                     fuses := s.fuses.programmed }) ∧
      ((s.lock k).held = true → (s.lock k).leaseEnd ≤ s.now → Completes .diagStateRead s fun t =>
        (t.lock k).held = false ∧ (t.lock k).broken = true ∧ (t.lock k).generation = (s.lock k).generation ∧
          (∀ j, j ≠ k → t.lock j = s.lock j) ∧
          t.reg E.stileExpiries = min countMax (s.reg E.stileExpiries + 1) ∧ RegsKept [E.stileExpiries] s t ∧
          t.sent = .block 0x9400 0x0B (bytesOfWords (lockRecord (t.lock k))) :: s.sent ∧ t.mem = s.mem)) ∧
    (k < 65536 → (s.lock k).held = true → s.now < (s.lock k).leaseEnd → Completes (.stileBreak k) s fun t =>
      t = { s with regs := t.regs, stile := t.stile, fuses := s.fuses.programmed } ∧
        t.lock k = { s.lock k with
          held := false, broken := true, pitch := 0, source := 0, tag := 0
          leaseEnd := if s.settleTicks = 0 then 0 else s.now + s.settleTicks } ∧
        (∀ j, j ≠ k → t.lock j = s.lock j) ∧
        t.reg E.stileResetBreaks = min countMax (s.reg E.stileResetBreaks + 1) ∧ RegsKept [E.stileResetBreaks] s t) ∧
    (k < 65536 → (s.lock k).held = false → (s.lock k).leaseEnd = 0 → Completes (.stileBreak k) s fun t =>
      t = { s with fuses := s.fuses.programmed })

/-- A fetched instruction of a Peg has its effect on that Peg, and nothing else of the Bivouac changes (R150, R155,
R201, R203, R205, R207, R208, R225, R227). -/
def Obligations.PegsExecuteTheInstructionsTheyFetch : Prop :=
  ∀ (s : State) (env : Env) (b g : Nat) (w : PegWho) (p : Peg) (u : State) (n raw i : Nat), s.pegAt env b g w p u n raw i →
    let rd := bits i 11 7
    let f3 := bits i 14 12
    let op := bits i 6 0
    let a := p.reg (bits i 19 15)
    let c := p.reg (bits i 24 20)
    let line := ((recordAddr w.d.record a).map fun x => x.2 / 64 * 64).getD (a / 64 * 64)
    let steps := fun (cmd : Instr) (v : State) (q : Peg) => Completes cmd s fun t => PegSteps v s t b g q
    let run := fun (q : Peg) => steps (.pegInstruction b g env) u q
    let put := fun (x : Nat) => (p.setReg rd x).retire n
    let vec := op = 0x57 ∨ ((op = 0x07 ∨ op = 0x27) ∧ f3 ≠ 2)
    (op = 0x13 → f3 = 0 → run (put ((a + immI i) % 2 ^ 64))) ∧
    (op = 0x33 → f3 = 0 → bits i 31 25 = 0 → run (put ((a + c) % 2 ^ 64))) ∧
    (op = 0x33 → f3 = 0 → bits i 31 25 = 0x20 → run (put ((a + 2 ^ 64 - c) % 2 ^ 64))) ∧
    (op = 0x37 → run (put (immU i))) ∧
    (op = 0x6F → run { p.setReg rd ((p.pc + n) % 2 ^ 64) with
      pc := (p.pc + immJ i) % 2 ^ 64, instret := p.instret + 1, waiting := none, stageWait := false }) ∧
    (op = 0x63 → ∀ taken, branchTaken f3 a c = some taken →
      run { p.retire n with pc := (p.pc + if taken then immB i else n) % 2 ^ 64 }) ∧
    (op ≠ 0x2F → op ≠ 0x0B → op ≠ 0x2B → ¬ vec → ∀ v q, u.scalar env w p n i = .done v q .ok →
      steps (.pegInstruction b g env) v q) ∧
    (vec → ∀ v q, u.vector env w p n i = .done v q .ok → steps (.pegInstruction b g env) v q) ∧
    (i = 0x73 → ∀ m, u.physOf b = some m → Completes (.pegInstruction b g env) s fun t =>
      (t.bivAt b).kernel = none ∧ t.reg (E.bivLastFault m) = 8 + g * 256 ∧ t.mem = u.mem ∧ t.sward = u.sward) ∧
    (op = 0x2F → bits i 31 27 = 3 → (f3 = 2 ∨ f3 = 3) → a % 2 ^ f3 = 0 → p.resv ≠ some line →
      steps (.pegAmo b g env) u { put 1 with resv := none }) ∧
    (op = 0x2F → bits i 31 27 = 0 → f3 = 3 → a % 8 = 0 → stackedTarget w.d.record a = none →
      ∀ v x old, u.pegLoad env w a 8 7 = (v, .ok, old) → old < 2 ^ 64 →
        v.pegStore env w a 8 ((old + c) % 2 ^ 64) = (x, .ok) → steps (.pegAmo b g env) x (put old)) ∧
    (op = 0x2F → ∀ v q, u.pegAmoInsn env w p n i = .done v q .ok → steps (.pegAmo b g env) v q) ∧
    (isCustom 0x2B 2 i = true → a % 4 = 0 →
      (stackedTarget w.d.record a = none → ∀ v x old, u.pegLoad env w a 4 7 = (v, .ok, old) →
        v.pegStore env w a 4 (fadd32 old (c % 2 ^ 32)) = (x, .ok) → steps (.amoFaddW b g env) x (put old)) ∧
      ∀ addr v old, stackedTarget w.d.record a = some addr → operandAt w.d a true = true →
        u.homeAtomic env w addr 0x1A 4 (c % 2 ^ 32) = (v, .ok, old) → steps (.amoFaddW b g env) v (put old)) ∧
    ∀ f7 cmd, (f7, cmd) ∈ [(0, Instr.stileAcq b g env), (1, .stileRenewInsn b g env), (2, .stileRel b g env),
        (3, .stileQueryInsn b g env)] → isCustom 0x2B 3 i = true → bits i 31 25 = f7 → bits a 51 42 = u.deviceNumber →
      targetOf (bits a 41 0) = .stile → u.mayOperate w.d.id.pitch (bits a 21 6) = true →
      let r := u.stileOp (0x1C + f7) (bits a 21 6) w.d.id.pitch 92 (bits c 63 48) (c % 2 ^ 33)
      steps cmd r.1 (put r.2.1.toNat)

/-- Ridgepole instructions enter the queue in order, and each entry has its effect on the accumulators and the Sward
(R206, R208, R209, R210, R211, R212, R213, R214, R218, R227). -/
def Obligations.RidgepoleInstructionsQueueAndEntriesEnd : Prop :=
  ∀ (s : State) (b : Nat),
    (∀ g w p u n raw i, s.pegAt {} b g w p u n raw i →
      let x := u.bivAt b
      let a := p.reg (bits i 19 15)
      let c := p.reg (bits i 24 20)
      let k := bits i 25 25
      let ok := u.apertureRange b w.d.id.pitch
      let queues := fun (cmd : Instr) (op : RpOp) (cfg : Nat) =>
        if 16 ≤ x.rpQueue.length then Completes cmd s fun t => PegSteps u s t b g p
        else Completes cmd s fun t => BivBecomes u s t b { x with
          rpCfg := cfg, rpQueue := x.rpQueue ++ [{ op, cfg, peg := g }], pegs := x.pegs.set g (p.retire 4) }
      let status := fun (cmd : Instr) => Completes cmd s fun t =>
        PegSteps u s t b g ((p.setReg (bits i 11 7) x.rpStatus).retire n)
      (isCustom 0x0B 0 i = true → cfgOk a = true → queues (.rpCfg b g) .cfg (a % 2 ^ 23)) ∧
      (isCustom 0x0B 0 i = true → cfgOk a = false → ∀ m, u.physOf b = some m → Completes (.rpCfg b g) s fun t =>
        (t.bivAt b).kernel = none ∧ t.reg (E.bivLastFault m) = 2 + g * 256) ∧
      (isCustom 0x0B 1 i = true → ok a (cfgK x.rpCfg * panelBlockBytes (cfgA x.rpCfg)) false = true →
        ok c (cfgK x.rpCfg * panelBlockBytes (cfgB x.rpCfg)) false = true → queues (.rpMma b g) (.mma k a c) x.rpCfg) ∧
      (isCustom 0x0B 2 i = true → queues (.rpZero b g) (.zero k) x.rpCfg) ∧
      (isCustom 0x0B 3 i = true → ok a 16384 false = true → queues (.rpLoadc b g) (.loadc k a) x.rpCfg) ∧
      (isCustom 0x0B 4 i = true → ok a (storeBytesOf x.rpCfg) true = true → queues (.rpStore b g) (.store k a) x.rpCfg) ∧
      (isCustom 0x0B 5 i = true → status (.rpStat b g)) ∧
      (isCustom 0x0B 6 i = true → x.rpQueue = [] → status (.rpFence b g)) ∧
      (isCustom 0x2B 7 i = true → Completes (.pegExit b g) s fun t =>
        PegSteps u s t b g { p.retire n with exited := some a })) ∧
    (let x := s.bivAt b;
      (s.coreOn = true → s.stopped = false → x.rpRun = false → x.rpQueue ≠ [] → Completes (.ridgepoleEntryStart b) s fun t =>
        BivBecomes s.front s t b { x with rpRun := true, rpBusy := true }) ∧
      ∀ e rest, x.rpRun = true → x.rpQueue = e :: rest → s.entryWaits b e = false →
        let ends := fun (P : State → Prop) => Completes (.ridgepoleEntryEnd b) s fun t =>
          (t.bivAt b).rpRun = false ∧ (t.bivAt b).rpQueue = rest ∧ (t.bivAt b).rpBusy = !rest.isEmpty ∧ P t
        let keeps := fun (a : Nat) (v t : State) => ∀ a', a' < 2 → a' ≠ a →
          (t.bivAt b).poison a' = (v.bivAt b).poison a' ∧
            ∀ i j, i < 64 → j < 64 → (t.bivAt b).accAt a' i j = (v.bivAt b).accAt a' i j
        (e.op = .cfg → ends fun t => (t.bivAt b).acc = x.acc ∧ BivOnly s.front s t) ∧
        (∀ a, a < 2 → e.op = .zero a → ends fun t => BivOnly s.front s t ∧ keeps a s t ∧ (t.bivAt b).poison a = false ∧
          ∀ i j, i < 64 → j < 64 → (t.bivAt b).accAt a i j = 0) ∧
        (∀ a oa ob u v as bs pa pb, a < 2 → e.op = .mma a oa ob →
          s.front.apertureRead b oa (cfgK e.cfg * panelBlockBytes (cfgA e.cfg)) = (u, as, pa) →
          u.apertureRead b ob (cfgK e.cfg * panelBlockBytes (cfgB e.cfg)) = (v, bs, pb) → v.biv = s.biv →
          ends fun t => BivOnly v s t ∧ keeps a v t ∧
            if pa = true ∨ pb = true then (t.bivAt b).poison a = true ∧ (t.bivAt b).acc = x.acc
            else ∀ i j, i < 64 → j < 64 → (t.bivAt b).accAt a i j =
              mmaElement (cfgA e.cfg) (cfgB e.cfg) (cfgK e.cfg) as bs i j (x.accAt a i j)) ∧
        (∀ a o v bs bad, a < 2 → e.op = .loadc a o → s.front.apertureRead b o 16384 = (v, bs, bad) → v.biv = s.biv →
          ends fun t => BivOnly v s t ∧ keeps a v t ∧ (t.bivAt b).poison a = bad ∧
            ∀ i j, i < 64 → j < 64 → (t.bivAt b).accAt a i j = leNat ((bs.drop (256 * i + 4 * j)).take 4)) ∧
        (∀ a o, e.op = .store a o → x.poison a = false → ends fun t =>
          t.sward = (s.front.apertureWrite b o (x.storeImage a e.cfg)).sward ∧ (t.bivAt b).acc = x.acc ∧ t.mem = s.mem ∧
            RegsKept [] s t) ∧
        ∀ a o m, e.op = .store a o → x.poison a = true → x.kernel.isSome = true → s.physOf b = some m →
          Completes (.ridgepoleEntryEnd b) s fun t => (t.bivAt b).kernel = none ∧
            t.reg (E.bivLastFault m) = 0x40 + e.peg * 256 ∧ t.sward = s.sward ∧ t.mem = s.mem)

/-- A kernel enters with its Pegs at the entry point, its chunks and copies are staged, and it ends with its exit
value (R140, R190, R204, R206, R221, R222, R223, R224, R226, R227, R250). -/
def Obligations.KernelsEnterStageAndEnd : Prop :=
  ∀ (s : State) (b : Nat) (env : Env),
    let x := s.bivAt b
    (∀ id part d q m, s.coreOn = true → s.desc id = some d → d.id = id → d.parts.find? (fun q => q.idx == part) = some q →
      q.biv = b → q.idx = part → (s.window b).head? = some (d, q) → d.timed = false → d.start = none → d.outcome = none →
      x.kernel = none → s.bivLeaving b = false → s.physOf b = some m → s.reg (E.bivPitch m) = id.pitch →
      Completes (.runKernel id part) s fun t =>
        (t.bivAt b).kernel = some (id, part, s.cclk) ∧
          (t.bivAt b).pegs = entryPegs b part (d.fld 4 56 0 + d.fld 6 63 32)
            (apertureBase + 64 * (12288 + Config.paramLine % 4096)) ∧
          (t.bivAt b).rpQueue = [] ∧ (t.bivAt b).wb = x.wb ∧ t.reg (E.bivState m) = 2 ∧ t.reg (E.bivPitch m) = id.pitch ∧
          t.mem = s.mem ∧ ∃ e, t.desc id = some e ∧ e.phase = .running ∧ e.start = some s.now) ∧
    (∀ id t0 d q m, x.kernel = some (id, 0, t0) → s.desc id = some d → d.partitions = 1 → d.parts = [q] → q.idx = 0 →
      d.outcome = none → s.physOf b = some m →
      let ends := fun (cmd : Instr) (status result : Nat) => Completes cmd s fun t =>
        t.decided id status result ∧ (t.bivAt b).kernel = none ∧ (t.bivAt b).pegs = [] ∧ t.reg (E.bivState m) = 1 ∧
          t.reg (E.bivDescriptors m) = min countMax (s.reg (E.bivDescriptors m) + 1) ∧
          RegsKept [E.bivState m, E.bivDescriptors m] s t ∧ (t.bivAt b).wb = x.wb ∧ t.mem = s.mem ∧ t.sward = s.sward
      (s.stopped = false → x.rpQueue = [] → (∀ p ∈ x.pegs, p.exited.isSome = true) →
        ends (.kernelEnd b) 0 ((x.pegs.head?.bind fun p => p.exited).getD 0)) ∧
      ends (.runLimitExpiry b) 0x0A 0) ∧
    (s.coreOn = true → s.stopped = false →
      (∀ i d q, s.bivServed b = true → (List.range 24).find? (fun i => !(x.bufs.any fun c => c.buffer == i)) = some i →
        s.bufferTaker b = some (d, q) → Completes (.bufferGrant b) s fun t => BivBecomes s.front s t b { x with
          bufs := x.bufs ++ [{
            buffer := i, desc := d.id, part := q.idx, chunk := x.nextChunk d.id q.idx, present := false }]
          staged := (d.id, q.idx, x.nextChunk d.id q.idx + 1) ::
            x.staged.filter fun c => !(c.1 == d.id && c.2.1 == q.idx) }) ∧
      (∀ c d u, x.bufs.find? (fun c => !c.present) = some c → s.desc c.desc = some d →
        s.front.fillChunk env b c.buffer d (d.chunks.getD c.chunk (0, 0)).1 (d.chunks.getD c.chunk (0, 0)).2 = (u, .ok) →
        Completes (.chunkFillDone b c.buffer env) s fun t => BivBecomes u s t b { u.bivAt b with
          bufs := (u.bivAt b).bufs.map fun k => if k.buffer = c.buffer then { k with present := true } else k })) ∧
    (∀ i c, s.coreOn = true → s.sward.staged.find? (fun c => c.region == i && c.biv == b) = some c →
      c.mark < (s.regionAt i).pages * 1024 →
      let read := s.front.cohRead env ((s.regionAt i).basePage * 1024 + c.mark) (s.fillCharge (s.regionAt i).owner)
      (∀ u data, read = (u, some data) → Completes (.stageFill i b env) s fun t =>
        t.sward.staged = u.sward.staged.map (fun k => if k.region = i ∧ k.biv = b then { k with mark := k.mark + 1 } else k) ∧
          t.sward.bytes = ((u.swardWrite (c.swardLine c.mark) fullMask data).1).sward.bytes ∧ t.mem = u.mem ∧
          t.dir = u.dir ∧ t.regs = u.regs) ∧
      ∀ u, read = (u, none) → Completes (.stageFill i b env) s fun t =>
        t.sward.staged = u.sward.staged.filter (fun k => k.region != i) ∧ t.mem = u.mem ∧
          t.reg (E.pitchStageFails (s.regionAt i).owner) =
            min countMax (u.reg (E.pitchStageFails (s.regionAt i).owner) + 1)) ∧
    (∀ g w p u n raw i, s.pegAt {} b g w p u n raw i →
      let j := p.reg (bits i 19 15)
      let mine := fun (c : ChunkBuf) => c.ofPart w.d.id w.part && c.chunk == j && c.present
      (isCustom 0x2B 4 i = true → j < w.d.chunks.length →
        (∀ c, (u.bivAt b).bufs.find? mine = some c → Completes (.stgWait b g) s fun t =>
          let bad := (List.range 512).any fun k => !u.swardWritten (swardLine b (512 * c.buffer + k))
          PegSteps u s t b g ((p.setReg (bits i 11 7) (32768 * c.buffer + if bad then 2 ^ 63 else 0)).retire n)) ∧
        ((u.bivAt b).bufs.find? mine = none → Completes (.stgWait b g) s fun t =>
          PegSteps u s t b g { p with waiting := some j })) ∧
      (isCustom 0x2B 5 i = true → Completes (.stgDone b g) s fun t => BivBecomes u s t b { u.bivAt b with
        bufs := (u.bivAt b).bufs.filter (fun c => !mine c), pegs := (u.bivAt b).pegs.set g (p.retire n) })) ∧
    (∀ g w p u n raw i v, s.pegAt env b g w p u n raw i → isCustom 0x2B 6 i = true →
      let va := p.reg (bits i 19 15)
      let src := bits (p.reg (bits i 24 20)) 21 0
      let lines := bits (p.reg (bits i 24 20)) 47 32
      inRange lines 1 1024 = true → va < 2 ^ 57 → va % 64 = 0 →
      (∀ k, k < lines → operandAt w.d (va + 64 * k) true = true ∧ operandAt w.d (va + 64 * k + 63) true = true ∧
        (recordAddr w.d.record (va + 64 * k)).isSome = true) →
      u.apertureRange b w.d.id.pitch src (64 * lines) false = true →
      u.rangeUnfilled b w.d.id.pitch src (64 * lines) = false → u.putLines env w src va lines = (v, .ok) →
      Completes (.stgPut b g env) s fun t => PegSteps v s t b g (p.retire n)) ∧
    ∀ line l u st m, x.wb.filter (fun l => l.addr == line && l.dirty != 0) = [l] →
      s.front.targetWrite env l.pitch { va := 0, bytes := 64, host := false, port := 0, write := true, target := l.addr } l.addr
        l.dirty l.data (.cls l.bclass) = (u, st) → u.physOf b = some m → Completes (.wbEvict b line env) s fun t =>
        (t.bivAt b).wb = (u.bivAt b).wb.filter (fun l => !(l.addr == line && l.dirty != 0)) ∧ t.mem = u.mem ∧
          t.reg (E.bivWbWrites m) = min countMax (u.reg (E.bivWbWrites m) + 1)

/-- The Bracken commands check, compute and write, and complete their descriptors with the result (R271, R273, R274,
R275, R280, R283, R286, R287, R290, R291). -/
def Obligations.ViewsAndPackingDecideTheirDescriptors : Prop :=
  ∀ (s : State) (id : DescId) (env : Env) (d : Desc) (e : Nat),
    let va := fun i => d.fld i 56 0
    (s.onEngine id 0x20 .bracken d e → d.viewCreateOk = true →
      ∀ u w, s.oneExtent d.record (va 4) (streamBytes (d.fld 6 47 44) (d.fld 6 40 32) (d.fld 6 12 0)) = some u →
        s.oneExtent d.record (va 5) (streamBytes (d.fld 6 47 44) (d.fld 6 40 32) (d.fld 6 28 16)) = some w →
        let lu := streamBytes (d.fld 6 47 44) (d.fld 6 40 32) (d.fld 6 12 0)
        let lv := streamBytes (d.fld 6 47 44) (d.fld 6 40 32) (d.fld 6 28 16)
        s.rangeRights id.pitch u lu false = true → s.rangeRights id.pitch w lv false = true →
        s.rangeProtected u lu = false → s.rangeProtected w lv = false →
        let v : View := {
          m := d.fld 6 12 0, n := d.fld 6 28 16, rank := d.fld 6 40 32, ffmt := d.fld 6 47 44, tfmt := d.fld 6 51 48
          sat := bitOf (d.word 6) 52, uBase := u, vBase := w, used := true }
        (∀ x i k base, s.front.checkStreams env id.pitch e v d.charge = (x, none) → x.work = s.work →
          x.freeDescriptor = some i → x.chooseBracken = some k → x.viewCount < x.reg E.viewsViewLimit →
          x.quotaExcess id.pitch 1 0 0 = none → fitRun (cdiv (v.m * v.rowPitch) 65536) (x.freeRuns .view) = some base →
          Completes (.viewCreate id env) s fun t => t.decided id 0 (regionResult i base) ∧ t.mem = x.mem ∧
            t.viewAt i = { v with bracken := k } ∧ t.regionAt i = {
              basePage := base, pages := cdiv (v.m * v.rowPitch) 65536, owner := id.pitch, rights := 1, factored := true
              state := .live }) ∧
        ∀ x o, s.front.checkStreams env id.pitch e v d.charge = (x, some o) → x.work = s.work →
          Completes (.viewCreate id env) s fun t => (∃ c, t.desc id = some c ∧ c.outcome = some o) ∧
            t.reg (E.pitchLastShortfall id.pitch) = o.result ∧ t.mem = x.mem ∧ t.region = x.region) ∧
    (s.onEngine id 0x21 .bracken d e → ∀ i x o, s.viewOf id.pitch (d.fld 8 15 0) = some i →
      let v := s.viewAt i
      let r := s.regionAt i
      (s.front.dropSegments i).checkStreams env r.owner e v d.charge = (x, o) → x.work = s.work →
      Completes (.viewRefresh id env) s fun t => t.mem = x.mem ∧ match o with
        | none => t.decided id 0 (regionResult i r.basePage) ∧ t.viewAt i = { v with cause := 0, stream := 0, segment := 0 } ∧
          t.regionAt i = { r with state := if r.state = .damaged then .live else r.state }
        | some out => (∃ c, t.desc id = some c ∧ c.outcome = some out) ∧ t.regionAt i = { r with state := .damaged }) ∧
    (s.onEngine id 0x22 .bracken d e → ∀ i u x a st, s.viewOf id.pitch (d.fld 8 15 0) = some i →
      d.viewMeasureOk (s.viewAt i).n = true → d.operands ≠ [] → (s.regionAt i).state ≠ .damaged →
      s.front.measureRows env d i = (u, .ok a) → u.drawFree.2.writeVirt env id.pitch d.record (va 5) (lineBytes (lineOfWords
        [BitVec.ofNat 64 a.maxAbs, packWord [(0, a.row), (16, a.col)], BitVec.ofNat 64 (openNan u.freeCount a.err),
          BitVec.ofNat 64 a.orig, packWord [(0, a.nonfinite % 2 ^ 32)]])) d.charge = (x, st) → x.work = s.work →
      Decides (.viewMeasure id env) s x id (statOut st) 0) ∧
    (s.onEngine id 0x24 .bracken d e → d.gradOk = true →
      let m := d.fld 9 12 0
      let n := d.fld 9 28 16
      let r := d.fld 9 40 32
      s.virtProtected d.record (va 7) (streamBytes 8 r m) = false → s.virtProtected d.record (va 8) (streamBytes 8 r n) = false →
      ∀ u g h q, s.front.readRanges env d [(va 4, 4 * m * n), (va 5, 4 * m * n), (va 6, 4 * n * r)] = (u, .ok, [g, h, q]) →
        u.work = s.work →
        match gradCompress m n r (elemsOf 4 g) (elemsOf 4 h) (elemsOf 4 q) with
        | none => Decides (.gradCompress id env) s u id 0x47 0
        | some z => ∀ x st, u.writeRanges env d [(va 7, z.u), (va 8, z.v), (va 5, z.e.flatMap (leBytes 4)),
            (va 6, z.qs.flatMap (leBytes 4))] = (x, st) → x.work = s.work →
          Decides (.gradCompress id env) s x id (statOut st) z.zeroed) ∧
    (d.packOk = true →
      let count := d.fld 6 39 0
      let sf := d.fld 7 3 0
      let df := d.fld 7 7 4
      (s.onEngine id 0x26 .bracken d e → s.virtProtected d.record (va 5) (packedBytes df count) = false →
        ∀ u x bs st, s.front.readVirt env id.pitch d.record (va 4) (elemBits sf / 8 * count) d.charge = (u, .ok, bs) →
          let blocks := packBlocks df ((elemsOf (elemBits sf / 8) bs).map (elemValue sf))
          u.writeRanges env d [(va 5, packElems (elemBits df) (blocks.flatMap fun b => b.2)),
            (va 5 + packedScales df count, blocks.map fun b => BitVec.ofNat 8 b.1)] = (x, st) → x.work = s.work →
          Decides (.actPack id env) s x id (statOut st) (blocks.filter fun b => b.1 == 0xFF).length) ∧
      (s.onEngine id 0x27 .bracken d e → ∀ u x es xs st, s.front.readRanges env d
          [(va 4, cdiv count 32 * 4 * elemBits sf), (va 4 + packedScales sf count, cdiv count 32)] = (u, .ok, [es, xs]) →
        u.drawFree.2.writeVirt env id.pitch d.record (va 5) (((List.range count).map fun i => unpackElem u.freeCount i df
          (scaledValue sf (packedElem (elemBits sf) i es) (xs.getD (i / 32) 0).toNat)).flatMap
            (leBytes (elemBits df / 8))) d.charge = (x, st) → x.work = s.work →
        Decides (.actUnpack id env) s x id (statOut st) 0)) ∧
    ∀ b w i r x data, s.coreOn = true → s.reg (E.brackenState b) = 1 → s.dict.held = [] →
      s.dir.viewReads.find? (fun w => s.brackenOf w == some b) = some w → s.viewCover w.line = some (i, r) →
      let taken := { s.front with dir := { s.dir with viewReads := removeFirst (fun x => x == w) s.dir.viewReads } }
      taken.viewLine env i (w.line * 64 - r.basePage * 65536) (.cls w.req.bclass) = (x, data) →
      (x.regionAt i).state ≠ .clearing → Completes (.viewReadServe b env) s fun t =>
        t.dir = x.dir ∧ t.mem = x.mem ∧ t.region = x.region ∧ t.eng = x.eng

/-- The Clover and Tinder commands make and free tables, gather, update and step, and complete with their result
(R300, R301, R302, R303, R306, R307, R308, R310, R311, R312). -/
def Obligations.TablesAndOptimizersDecideTheirDescriptors : Prop :=
  ∀ (s : State) (id : DescId) (env : Env) (d : Desc) (e : Nat),
    let va := fun i => d.fld i 56 0
    let h := d.fld 4 9 0
    (s.onEngine id 0x30 .clover d e → d.tableOk = true → ∀ u bs h k,
      s.front.readVirt env id.pitch d.record (va 6) (8 * d.fld 5 30 24) d.charge = (u, .ok, bs) → u.work = s.work →
      let es := elemsOf 8 bs
      (∀ x ∈ es, x % 64 = 0) → u.freeTable = some h → u.chooseClover = some k →
      u.eng.tables.length < u.reg E.tablesTableLimit → shardsOk u.deviceNumber es = true →
      let pos := ((findIdxOpt (fun x => bits x 51 42 == u.deviceNumber) es).map fun x => x.1).getD 0
      let tab : Table := { words := (d.words.drop 4).take 5, owner := id.pitch, pos, shards := es, clover := k, used := true }
      let rows := localBlocks tab.rows tab.blockRows (d.fld 5 30 24) pos * tab.blockRows
      u.rangeRights id.pitch (es.getD pos 0) (rows * tab.stride) true = true →
      u.rangeRights id.pitch tab.dflt (rowBytes tab.fmt tab.dim) false = true →
      (tab.acc = 0 ∨ u.rangeRights id.pitch tab.acc (4 * rows) true = true) →
      Completes (.embTableCreate id env) s fun t => t.decided id 0 h ∧ t.tableAt h = tab ∧
        (∀ j, j ≠ h → t.tableAt j = u.tableAt j) ∧ t.mem = u.mem) ∧
    (s.onEngine id 0x31 .clover d e → Completes (.embTableDestroy id) s fun t =>
      t = { s with work := t.work, eng := { s.eng with tables := t.eng.tables }, fuses := s.fuses.programmed } ∧
        if (s.tableOf id.pitch h).isNone then t.eng = s.eng ∧ t.decided id 0x60 0
        else if s.dispatchedOther id (·.namesTable h) = true then t.eng = s.eng ∧ t.decided id 0x64 0
        else t.decided id 0 0 ∧ t.tableAt h = {} ∧ ∀ j, j ≠ h → t.tableAt j = s.tableAt j) ∧
    (s.onEngine id 0x32 .clover d e → d.gatherOk = true → d.operands ≠ [] → ∀ tab u bs x bad st,
      s.tableOf id.pitch h = some tab →
      let pool := d.fld 4 11 10
      let count := d.fld 8 31 0
      let idx64 := bitOf (d.word 4) 12
      s.front.readRanges env d ([(va 5, (if idx64 then 8 else 4) * count)] ++
        if pool = 0 then [] else [(va 6, 4 * (d.fld 8 63 32 + 1))]) = (u, .ok, bs) →
      let os := elemsOf 4 (bs.getD 1 [])
      (pool = 0 ∨ offsetsOk count os = true) →
      u.gatherOut env d e tab (indexList idx64 (bs.getD 0 [])) (gatherBags pool count os) = (x, bad, st) → x.work = s.work →
      match bad with
      | none => Decides (.embGather id env) s x id (statOut st) 0
      | some (st', i) => Decides (.embGather id env) s x id (statOut st') i) ∧
    (s.onEngine id 0x33 .clover d e → d.operands ≠ [] → ∀ tab u bs x n st, s.tableOf id.pitch h = some tab →
      d.updateOk tab = true →
      let count := d.fld 7 31 0
      s.front.readRanges env d [(va 5, (if bitOf (d.word 4) 12 then 8 else 4) * count),
        (va 6, count * outPitch tab.dim (if bitOf (d.word 4) 13 then 2 else 4))] = (u, .ok, bs) →
      u.updateBatch env d e tab none (indexList (bitOf (d.word 4) 12) (bs.getD 0 [])) (bs.getD 1 []) = (x, n, st) →
      x.work = s.work → Decides (.embUpdate id env) s x id (statOut st) n) ∧
    (s.onEngine id 0x38 .tinder d e → d.optOk = true →
      let n := d.fld 9 39 0
      let rule := d.fld 9 43 40
      let fmt := d.fld 9 47 44
      let bf := bitOf (d.word 9) 48
      let skip := bitOf (d.word 9) 50
      ∀ u gb wb mb vb cb, s.front.readRanges env d [(va 5, (if bf then 2 else 4) * n), (va 4, 4 * n),
        (va 6, if optUsesM rule then momentBytes fmt n else 0), (va 7, if optUsesV rule then momentBytes fmt n else 0),
        (va 8, 0)] = (u, .ok, [gb, wb, mb, vb, cb]) → u.work = s.work →
      let gs := (if bf then (elemsOf 2 gb).map fun x => x * 65536 else elemsOf 4 gb).map fun g => fmul32 g d.optConst.scale
      let broken := gs.any fun g => !(fp32.decode g).finite
      (skip = true → broken = true → Completes (.optStep id env) s fun t => t.decided id 0x68 0 ∧ t.mem = u.mem ∧
        t.reg E.tindersNonfiniteSteps = min countMax (u.reg E.tindersNonfiniteSteps + 1)) ∧
      (¬ (skip = true ∧ broken = true) → ∀ x st,
        let out := optAll d.optConst (elemsOf 4 wb) gs (decodeMoments fmt n true mb) (decodeMoments fmt n false vb)
        u.drawFree.2.drawFree.2.writeRanges env d (optWrites d u.freeCount none out wb mb vb cb) = (x, st) →
        x.work = s.work → Completes (.optStep id env) s fun t =>
          t.decided id (statOut st) (if skip then 0 else (out.filter fun x => !(fp32.decode x.1).finite).length) ∧
            t.mem = x.mem ∧ t.reg (E.tinderElements e) = min countMax (x.reg (E.tinderElements e) + n)))

/-- The Heather commands make and free indices, change them one at a time by generation, and answer queries at a
snapshot (R325, R326, R327, R328, R330, R332, R333, R334, R336, R339, R341). -/
def Obligations.IndicesChangeAndAnswerInTurn : Prop :=
  ∀ (s : State) (id : DescId) (env : Env) (d : Desc) (e : Nat),
    let h := d.fld 4 8 0
    (s.onEngine id 0x40 .heather d e → d.idxCreateOk = true → ∀ n k bb vb,
      let cap := d.fld 7 31 0
      let ovf := d.fld 7 55 32
      let lb := bucketArea (d.fld 6 4 0) ovf cap
      let lv := cap * vecStride (d.fld 6 19 16) (d.fld 6 44 32)
      s.freeIndex = some n → s.chooseHeather = some k → s.eng.indices.length < s.reg E.indicesIndexLimit →
      s.oneExtent d.record (d.fld 4 56 0) lb = some bb → s.oneExtent d.record (d.fld 5 56 0) lv = some vb →
      s.rangeRights id.pitch bb lb true = true → s.rangeRights id.pitch vb lv true = true →
      let x : Index := {
        owner := id.pitch, heather := k, params := d.fld 6 44 0, bucketBase := bb, vecBase := vb, capacity := cap
        ovfBuckets := ovf, ovfHead := if ovf = 0 then 0 else bb + 4096 * 2 ^ d.fld 6 4 0, ovfFree := ovf, used := true }
      let laid := (s.front.setIndex n x).layIndex env id.pitch x d.charge
      laid.work = s.work → laid.eng = (s.setIndex n x).eng → Completes (.idxCreate id env) s fun t =>
        t.decided id 0 n ∧ t.indexAt n = x ∧ (∀ j, j ≠ n → t.indexAt j = s.indexAt j) ∧ t.mem = laid.mem) ∧
    (s.onEngine id 0x45 .heather d e → Completes (.idxDestroy id) s fun t =>
      t = { s with work := t.work, eng := { s.eng with indices := t.eng.indices }, fuses := s.fuses.programmed } ∧
        if (s.indexOf id.pitch h).isNone then t.eng = s.eng ∧ t.decided id 0x80 0
        else if s.dispatchedOther id (·.namesIndex h) = true then t.eng = s.eng ∧ t.decided id 0x83 0
        else t.decided id 0 0 ∧ t.indexAt h = {} ∧ ∀ j, j ≠ h → t.indexAt j = s.indexAt j) ∧
    (∀ p ∈ [(0x41, Instr.idxInsert id env), (0x42, .idxDelete id env), (0x43, .idxCompact id env)],
      s.onEngine id p.1 .heather d e →
      (s.changing id h = true → Completes p.2 s fun t => t = { s with fuses := s.fuses.programmed }) ∧
      (s.changing id h = false → ∀ x, s.indexOf id.pitch h = some x → x.damaged = true → Completes p.2 s fun t =>
        t.decided id 0x85 0 ∧ t.mem = s.mem ∧ t.indexAt h = s.indexAt h)) ∧
    (s.onEngine id 0x41 .heather d e → s.changing id h = false → d.operands ≠ [] →
      inRange (d.fld 10 20 0) 1 1048576 = true → ∀ x u bs v k stop, s.indexOf id.pitch h = some x → x.damaged = false →
      let n := d.fld 10 20 0
      (s.front.takeGen id h).1.readRanges env d [(d.fld 5 56 0, 8 * n), (d.fld 6 56 0, n * sketchBytes x.sw),
        (d.fld 7 56 0, n * x.stride), (d.fld 8 56 0, if d.fld 8 56 0 = 0 then 0 else 2 * n)] = (u, .ok, bs) →
      u.insertAll env d h ((s.indexAt h).committed + 1) n (bs.getD 0 []) (bs.getD 1 []) (bs.getD 2 []) (bs.getD 3 []) =
        (v, k, stop) → v.work = s.work →
      match stop with
      | none => Decides (.idxInsert id env) s v id 0 k
      | some .full => Decides (.idxInsert id env) s v id 0x84 k
      | some .poison => Completes (.idxInsert id env) s fun t => t.decided id 0x08 k ∧ (t.indexAt h).damaged = true ∧
        t.mem = v.mem
      | some (.operand st) => Decides (.idxInsert id env) s v id (statOut st) k) ∧
    (s.onEngine id 0x42 .heather d e → s.changing id h = false → ∀ u o, s.front.runDelete d env (d.fld 7 20 0) = (u, o) →
      u.work = s.work → o.detail = 0 → Decides (.idxDelete id env) s u id o.status o.result) ∧
    (s.onEngine id 0x43 .heather d e → s.changing id h = false → ∀ u o, s.front.runCompact d env none = (u, o) →
      u.work = s.work → o.detail = 0 → Decides (.idxCompact id env) s u id o.status o.result) ∧
    (s.desc id = some d → d.opcode = 0x44 → d.timed = true → d.phase = .dispatched → d.launch ≤ s.now →
      (s.indexOf id.pitch h).isSome = true → Completes (.querySnapshotFix id) s fun t =>
        t = { s with eng := { s.eng with snaps := t.eng.snaps }, fuses := s.fuses.programmed } ∧
          t.snapOf id = some ((s.snapOf id).getD ((s.indexAt h).snapshot d.launch))) ∧
    (s.onEngine id 0x44 .heather d e → ∀ x, s.indexOf id.pitch h = some x →
      (x.damaged = true → Completes (.idxQuery id env) s fun t => t.decided id 0x85 0 ∧ t.mem = s.mem) ∧
      ∀ u bs v short trunc, x.damaged = false → d.idxQueryOk = true → d.operands ≠ [] → d.fld 8 44 32 = 1 →
        (s.front.fixSnap d h).readRanges env d [(d.fld 5 56 0, sketchBytes x.sw), (d.fld 6 56 0, x.stride)] = (u, .ok, bs) →
        u.oneQuery env d e h ((u.snapOf id).getD 0) 0 ((bs.getD 0 []).take (sketchBytes x.sw)) ((bs.getD 1 []).take x.stride) =
          (v, short, trunc, false) → v.work = s.work → Completes (.idxQuery id env) s fun t =>
          t.mem = v.mem ∧ ∃ c, t.desc id = some c ∧ c.phase = .decided ∧
            c.outcome = some { status := 0, detail := b2n short + 2 * b2n trunc, result := b2n short }) ∧
    ∀ n u, s.coreOn = true → (s.indexAt n).used = true → (s.indexAt n).unlinked.find? (fun u => u.2.isEmpty) = some u →
      let x := s.indexAt n
      let w := s.front.writeHeader env x.owner { addr := u.1, live := 0, tomb := 0, next := x.ovfHead, bytes := [] } .none
      Completes (.ovfBucketReturn n env) s fun t => t.indexAt n = { x with
          unlinked := removeFirst (fun y => y == u) x.unlinked, ovfHead := u.1, ovfFree := x.ovfFree + 1 } ∧
        t.mem = w.mem ∧ t.dir = w.dir

/-- Groups are made and freed, and a collective begins, goes through its steps, and ends or fails with its status
(R421, R422, R424, R426, R428, R429, R430, R431, R432). -/
def Obligations.GroupsAndCollectivesGoStepByStep : Prop :=
  ∀ (s : State) (id : DescId) (env : Env), s.kettle.draining = false →
    let onCore := fun (op : Nat) (d : Desc) (k : Nat) => s.front.collCmd id op = some (d, k) ∧ d.outcome = none
    (∀ d k h u bs a, onCore 0x50 d k → d.groupOk = true → s.freeGroup = some h →
      s.front.readVirt env id.pitch d.record (d.fld 5 56 0) (2 * d.fld 6 10 0) d.charge = (u, .ok, bs) → u.work = s.work →
      membersOk u.deviceNumber (elemsOf 2 bs) = true → u.oneExtent d.record (d.fld 7 56 0) (d.fld 8 39 0) = some a →
      u.rangeRights id.pitch a (d.fld 8 39 0) true = true → Completes (.collGroupCreate id env) s fun t =>
        t.decided id 0 h ∧ t.mem = u.mem ∧ (∀ j, j ≠ h → t.groupAt j = u.groupAt j) ∧
          t.groupAt h = {
            groupId := d.fld 4 31 0, pitch := id.pitch, members := elemsOf 2 bs, scratch := a, scratchBytes := d.fld 8 39 0
            timeout := if d.fld 9 31 0 = 0 then 1000 else d.fld 9 31 0, chunk := d.fld 10 31 0
            hash := groupHash (d.fld 4 31 0) (elemsOf 2 bs), core := u.collCore.getD k, started := 0, used := true }) ∧
    (∀ d k, onCore 0x51 d k → Completes (.collGroupDestroy id) s fun t =>
      let h := d.fld 4 7 0
      t = { s with work := t.work, eng := { s.eng with groups := t.eng.groups }, fuses := s.fuses.programmed } ∧
        if (s.groupOf id.pitch h).isNone then t.eng = s.eng ∧ t.decided id 0xA0 0
        else if s.dispatchedOther id (·.namesGroup h) = true then t.eng = s.eng ∧ t.decided id 0xA3 0
        else t.decided id 0 0 ∧ t.groupAt h = {} ∧ ∀ j, j ≠ h → t.groupAt j = s.groupAt j) ∧
    (∀ p ∈ [(0x52, Instr.allReduce id), (0x53, .reduceScatter id), (0x54, .allGather id), (0x55, .broadcast id),
        (0x56, .compAllReduce id)], ∀ d k, onCore p.1 d k → (s.eng.colls.any fun r => r.desc == id) = false →
      (s.groupOf id.pitch d.groupHandle = none → Completes p.2 s fun t =>
        t.decided id 0xA0 0 ∧ t.mem = s.mem ∧ t.eng = s.eng) ∧
      ∀ g, s.groupOf id.pitch d.groupHandle = some g → d.timed = true →
        (if p.1 = 0x56 then d.gradOk && s.algoOk p.1 0 g else s.collOk d g) = true →
        let r : CollRun := {
          desc := id, handle := d.groupHandle, seq := (g.started + 1) % 2 ^ 32, chunk := 0, step := 0, started := false
          untimed := false, flags := [], result := 0 }
        let c : CollInfo := { d, g, me := s.rankIn g, run := r }
        if g.scratchBytes < c.needed then Completes p.2 s fun t =>
          t.decided id 0xA7 c.needed ∧ t.mem = s.mem ∧ t.eng = s.eng
        else Completes p.2 s fun t => t.eng.colls = s.eng.colls ++ [r] ∧ t.work = s.work ∧ t.mem = s.mem ∧
          t.groupAt d.groupHandle = { g with started := (g.started + 1) % 2 ^ 32 }) ∧
    ∀ c, s.collInfo id = some c →
      (∀ d k, s.front.collCmd id c.d.opcode = some (d, k) →
        (¬ (c.d.opcode = 0x56 ∧ c.run.step = 0) → c.run.started = false → c.ready = true → c.run.untimed = false →
          c.stamp = s.now → ∀ u out v,
          let go := { c with run := { c.run with started := true } }
          let began := s.front.descEvent d 3 0 (unitWord .kettle k) c.run.traceData
          began.formStep env go = (u, .ok, out) → u.sendAll env go out = (v, .ok) → v.kettle = s.kettle →
            Completes (.collStepStart id env) s fun t =>
            t.eng.colls = v.eng.colls.map (fun x => if x.desc = c.run.desc then go.run else x) ∧ t.mem = v.mem ∧
              t.sent = v.sent ++ s.sent) ∧
        (c.run.started = true → (c.run.step + 1 = c.steps → c.chunkIn = true) → c.d.outcome = none →
          let flags := (c.sends c.run.step).map fun x => Out.collFlag (c.g.members.getD x.dest 0) c.g.pitch c.d.bclass c.me
            (flagLine c.g.hash c.run.seq c.run.chunk c.run.step false)
          Completes (.collStepEnd id) s fun t => t.sent = flags.reverse ++ s.sent ∧ t.mem = s.mem ∧
            if c.run.step + 1 = c.steps ∧ c.run.chunk + 1 = c.chunks then
              t.eng.colls = s.eng.colls.filter (fun r => r.desc != id) ∧ ∃ e, t.desc id = some e ∧ e.phase = .decided ∧
                e.outcome = some { status := 0, detail := b2n c.run.untimed, result := c.run.result }
            else t.work = s.work ∧ t.eng.colls = s.eng.colls.map fun x => if x.desc = c.run.desc then { c.run with
              started := false, step := if c.run.step + 1 = c.steps then 0 else c.run.step + 1
              chunk := if c.run.step + 1 = c.steps then c.run.chunk + 1 else c.run.chunk } else x)) ∧
      (∀ x u bs, x < c.n → x ≠ c.me → s.stopped = false → s.front.scratchRead env c (64 * x) 64 = (u, .ok, bs) →
        u.work = s.work → u.eng = s.eng → u.kettle = s.kettle → c.d.outcome = none →
        let w := fun i => leNat ((bs.drop (8 * i)).take 8)
        let ends := fun (status : Nat) => Completes (.collFlagReceived id x env) s fun t =>
          t.eng.colls = s.eng.colls.filter (fun r => r.desc != id) ∧ t.mem = u.mem ∧ ∃ e, t.desc id = some e ∧
            e.phase = .decided ∧ e.outcome = some { status, detail := b2n c.run.untimed, result := 0 }
        let mine := bits (w 0) 31 0 = c.g.hash ∧ bits (w 0) 63 32 = c.run.seq
        (¬ mine → ends 0xA4) ∧ (mine → bitOf (w 2) 32 = true → ends 0xA9) ∧
          (mine → bitOf (w 2) 32 = false →
            let r := { c.run with flags := c.run.flags ++ [{ sender := x, chunk := w 1, step := bits (w 2) 31 0 }] }
            ∀ v, (u.setRun r).takeData env { c with run := { c.run with chunk := w 1 } } x (bits (w 2) 31 0) = (v, .ok) →
              v.eng.colls = (u.setRun r).eng.colls → v.kettle = s.kettle → Completes (.collFlagReceived id x env) s fun t =>
                t.eng.colls = s.eng.colls.map (fun y => if y.desc = c.run.desc then r else y) ∧ t.mem = v.mem)) ∧
      (s.stopped = false → c.d.outcome = none → c.run.started = false →
        (c.ready = false → Completes (.stepTimeoutExpiry id) s fun t =>
          t.eng.colls = s.eng.colls.filter (fun r => r.desc != id) ∧ t.mem = s.mem ∧ ∃ e, t.desc id = some e ∧
            e.phase = .decided ∧ e.outcome = some { status := 0xA8, detail := b2n c.run.untimed, result := 0 }) ∧
        (c.ready = true → Completes (.stepTimeoutExpiry id) s fun t => t = { s with fuses := s.fuses.programmed }))
end

