-- ==== Sys2Proof/Laws/Sparse.lean ====
section
/-! SUPPORT. Laws of sparse tables: a read after a write, and the canonical form that every write keeps. -/

namespace Sys2Proof.Laws

open Sys2Proof.Machine

variable {α : Type}

@[simp] theorem smap_get_nil (f : Nat → α) (k : Nat) : SMap.get f [] k = f k := rfl

theorem smap_get_cons (f : Nat → α) (k' : Nat) (v : α) (m : SMap α) (k : Nat) :
    SMap.get f ((k', v) :: m) k = if k = k' then v else SMap.get f m k := rfl

theorem smap_get_del (f : Nat → α) (m : SMap α) (k j : Nat) :
    SMap.get f (SMap.del m k) j = if j = k then f j else SMap.get f m j := by
  induction m with
  | nil => simp [SMap.del]
  | cons e m ih =>
    obtain ⟨k', v⟩ := e
    unfold SMap.del at ih ⊢
    by_cases hk : k' = k
    · subst hk
      rw [List.filter_cons_of_neg (by simp), ih, smap_get_cons]
      by_cases hj : j = k' <;> simp [hj]
    · rw [List.filter_cons_of_pos (by simp [hk]), smap_get_cons, smap_get_cons, ih]
      by_cases hj : j = k'
      · subst hj; simp [hk]
      · simp [hj]

theorem smap_get_put (f : Nat → α) (m : SMap α) (k : Nat) (v : α) (j : Nat)
    (h : ∀ e ∈ m, e.1 ≠ k) : SMap.get f (SMap.put m k v) j = if j = k then v else SMap.get f m j := by
  induction m with
  | nil => simp [SMap.put, smap_get_cons]
  | cons e m ih =>
    obtain ⟨k', v'⟩ := e
    have hk : k' ≠ k := h (k', v') (by simp)
    have ih := ih (fun e he => h e (by simp [he]))
    unfold SMap.put
    by_cases hlt : k < k'
    · simp [hlt, smap_get_cons]
    · rw [if_neg hlt, smap_get_cons, ih, smap_get_cons]
      by_cases hj : j = k'
      · subst hj; simp [hk]
      · simp [hj]

theorem smap_del_ne (m : SMap α) (k : Nat) : ∀ e ∈ SMap.del m k, e.1 ≠ k := by
  intro e he
  have := (List.mem_filter.mp he).2
  simpa using this

/-- A read after a write: the value written at the written key, the old value at every other key. -/
theorem smap_get_set [DecidableEq α] (f : Nat → α) (m : SMap α) (k : Nat) (v : α) (j : Nat) :
    SMap.get f (SMap.set f m k v) j = if j = k then v else SMap.get f m j := by
  unfold SMap.set
  split
  · rename_i hv
    rw [smap_get_del]
    by_cases hj : j = k
    · subst hj; simp [hv]
    · simp [hj]
  · rw [smap_get_put _ _ _ _ _ (smap_del_ne m k), smap_get_del]
    by_cases hj : j = k <;> simp [hj]

@[simp] theorem smap_get_set_self [DecidableEq α] (f : Nat → α) (m : SMap α) (k : Nat) (v : α) :
    SMap.get f (SMap.set f m k v) k = v := by simp [smap_get_set]

theorem smap_get_set_ne [DecidableEq α] (f : Nat → α) (m : SMap α) {k j : Nat} (v : α) (h : j ≠ k) :
    SMap.get f (SMap.set f m k v) j = SMap.get f m j := by simp [smap_get_set, h]

/-! ### The canonical form -/

theorem above_iff (k : Nat) (m : SMap α) : SMap.above k m = true ↔ ∀ e ∈ m, k < e.1 := by
  simp [SMap.above, List.all_eq_true]

theorem wf_cons [DecidableEq α] (f : Nat → α) (k : Nat) (v : α) (m : SMap α) :
    SMap.wf f ((k, v) :: m) = true ↔ v ≠ f k ∧ (∀ e ∈ m, k < e.1) ∧ SMap.wf f m = true := by
  simp [SMap.wf, above_iff, Bool.and_eq_true, and_assoc]

/-- What passes a filter on the keys keeps the canonical form. -/
theorem wf_filter [DecidableEq α] (f : Nat → α) (p : Nat × α → Bool) (m : SMap α) (h : SMap.wf f m = true) :
    SMap.wf f (m.filter p) = true := by
  induction m with
  | nil => simp [SMap.wf]
  | cons e m ih =>
    obtain ⟨k, v⟩ := e
    obtain ⟨hv, ha, hm⟩ := (wf_cons f k v m).mp h
    by_cases hp : p (k, v) = true
    · rw [List.filter_cons_of_pos hp, wf_cons]
      exact ⟨hv, fun e he => ha e (List.mem_filter.mp he).1, ih hm⟩
    · rw [List.filter_cons_of_neg hp]
      exact ih hm

theorem mem_put (m : SMap α) (k : Nat) (v : α) (e : Nat × α) :
    e ∈ SMap.put m k v ↔ e = (k, v) ∨ e ∈ m := by
  induction m with
  | nil => simp [SMap.put]
  | cons x m ih =>
    obtain ⟨k', v'⟩ := x
    unfold SMap.put
    by_cases hlt : k < k'
    · simp [hlt]
    · simp only [hlt, if_false, List.mem_cons, ih]
      constructor
      · rintro (h | h | h) <;> simp [h]
      · rintro (h | h | h) <;> simp [h]

theorem wf_put [DecidableEq α] (f : Nat → α) (m : SMap α) (k : Nat) (v : α) (h : SMap.wf f m = true)
    (hk : ∀ e ∈ m, e.1 ≠ k) (hv : v ≠ f k) : SMap.wf f (SMap.put m k v) = true := by
  induction m with
  | nil => simp [SMap.put, SMap.wf, SMap.above, hv]
  | cons x m ih =>
    obtain ⟨k', v'⟩ := x
    obtain ⟨hv', ha, hm⟩ := (wf_cons f k' v' m).mp h
    have hne : k' ≠ k := hk (k', v') (by simp)
    unfold SMap.put
    by_cases hlt : k < k'
    · rw [if_pos hlt, wf_cons]
      refine ⟨hv, ?_, h⟩
      intro e he
      rcases List.mem_cons.mp he with rfl | he
      · exact hlt
      · exact Nat.lt_trans hlt (ha e he)
    · rw [if_neg hlt, wf_cons]
      refine ⟨hv', ?_, ih hm (fun e he => hk e (by simp [he]))⟩
      intro e he
      rcases (mem_put m k v e).mp he with rfl | he
      · show k' < k
        omega
      · exact ha e he

/-- Every write keeps the canonical form. -/
theorem wf_set [DecidableEq α] (f : Nat → α) (m : SMap α) (k : Nat) (v : α) (h : SMap.wf f m = true) :
    SMap.wf f (SMap.set f m k v) = true := by
  unfold SMap.set
  split
  · exact wf_filter f _ m h
  · rename_i hv
    exact wf_put f _ k v (wf_filter f _ m h) (smap_del_ne m k) hv

/-- Keeping some keys keeps the canonical form. -/
theorem wf_keep [DecidableEq α] (f : Nat → α) (p : Nat → Bool) (m : SMap α) (h : SMap.wf f m = true) :
    SMap.wf f (SMap.keep p m) = true := wf_filter f _ m h

theorem get_keep (f : Nat → α) (p : Nat → Bool) (m : SMap α) (k : Nat) :
    SMap.get f (SMap.keep p m) k = if p k then SMap.get f m k else f k := by
  induction m with
  | nil => simp [SMap.keep]
  | cons x m ih =>
    obtain ⟨k', v'⟩ := x
    unfold SMap.keep at ih ⊢
    by_cases hp : p k' = true
    · rw [List.filter_cons_of_pos (by simpa using hp), smap_get_cons, smap_get_cons, ih]
      by_cases hk : k = k'
      · subst hk; simp [hp]
      · simp [hk]
    · rw [List.filter_cons_of_neg (by simpa using hp), ih, smap_get_cons]
      by_cases hk : k = k'
      · subst hk; simp [hp]
      · simp [hk]

/-- Filtering a table by a test that looks at the key alone keeps what passes and forgets the rest. -/
theorem smap_get_filter {α : Type} (f : Nat → α) (q : Nat × α → Bool) (m : SMap α) (k : Nat) (b : Bool)
    (h : ∀ v, q (k, v) = b) : SMap.get f (m.filter q) k = if b then SMap.get f m k else f k := by
  induction m with
  | nil => simp
  | cons e m ih =>
    obtain ⟨a, v⟩ := e
    by_cases hk : k = a
    · subst hk
      cases b <;> simp_all [smap_get_cons]
    · cases hq : q (a, v) <;> simp [hq, smap_get_cons, hk, ih]

/-- Writing what a listed key already holds changes nothing. -/
theorem smap_set_listed [DecidableEq α] (f : Nat → α) (m : SMap α) (k : Nat) (v : α) (h : SMap.wf f m = true)
    (hv : (k, v) ∈ m) : SMap.set f m k v = m := by
  induction m with
  | nil => simp at hv
  | cons e m ih =>
    obtain ⟨k', v'⟩ := e
    have hc := (wf_cons f k' v' m).mp h
    rcases List.mem_cons.mp hv with hk | hm
    · obtain ⟨rfl, rfl⟩ := Prod.mk.inj hk
      have hd : SMap.del m k = m := List.filter_eq_self.mpr fun e he => by
        have := hc.2.1 e he
        simp; omega
      have hp : SMap.put m k v = (k, v) :: m := by
        cases m with
        | nil => rfl
        | cons e m =>
          have := hc.2.1 e (by simp)
          obtain ⟨j, w⟩ := e
          simp only [SMap.put]
          exact if_pos this
      have hd' : SMap.del ((k, v) :: m) k = m := by simpa [SMap.del] using hd
      simp [SMap.set, hc.1, hd', hp]
    · have hlt : k' < k := hc.2.1 (k, v) hm
      have hs := ih hc.2.2 hm
      have hne : v ≠ f k := by
        intro hf
        have hmem : ∀ (m : SMap α), SMap.wf f m = true → (k, v) ∈ m → v ≠ f k := by
          intro m
          induction m with
          | nil => simp
          | cons e m ih =>
            obtain ⟨j, w⟩ := e
            intro hw hm
            have hw := (wf_cons f j w m).mp hw
            rcases List.mem_cons.mp hm with h1 | h1
            · obtain ⟨rfl, rfl⟩ := Prod.mk.inj h1; exact hw.1
            · exact ih hw.2.2 h1
        exact hmem m hc.2.2 hm hf
      have hkk : k' ≠ k := by omega
      have hlt' : ¬ k < k' := by omega
      simp [SMap.set, hne] at hs ⊢
      have hd' : SMap.del ((k', v') :: m) k = (k', v') :: SMap.del m k := by
        simp [SMap.del, hkk]
      rw [hd']
      simp [SMap.put, hlt', hs]

end Sys2Proof.Laws
end

