-- ==== Sys2Proof/Laws/State.lean ====
section
/-! SUPPORT. What each named operation of the state leaves alone, field by field, and what it does to its own field. -/

namespace Sys2Proof.Laws

open Sys2Proof.Machine

variable (s t : State) (k j n v : Nat) (o : Out) (b : Burn)

/-! ### A command's view -/

@[simp] theorem front_power : (s.front).power = s.power := rfl
@[simp] theorem front_camp : (s.front).camp = s.camp := rfl
@[simp] theorem front_regs : (s.front).regs = s.regs := rfl
@[simp] theorem front_dict : (s.front).dict = s.dict := rfl
@[simp] theorem front_log : (s.front).log = s.log := rfl
@[simp] theorem front_trace : (s.front).trace = s.trace := rfl
@[simp] theorem front_stop : (s.front).stop = s.stop := rfl
@[simp] theorem front_jtag : (s.front).jtag = s.jtag := rfl
@[simp] theorem front_mem : (s.front).mem = s.mem := rfl
@[simp] theorem front_sward : (s.front).sward = s.sward := rfl
@[simp] theorem front_region : (s.front).region = s.region := rfl
@[simp] theorem front_work : (s.front).work = s.work := rfl
@[simp] theorem front_biv : (s.front).biv = s.biv := rfl
@[simp] theorem front_eng : (s.front).eng = s.eng := rfl
@[simp] theorem front_kettle : (s.front).kettle = s.kettle := rfl
@[simp] theorem front_proc : (s.front).proc = s.proc := rfl
@[simp] theorem front_dir : (s.front).dir = s.dir := rfl
@[simp] theorem front_trail : (s.front).trail = s.trail := rfl
@[simp] theorem front_meter : (s.front).meter = s.meter := rfl
@[simp] theorem front_stile : (s.front).stile = s.stile := rfl
@[simp] theorem front_port : (s.front).port = s.port := rfl
@[simp] theorem front_freeCount : (s.front).freeCount = s.freeCount := rfl

@[simp] theorem front_pending : s.front.pending = [] := rfl
@[simp] theorem front_sent : s.front.sent = [] := rfl
@[simp] theorem front_fuses : s.front.fuses = s.fuses.programmed := rfl
@[simp] theorem front_reg : s.front.reg k = s.reg k := rfl

/-! ### The close of a command -/

@[simp] theorem close_power : (s.close t).power = t.power := rfl
@[simp] theorem close_camp : (s.close t).camp = t.camp := rfl
@[simp] theorem close_regs : (s.close t).regs = t.regs := rfl
@[simp] theorem close_dict : (s.close t).dict = t.dict := rfl
@[simp] theorem close_log : (s.close t).log = t.log := rfl
@[simp] theorem close_trace : (s.close t).trace = t.trace := rfl
@[simp] theorem close_stop : (s.close t).stop = t.stop := rfl
@[simp] theorem close_jtag : (s.close t).jtag = t.jtag := rfl
@[simp] theorem close_mem : (s.close t).mem = t.mem := rfl
@[simp] theorem close_sward : (s.close t).sward = t.sward := rfl
@[simp] theorem close_region : (s.close t).region = t.region := rfl
@[simp] theorem close_work : (s.close t).work = t.work := rfl
@[simp] theorem close_biv : (s.close t).biv = t.biv := rfl
@[simp] theorem close_eng : (s.close t).eng = t.eng := rfl
@[simp] theorem close_kettle : (s.close t).kettle = t.kettle := rfl
@[simp] theorem close_proc : (s.close t).proc = t.proc := rfl
@[simp] theorem close_dir : (s.close t).dir = t.dir := rfl
@[simp] theorem close_trail : (s.close t).trail = t.trail := rfl
@[simp] theorem close_meter : (s.close t).meter = t.meter := rfl
@[simp] theorem close_stile : (s.close t).stile = t.stile := rfl
@[simp] theorem close_port : (s.close t).port = t.port := rfl
@[simp] theorem close_freeCount : (s.close t).freeCount = t.freeCount := rfl

@[simp] theorem programmed_burning (f : Fuses) : f.programmed.burning = [] := rfl

theorem burn_with_burning (f : Fuses) (l : List Burn) :
    Fuses.burn { f with burning := l } b = { Fuses.burn f b with burning := l } := by cases b <;> rfl

theorem burns_with_burning (f : Fuses) (l m : List Burn) :
    m.foldl Fuses.burn { f with burning := l } = { m.foldl Fuses.burn f with burning := l } := by
  induction m generalizing f with
  | nil => rfl
  | cons b m ih => rw [List.foldl_cons, List.foldl_cons, burn_with_burning, ih]

theorem burns_burning (f : Fuses) (m : List Burn) : (m.foldl Fuses.burn f).burning = f.burning := by
  have h := congrArg Fuses.burning (burns_with_burning f f.burning m)
  exact h

/-- The fuses at the close are the fuses as they stood, with what the command programmed (R465). -/
@[simp] theorem close_fuses : (s.close t).fuses = t.fuses.burning.foldl Fuses.burn s.fuses.programmed := by
  have h := burns_with_burning s.fuses.programmed t.fuses.burning t.fuses.burning
  have e := burns_burning s.fuses.programmed t.fuses.burning
  simp only [programmed_burning] at e
  simp only [State.close]
  rw [Fuses.programmed, h]
  cases hm : t.fuses.burning.foldl Fuses.burn s.fuses.programmed
  rw [hm] at e
  cases e
  rfl

@[simp] theorem close_pending : (s.close t).pending = s.pending := rfl
@[simp] theorem close_sent : (s.close t).sent = t.sent ++ s.sent := rfl
@[simp] theorem close_reg : (s.close t).reg k = t.reg k := rfl

/-! ### A write of one register -/

@[simp] theorem setReg_pending : (s.setReg k v).pending = s.pending := rfl
@[simp] theorem setReg_power : (s.setReg k v).power = s.power := rfl
@[simp] theorem setReg_camp : (s.setReg k v).camp = s.camp := rfl
@[simp] theorem setReg_fuses : (s.setReg k v).fuses = s.fuses := rfl
@[simp] theorem setReg_dict : (s.setReg k v).dict = s.dict := rfl
@[simp] theorem setReg_log : (s.setReg k v).log = s.log := rfl
@[simp] theorem setReg_trace : (s.setReg k v).trace = s.trace := rfl
@[simp] theorem setReg_stop : (s.setReg k v).stop = s.stop := rfl
@[simp] theorem setReg_jtag : (s.setReg k v).jtag = s.jtag := rfl
@[simp] theorem setReg_mem : (s.setReg k v).mem = s.mem := rfl
@[simp] theorem setReg_sward : (s.setReg k v).sward = s.sward := rfl
@[simp] theorem setReg_region : (s.setReg k v).region = s.region := rfl
@[simp] theorem setReg_work : (s.setReg k v).work = s.work := rfl
@[simp] theorem setReg_biv : (s.setReg k v).biv = s.biv := rfl
@[simp] theorem setReg_eng : (s.setReg k v).eng = s.eng := rfl
@[simp] theorem setReg_kettle : (s.setReg k v).kettle = s.kettle := rfl
@[simp] theorem setReg_proc : (s.setReg k v).proc = s.proc := rfl
@[simp] theorem setReg_dir : (s.setReg k v).dir = s.dir := rfl
@[simp] theorem setReg_trail : (s.setReg k v).trail = s.trail := rfl
@[simp] theorem setReg_meter : (s.setReg k v).meter = s.meter := rfl
@[simp] theorem setReg_stile : (s.setReg k v).stile = s.stile := rfl
@[simp] theorem setReg_port : (s.setReg k v).port = s.port := rfl
@[simp] theorem setReg_sent : (s.setReg k v).sent = s.sent := rfl
@[simp] theorem setReg_freeCount : (s.setReg k v).freeCount = s.freeCount := rfl

@[simp] theorem setReg_reg : (s.setReg k v).reg j = if j = k then v else s.reg j := smap_get_set entryDflt s.regs k v j

/-- A record update that leaves the registers leaves every register's value. -/
@[simp] theorem reg_of_regs (pe : List Instr) (po : PowerSt) (ca : CampSt) (fu : Fuses) (di : DictSt) (lo : LogSt)
    (tr : TraceSt) (st : StopSt) (jt : JtagSt) (me : MemSt) (sw : SwardSt) (re : RegionSt) (wo : WorkSt) (bi : BivSt)
    (en : EngineSt) (ke : KettleSt) (pr : ProcSt) (dr : DirSt) (tl : TrailSt) (mt : MeterSt) (sl : StileSt) (pt : PortSt)
    (se : List Out) (fc : Nat) :
    (State.mk pe po ca fu s.regs di lo tr st jt me sw re wo bi en ke pr dr tl mt sl pt se fc).reg k = s.reg k := rfl

/-! ### Counts -/

@[simp] theorem bumpBy_pending : (s.bumpBy k n).pending = s.pending := rfl
@[simp] theorem bumpBy_power : (s.bumpBy k n).power = s.power := rfl
@[simp] theorem bumpBy_camp : (s.bumpBy k n).camp = s.camp := rfl
@[simp] theorem bumpBy_fuses : (s.bumpBy k n).fuses = s.fuses := rfl
@[simp] theorem bumpBy_dict : (s.bumpBy k n).dict = s.dict := rfl
@[simp] theorem bumpBy_log : (s.bumpBy k n).log = s.log := rfl
@[simp] theorem bumpBy_trace : (s.bumpBy k n).trace = s.trace := rfl
@[simp] theorem bumpBy_stop : (s.bumpBy k n).stop = s.stop := rfl
@[simp] theorem bumpBy_jtag : (s.bumpBy k n).jtag = s.jtag := rfl
@[simp] theorem bumpBy_mem : (s.bumpBy k n).mem = s.mem := rfl
@[simp] theorem bumpBy_sward : (s.bumpBy k n).sward = s.sward := rfl
@[simp] theorem bumpBy_region : (s.bumpBy k n).region = s.region := rfl
@[simp] theorem bumpBy_work : (s.bumpBy k n).work = s.work := rfl
@[simp] theorem bumpBy_biv : (s.bumpBy k n).biv = s.biv := rfl
@[simp] theorem bumpBy_eng : (s.bumpBy k n).eng = s.eng := rfl
@[simp] theorem bumpBy_kettle : (s.bumpBy k n).kettle = s.kettle := rfl
@[simp] theorem bumpBy_proc : (s.bumpBy k n).proc = s.proc := rfl
@[simp] theorem bumpBy_dir : (s.bumpBy k n).dir = s.dir := rfl
@[simp] theorem bumpBy_trail : (s.bumpBy k n).trail = s.trail := rfl
@[simp] theorem bumpBy_meter : (s.bumpBy k n).meter = s.meter := rfl
@[simp] theorem bumpBy_stile : (s.bumpBy k n).stile = s.stile := rfl
@[simp] theorem bumpBy_port : (s.bumpBy k n).port = s.port := rfl
@[simp] theorem bumpBy_sent : (s.bumpBy k n).sent = s.sent := rfl
@[simp] theorem bumpBy_freeCount : (s.bumpBy k n).freeCount = s.freeCount := rfl

@[simp] theorem bumpBy_reg : (s.bumpBy k n).reg j = if j = k then min countMax (s.reg k + n) else s.reg j :=
  setReg_reg s k j _

/-! ### A count of one -/

@[simp] theorem bump_pending : (s.bump k).pending = s.pending := rfl
@[simp] theorem bump_power : (s.bump k).power = s.power := rfl
@[simp] theorem bump_camp : (s.bump k).camp = s.camp := rfl
@[simp] theorem bump_fuses : (s.bump k).fuses = s.fuses := rfl
@[simp] theorem bump_dict : (s.bump k).dict = s.dict := rfl
@[simp] theorem bump_log : (s.bump k).log = s.log := rfl
@[simp] theorem bump_trace : (s.bump k).trace = s.trace := rfl
@[simp] theorem bump_stop : (s.bump k).stop = s.stop := rfl
@[simp] theorem bump_jtag : (s.bump k).jtag = s.jtag := rfl
@[simp] theorem bump_mem : (s.bump k).mem = s.mem := rfl
@[simp] theorem bump_sward : (s.bump k).sward = s.sward := rfl
@[simp] theorem bump_region : (s.bump k).region = s.region := rfl
@[simp] theorem bump_work : (s.bump k).work = s.work := rfl
@[simp] theorem bump_biv : (s.bump k).biv = s.biv := rfl
@[simp] theorem bump_eng : (s.bump k).eng = s.eng := rfl
@[simp] theorem bump_kettle : (s.bump k).kettle = s.kettle := rfl
@[simp] theorem bump_proc : (s.bump k).proc = s.proc := rfl
@[simp] theorem bump_dir : (s.bump k).dir = s.dir := rfl
@[simp] theorem bump_trail : (s.bump k).trail = s.trail := rfl
@[simp] theorem bump_meter : (s.bump k).meter = s.meter := rfl
@[simp] theorem bump_stile : (s.bump k).stile = s.stile := rfl
@[simp] theorem bump_port : (s.bump k).port = s.port := rfl
@[simp] theorem bump_sent : (s.bump k).sent = s.sent := rfl
@[simp] theorem bump_freeCount : (s.bump k).freeCount = s.freeCount := rfl

@[simp] theorem bump_reg : (s.bump k).reg j = if j = k then min countMax (s.reg k + 1) else s.reg j := setReg_reg s k j _

/-! ### A write that is ignored -/

@[simp] theorem ignoreWrite_pending : (s.ignoreWrite).pending = s.pending := rfl
@[simp] theorem ignoreWrite_power : (s.ignoreWrite).power = s.power := rfl
@[simp] theorem ignoreWrite_camp : (s.ignoreWrite).camp = s.camp := rfl
@[simp] theorem ignoreWrite_fuses : (s.ignoreWrite).fuses = s.fuses := rfl
@[simp] theorem ignoreWrite_dict : (s.ignoreWrite).dict = s.dict := rfl
@[simp] theorem ignoreWrite_log : (s.ignoreWrite).log = s.log := rfl
@[simp] theorem ignoreWrite_trace : (s.ignoreWrite).trace = s.trace := rfl
@[simp] theorem ignoreWrite_stop : (s.ignoreWrite).stop = s.stop := rfl
@[simp] theorem ignoreWrite_jtag : (s.ignoreWrite).jtag = s.jtag := rfl
@[simp] theorem ignoreWrite_mem : (s.ignoreWrite).mem = s.mem := rfl
@[simp] theorem ignoreWrite_sward : (s.ignoreWrite).sward = s.sward := rfl
@[simp] theorem ignoreWrite_region : (s.ignoreWrite).region = s.region := rfl
@[simp] theorem ignoreWrite_work : (s.ignoreWrite).work = s.work := rfl
@[simp] theorem ignoreWrite_biv : (s.ignoreWrite).biv = s.biv := rfl
@[simp] theorem ignoreWrite_eng : (s.ignoreWrite).eng = s.eng := rfl
@[simp] theorem ignoreWrite_kettle : (s.ignoreWrite).kettle = s.kettle := rfl
@[simp] theorem ignoreWrite_proc : (s.ignoreWrite).proc = s.proc := rfl
@[simp] theorem ignoreWrite_dir : (s.ignoreWrite).dir = s.dir := rfl
@[simp] theorem ignoreWrite_trail : (s.ignoreWrite).trail = s.trail := rfl
@[simp] theorem ignoreWrite_meter : (s.ignoreWrite).meter = s.meter := rfl
@[simp] theorem ignoreWrite_stile : (s.ignoreWrite).stile = s.stile := rfl
@[simp] theorem ignoreWrite_port : (s.ignoreWrite).port = s.port := rfl
@[simp] theorem ignoreWrite_sent : (s.ignoreWrite).sent = s.sent := rfl
@[simp] theorem ignoreWrite_freeCount : (s.ignoreWrite).freeCount = s.freeCount := rfl

@[simp] theorem ignoreWrite_reg : s.ignoreWrite.reg j =
    if j = E.mgmtWritesIgnored then min countMax (s.reg E.mgmtWritesIgnored + 1) else s.reg j := setReg_reg s _ j _

/-! ### An output -/

@[simp] theorem emit_pending : (s.emit o).pending = s.pending := rfl
@[simp] theorem emit_power : (s.emit o).power = s.power := rfl
@[simp] theorem emit_camp : (s.emit o).camp = s.camp := rfl
@[simp] theorem emit_fuses : (s.emit o).fuses = s.fuses := rfl
@[simp] theorem emit_regs : (s.emit o).regs = s.regs := rfl
@[simp] theorem emit_dict : (s.emit o).dict = s.dict := rfl
@[simp] theorem emit_log : (s.emit o).log = s.log := rfl
@[simp] theorem emit_trace : (s.emit o).trace = s.trace := rfl
@[simp] theorem emit_stop : (s.emit o).stop = s.stop := rfl
@[simp] theorem emit_jtag : (s.emit o).jtag = s.jtag := rfl
@[simp] theorem emit_mem : (s.emit o).mem = s.mem := rfl
@[simp] theorem emit_sward : (s.emit o).sward = s.sward := rfl
@[simp] theorem emit_region : (s.emit o).region = s.region := rfl
@[simp] theorem emit_work : (s.emit o).work = s.work := rfl
@[simp] theorem emit_biv : (s.emit o).biv = s.biv := rfl
@[simp] theorem emit_eng : (s.emit o).eng = s.eng := rfl
@[simp] theorem emit_kettle : (s.emit o).kettle = s.kettle := rfl
@[simp] theorem emit_proc : (s.emit o).proc = s.proc := rfl
@[simp] theorem emit_dir : (s.emit o).dir = s.dir := rfl
@[simp] theorem emit_trail : (s.emit o).trail = s.trail := rfl
@[simp] theorem emit_meter : (s.emit o).meter = s.meter := rfl
@[simp] theorem emit_stile : (s.emit o).stile = s.stile := rfl
@[simp] theorem emit_port : (s.emit o).port = s.port := rfl
@[simp] theorem emit_freeCount : (s.emit o).freeCount = s.freeCount := rfl

@[simp] theorem emit_sent : (s.emit o).sent = o :: s.sent := rfl
@[simp] theorem emit_reg : (s.emit o).reg k = s.reg k := rfl

/-! ### A fuse -/

@[simp] theorem burn_pending : (s.burn b).pending = s.pending := rfl
@[simp] theorem burn_power : (s.burn b).power = s.power := rfl
@[simp] theorem burn_camp : (s.burn b).camp = s.camp := rfl
@[simp] theorem burn_regs : (s.burn b).regs = s.regs := rfl
@[simp] theorem burn_dict : (s.burn b).dict = s.dict := rfl
@[simp] theorem burn_log : (s.burn b).log = s.log := rfl
@[simp] theorem burn_trace : (s.burn b).trace = s.trace := rfl
@[simp] theorem burn_stop : (s.burn b).stop = s.stop := rfl
@[simp] theorem burn_jtag : (s.burn b).jtag = s.jtag := rfl
@[simp] theorem burn_mem : (s.burn b).mem = s.mem := rfl
@[simp] theorem burn_sward : (s.burn b).sward = s.sward := rfl
@[simp] theorem burn_region : (s.burn b).region = s.region := rfl
@[simp] theorem burn_work : (s.burn b).work = s.work := rfl
@[simp] theorem burn_biv : (s.burn b).biv = s.biv := rfl
@[simp] theorem burn_eng : (s.burn b).eng = s.eng := rfl
@[simp] theorem burn_kettle : (s.burn b).kettle = s.kettle := rfl
@[simp] theorem burn_proc : (s.burn b).proc = s.proc := rfl
@[simp] theorem burn_dir : (s.burn b).dir = s.dir := rfl
@[simp] theorem burn_trail : (s.burn b).trail = s.trail := rfl
@[simp] theorem burn_meter : (s.burn b).meter = s.meter := rfl
@[simp] theorem burn_stile : (s.burn b).stile = s.stile := rfl
@[simp] theorem burn_port : (s.burn b).port = s.port := rfl
@[simp] theorem burn_sent : (s.burn b).sent = s.sent := rfl
@[simp] theorem burn_freeCount : (s.burn b).freeCount = s.freeCount := rfl

@[simp] theorem burn_reg : (s.burn b).reg k = s.reg k := rfl

/-! ### Several writes, several outputs -/

@[simp] theorem setRegs_nil : s.setRegs [] = s := rfl
@[simp] theorem setRegs_cons (kvs : List (Nat × Nat)) : s.setRegs ((k, v) :: kvs) = (s.setReg k v).setRegs kvs := rfl

theorem setRegs_pending (kvs : List (Nat × Nat)) : (s.setRegs kvs).pending = s.pending := by
  induction kvs generalizing s with
  | nil => rfl
  | cons p kvs ih => exact ih (s.setReg p.1 p.2)

theorem setRegs_power (kvs : List (Nat × Nat)) : (s.setRegs kvs).power = s.power := by
  induction kvs generalizing s with
  | nil => rfl
  | cons p kvs ih => exact ih (s.setReg p.1 p.2)

theorem setRegs_camp (kvs : List (Nat × Nat)) : (s.setRegs kvs).camp = s.camp := by
  induction kvs generalizing s with
  | nil => rfl
  | cons p kvs ih => exact ih (s.setReg p.1 p.2)

theorem setRegs_fuses (kvs : List (Nat × Nat)) : (s.setRegs kvs).fuses = s.fuses := by
  induction kvs generalizing s with
  | nil => rfl
  | cons p kvs ih => exact ih (s.setReg p.1 p.2)

theorem setRegs_dict (kvs : List (Nat × Nat)) : (s.setRegs kvs).dict = s.dict := by
  induction kvs generalizing s with
  | nil => rfl
  | cons p kvs ih => exact ih (s.setReg p.1 p.2)

theorem setRegs_log (kvs : List (Nat × Nat)) : (s.setRegs kvs).log = s.log := by
  induction kvs generalizing s with
  | nil => rfl
  | cons p kvs ih => exact ih (s.setReg p.1 p.2)

theorem setRegs_trace (kvs : List (Nat × Nat)) : (s.setRegs kvs).trace = s.trace := by
  induction kvs generalizing s with
  | nil => rfl
  | cons p kvs ih => exact ih (s.setReg p.1 p.2)

theorem setRegs_stop (kvs : List (Nat × Nat)) : (s.setRegs kvs).stop = s.stop := by
  induction kvs generalizing s with
  | nil => rfl
  | cons p kvs ih => exact ih (s.setReg p.1 p.2)

theorem setRegs_jtag (kvs : List (Nat × Nat)) : (s.setRegs kvs).jtag = s.jtag := by
  induction kvs generalizing s with
  | nil => rfl
  | cons p kvs ih => exact ih (s.setReg p.1 p.2)

theorem setRegs_mem (kvs : List (Nat × Nat)) : (s.setRegs kvs).mem = s.mem := by
  induction kvs generalizing s with
  | nil => rfl
  | cons p kvs ih => exact ih (s.setReg p.1 p.2)

theorem setRegs_sward (kvs : List (Nat × Nat)) : (s.setRegs kvs).sward = s.sward := by
  induction kvs generalizing s with
  | nil => rfl
  | cons p kvs ih => exact ih (s.setReg p.1 p.2)

theorem setRegs_region (kvs : List (Nat × Nat)) : (s.setRegs kvs).region = s.region := by
  induction kvs generalizing s with
  | nil => rfl
  | cons p kvs ih => exact ih (s.setReg p.1 p.2)

theorem setRegs_work (kvs : List (Nat × Nat)) : (s.setRegs kvs).work = s.work := by
  induction kvs generalizing s with
  | nil => rfl
  | cons p kvs ih => exact ih (s.setReg p.1 p.2)

theorem setRegs_biv (kvs : List (Nat × Nat)) : (s.setRegs kvs).biv = s.biv := by
  induction kvs generalizing s with
  | nil => rfl
  | cons p kvs ih => exact ih (s.setReg p.1 p.2)

theorem setRegs_eng (kvs : List (Nat × Nat)) : (s.setRegs kvs).eng = s.eng := by
  induction kvs generalizing s with
  | nil => rfl
  | cons p kvs ih => exact ih (s.setReg p.1 p.2)

theorem setRegs_kettle (kvs : List (Nat × Nat)) : (s.setRegs kvs).kettle = s.kettle := by
  induction kvs generalizing s with
  | nil => rfl
  | cons p kvs ih => exact ih (s.setReg p.1 p.2)

theorem setRegs_proc (kvs : List (Nat × Nat)) : (s.setRegs kvs).proc = s.proc := by
  induction kvs generalizing s with
  | nil => rfl
  | cons p kvs ih => exact ih (s.setReg p.1 p.2)

theorem setRegs_dir (kvs : List (Nat × Nat)) : (s.setRegs kvs).dir = s.dir := by
  induction kvs generalizing s with
  | nil => rfl
  | cons p kvs ih => exact ih (s.setReg p.1 p.2)

theorem setRegs_trail (kvs : List (Nat × Nat)) : (s.setRegs kvs).trail = s.trail := by
  induction kvs generalizing s with
  | nil => rfl
  | cons p kvs ih => exact ih (s.setReg p.1 p.2)

theorem setRegs_meter (kvs : List (Nat × Nat)) : (s.setRegs kvs).meter = s.meter := by
  induction kvs generalizing s with
  | nil => rfl
  | cons p kvs ih => exact ih (s.setReg p.1 p.2)

theorem setRegs_stile (kvs : List (Nat × Nat)) : (s.setRegs kvs).stile = s.stile := by
  induction kvs generalizing s with
  | nil => rfl
  | cons p kvs ih => exact ih (s.setReg p.1 p.2)

theorem setRegs_port (kvs : List (Nat × Nat)) : (s.setRegs kvs).port = s.port := by
  induction kvs generalizing s with
  | nil => rfl
  | cons p kvs ih => exact ih (s.setReg p.1 p.2)

theorem setRegs_sent (kvs : List (Nat × Nat)) : (s.setRegs kvs).sent = s.sent := by
  induction kvs generalizing s with
  | nil => rfl
  | cons p kvs ih => exact ih (s.setReg p.1 p.2)

theorem setRegs_freeCount (kvs : List (Nat × Nat)) : (s.setRegs kvs).freeCount = s.freeCount := by
  induction kvs generalizing s with
  | nil => rfl
  | cons p kvs ih => exact ih (s.setReg p.1 p.2)

@[simp] theorem emitAll_nil : s.emitAll [] = s := rfl
@[simp] theorem emitAll_cons (os : List Out) : s.emitAll (o :: os) = (s.emit o).emitAll os := rfl

/-! ### The trace and the fault log -/

/-- All that latching the stop can do (R528). -/
theorem latchStop_eq : s.latchStop k = { s with regs := (s.latchStop k).regs, stop := (s.latchStop k).stop } := by
  unfold State.latchStop; split <;> rfl

/-- All that a record put into the trace buffer can do (R526). -/
theorem pushRecord_eq (r : TraceRec) :
    s.pushRecord r = { s with regs := (s.pushRecord r).regs, trace := (s.pushRecord r).trace } := by
  unfold State.pushRecord; split
  · rfl
  · split <;> rfl

/-- All that a trace event can do (R526, R528). -/
theorem traceEvent_eq (e : TraceEv) : s.traceEvent e =
    { s with regs := (s.traceEvent e).regs, trace := (s.traceEvent e).trace, stop := (s.traceEvent e).stop } := by
  unfold State.traceEvent
  simp only []
  split
  · split
    · rw [latchStop_eq, pushRecord_eq]
    · rw [pushRecord_eq]
  · rfl

/-- All that an event directed to the fault log can do (R520). -/
theorem logEventAt_eq (a c d e f g : Nat) : s.logEventAt a c d e f g =
    { s with regs := (s.logEventAt a c d e f g).regs, log := (s.logEventAt a c d e f g).log } := by
  unfold State.logEventAt; split <;> rfl

/-! ### The frame of every command -/

/-- Every command but the pins': what it does outside the queue, the outputs, the fuses, the TAP and RESET_N is what its
operation does. -/
theorem run_eq (f : State → State) : s.run f =
    .next (s.close { f s.front with jtag := s.jtag, power := { (f s.front).power with resetN := s.power.resetN } }) := rfl

/-- The commands of the pins. -/
theorem runPin_eq (f : State → State) : s.runPin f = .next (s.close (f s.front)) := rfl

end Sys2Proof.Laws
end

