-- ==== Sys2Proof/Laws/Rows.lean ====
section
/-! SUPPORT. What a write of an entry by a role can do, once for every row that is such a write (R440 to R445). -/

namespace Sys2Proof.Laws

open Sys2Proof.Machine

variable {s t : State} {role : Role} {key v : Nat}

/-! ### Completion -/

/-- A command that is an operation of the block completes with what its close leaves of the operation's result. -/
theorem run_completes {c : Instr} {P : State → Prop} {f : State → State} (h : exec c s = s.run f)
    (hp : P (s.close { f s.front with jtag := s.jtag, power := { (f s.front).power with resetN := s.power.resetN } })) :
    Completes c s P := ⟨_, h, hp⟩

/-- The same for the commands of the pins. -/
theorem runPin_completes {c : Instr} {P : State → Prop} {f : State → State} (h : exec c s = s.runPin f)
    (hp : P (s.close (f s.front))) : Completes c s P := ⟨_, h, hp⟩

/-- A command answers one state. -/
theorem completes_unique {c : Instr} {P Q : State → Prop} (hp : Completes c s P) (hq : Completes c s Q) :
    Completes c s fun t => P t ∧ Q t := by
  obtain ⟨t, ht, h1⟩ := hp
  obtain ⟨u, hu, h2⟩ := hq
  rw [ht] at hu; cases hu
  exact ⟨t, ht, h1, h2⟩

/-! ### What the conditions of the device read from a command's view -/

@[simp] theorem front_dictUp : s.front.dictUp = s.dictUp := rfl
@[simp] theorem front_mgmtServes : s.front.mgmtServes = s.mgmtServes := rfl
@[simp] theorem front_servesEntry (i j : Nat) : s.front.servesEntry i j = s.servesEntry i j := rfl
@[simp] theorem front_coreOn : s.front.coreOn = s.coreOn := rfl
@[simp] theorem front_running : s.front.running = s.running := rfl
@[simp] theorem front_cclk : s.front.cclk = s.cclk := rfl
@[simp] theorem front_now : s.front.now = s.now := rfl

theorem programmed_programmed (f : Fuses) : f.programmed.programmed = f.programmed := rfl

/-- Everything is served once a management core serves (R444). -/
theorem servesEntry_of_served (h : Served s) (i j : Nat) : s.servesEntry i j = true := by
  simp [State.servesEntry, h.1, h.2]

/-- Nothing waits for a response unless the write itself made it wait. -/
theorem answered_of_dict (h : t.dict = s.dict) : t.answered s = t := by
  have ho : t.owes = s.owes := by simp [State.owes, h]
  simp only [State.answered, ho]; split
  · rename_i h2; exact absurd h2.1 h2.2
  · rfl

/-- A write whose role has the right, of a served entry that its table lets hold the value, goes to the entry's own
rule. -/
theorem rowWrite_eq {r : ERow} (hs : s.servesEntry (key / 256) (key % 256) = true)
    (hr : mayWrite role (key / 256) (key % 256) = true) (he : entryRow (key / 256) (key % 256) = some r)
    (hsub : key % 256 ≠ 0) (hty : r.ty ≠ 9 ∧ r.ty ≠ 10) (hv : inRange v r.vmin r.vmax = true) :
    s.rowWrite role key v = (s.putValue role (key / 256) (key % 256) v).answered s := by
  simp [State.rowWrite, State.asWriter, hs, hr, State.writeValue, he, typeOf, hsub, hty, hv, State.writeWhen]

/-- A write without the right only counts (R442). -/
theorem rowWrite_denied (hs : s.servesEntry (key / 256) (key % 256) = true)
    (hr : mayWrite role (key / 256) (key % 256) = false) :
    s.rowWrite role key v = s.bump E.violDictDenied := by
  simp only [State.rowWrite, State.asWriter, hs, hr, if_true]
  exact answered_of_dict rfl

/-- A write of an entry that is not served does nothing (R444). -/
theorem rowWrite_unserved (hs : s.servesEntry (key / 256) (key % 256) = false) : s.rowWrite role key v = s := by
  simp only [State.rowWrite, State.asWriter, hs]
  exact answered_of_dict rfl

end Sys2Proof.Laws
end

