-- ==== Sys2Proof/Laws/Exec.lean ====
section
/-! SUPPORT. What every command leaves alone, once for all of them: each ends by closing a state over the queue, the
outputs and the fuses. -/

namespace Sys2Proof.Laws

open Sys2Proof.Machine

variable {s t : State} {c : Instr}

/-- The state that a command's close gives, field by field. -/
theorem close_eq (s t : State) :
    s.close t = { t with pending := s.pending, sent := t.sent ++ s.sent, fuses := (s.close t).fuses } := rfl

/-- Every command ends by closing some state. -/
theorem exec_closes (c : Instr) (s : State) : ∃ u, exec c s = .next (s.close u) := by
  cases c <;> exact ⟨_, rfl⟩

/-- No command touches the queue, and every one only adds to what the device has sent. -/
theorem exec_queue (h : exec c s = .next t) : t.pending = s.pending ∧ ∃ l, t.sent = l ++ s.sent := by
  obtain ⟨u, hu⟩ := exec_closes c s
  rw [hu] at h; cases h
  exact ⟨rfl, _, rfl⟩

end Sys2Proof.Laws
end

