-- ==== Sys2Proof/Laws/Memory.lean ====
section
/-! SUPPORT. The memory operations: what leaves the tables of stacked memory and of the Sward alone, and that every
operation that writes them keeps their canonical form (R172 to R184, R189). -/

namespace Sys2Proof.Laws

open Sys2Proof.Machine

variable {s t : State}

/-! ### The canonical form -/

/-- The form depends on the two memories alone. -/
theorem wf_congr (hm : t.mem = s.mem) (hw : t.sward = s.sward) : Memory.wf t = Memory.wf s := by
  simp [Memory.wf, hm, hw]

/-- The memory of the reset state is in canonical form. -/
theorem wf_reset : Memory.wf State.reset = true := by decide

/-- A step from one state to another that keeps the canonical form. -/
structure Keeps (s t : State) : Prop where
  /-- What is in form before is in form after. -/
  form : Memory.wf s = true → Memory.wf t = true

theorem Keeps.refl (s : State) : Keeps s s := ⟨id⟩

theorem Keeps.trans {s t u : State} (h : Keeps s t) (k : Keeps t u) : Keeps s u := ⟨fun x => k.form (h.form x)⟩

theorem Keeps.of_eq (hm : t.mem = s.mem) (hw : t.sward = s.sward) : Keeps s t := ⟨fun h => (wf_congr hm hw).trans h⟩

/-- Keeping both memories as they are. -/
def SameMem (s t : State) : Prop := t.mem = s.mem ∧ t.sward = s.sward

theorem SameMem.refl (s : State) : SameMem s s := ⟨rfl, rfl⟩

theorem SameMem.trans {s t u : State} (h : SameMem s t) (k : SameMem t u) : SameMem s u :=
  ⟨k.1.trans h.1, k.2.trans h.2⟩

theorem SameMem.keeps (h : SameMem s t) : Keeps s t := .of_eq h.1 h.2

theorem sameMem_setReg (s : State) (k v : Nat) : SameMem s (s.setReg k v) := ⟨rfl, rfl⟩

theorem sameMem_bump (s : State) (k : Nat) : SameMem s (s.bump k) := ⟨rfl, rfl⟩

theorem sameMem_bumpBy (s : State) (k n : Nat) : SameMem s (s.bumpBy k n) := ⟨rfl, rfl⟩

theorem sameMem_logEvent (s : State) (a b c d e : Nat) : SameMem s (s.logEvent a b c d e) := by
  unfold State.logEvent State.logEventAt; split <;> exact ⟨rfl, rfl⟩

/-! ### Storing bytes -/

/-- Storing a line's bytes keeps the form. -/
theorem wf_storeBytes (m : List Host.Cell) (slot : Nat) (d : Line) (h : SMap.wf (fun _ => (0 : Byte)) m = true) :
    SMap.wf (fun _ => (0 : Byte)) (storeBytes m slot d) = true := by
  unfold storeBytes
  generalize List.range 64 = l
  induction l generalizing m with
  | nil => simpa using h
  | cons a l ih => exact ih _ (wf_set _ _ _ _ h)

/-- Bytes outside the listed places of a line stand. -/
theorem storeBytes_fold_get (slot : Nat) (d : Line) (l : List Nat) (m : List Host.Cell) (a : Nat) :
    SMap.get (fun _ => (0 : Byte)) (l.foldl (fun m b => SMap.set (fun _ => 0) m (slot * 64 + b) (lineByte d b)) m) a =
      if slot * 64 ≤ a ∧ a - slot * 64 ∈ l then lineByte d (a - slot * 64) else SMap.get (fun _ => 0) m a := by
  induction l generalizing m with
  | nil => simp
  | cons b l ih =>
    rw [List.foldl_cons, ih, smap_get_set]
    by_cases h1 : slot * 64 ≤ a
    · by_cases h2 : a - slot * 64 ∈ l
      · simp [h1, h2]
      · by_cases h3 : a = slot * 64 + b
        · subst h3; simp
        · have : a - slot * 64 ≠ b := by omega
          simp [h1, h2, h3, this]
    · have : a ≠ slot * 64 + b := by omega
      simp [h1, this]

/-- Reading a byte after a line has been stored: the line's bytes are the new ones, and every other byte stands. -/
theorem storeBytes_get (m : List Host.Cell) (slot : Nat) (d : Line) (a : Nat) :
    SMap.get (fun _ => (0 : Byte)) (storeBytes m slot d) a =
      if slot * 64 ≤ a ∧ a < slot * 64 + 64 then lineByte d (a - slot * 64) else SMap.get (fun _ => 0) m a := by
  unfold storeBytes
  rw [storeBytes_fold_get]
  have : (slot * 64 ≤ a ∧ a - slot * 64 ∈ List.range 64) ↔ slot * 64 ≤ a ∧ a < slot * 64 + 64 := by
    rw [List.mem_range]; omega
  simp only [this]

/-! ### Words of slots -/

/-- Storing a word keeps the form. -/
theorem keeps_setSlot (s : State) (slot : Nat) (k : SlotKind) (d : Line) (e : Nat) : Keeps s (s.setSlot slot k d e) := by
  refine ⟨fun h => ?_⟩
  simp only [Memory.wf, Bool.and_eq_true] at h ⊢
  obtain ⟨⟨⟨⟨h1, h2⟩, h3⟩, h4⟩, h5⟩ := h
  exact ⟨⟨⟨⟨wf_storeBytes _ _ _ h1, wf_set _ _ _ _ h2⟩, wf_set _ _ _ _ h3⟩, h4⟩, h5⟩

/-- The kind of a slot after a word is stored: that of the slot written, and no other's, changes. -/
theorem setSlot_kind (s : State) (slot x : Nat) (k : SlotKind) (d : Line) (e : Nat) :
    (s.setSlot slot k d e).slotKind x = if x = slot then k else s.slotKind x := by
  simp only [State.slotKind, State.setSlot, smap_get_set]

/-- The error pattern of a slot after a word is stored. -/
theorem setSlot_err (s : State) (slot x : Nat) (k : SlotKind) (d : Line) (e : Nat) :
    (s.setSlot slot k d e).slotErr x = if x = slot then e else s.slotErr x := by
  simp only [State.slotErr, State.setSlot, smap_get_set]

/-- The data of another slot stands when a word is stored. -/
theorem setSlot_data_ne (s : State) {slot x : Nat} (k : SlotKind) (d : Line) (e : Nat) (h : x ≠ slot) :
    (s.setSlot slot k d e).slotData x = s.slotData x := by
  unfold State.slotData State.setSlot
  congr 1
  apply List.map_congr_left
  intro b hb
  rw [List.mem_range] at hb
  rw [storeBytes_get]
  have : ¬ (slot * 64 ≤ x * 64 + b ∧ x * 64 + b < slot * 64 + 64) := by omega
  simp [this]

theorem sameMem_noteRead (s : State) (slot : Nat) (r : WordRead) : SameMem s (s.noteRead slot r) := by
  cases r <;> exact ⟨rfl, rfl⟩

theorem sameMem_noteMate (s : State) (slot : Nat) (r : WordRead) : SameMem s (s.noteMate slot r) := by
  cases r <;> exact ⟨rfl, rfl⟩

theorem sameMem_logUncorrected (s : State) (ln : Nat) : SameMem s (s.logUncorrected ln) := sameMem_logEvent ..

/-! ### Stripes -/

theorem sameMem_readMate (s : State) (t j : Nat) : SameMem s (s.readMate t j).1 := by
  unfold State.readMate
  split
  · exact sameMem_noteMate ..
  · exact .refl _

/-- A fold of steps each of which leaves the memories alone. -/
theorem sameMem_foldl {α β : Type} (f : State × β → α → State × β) (h : ∀ a x, SameMem a.1 (f a x).1) (l : List α)
    (a : State × β) : SameMem a.1 (l.foldl f a).1 := by
  induction l generalizing a with
  | nil => exact .refl _
  | cons x l ih => exact (h a x).trans (ih _)

/-- A fold of steps each of which keeps the form. -/
theorem keeps_foldl {α : Type} (f : State → α → State) (h : ∀ s x, Keeps s (f s x)) (l : List α) (s : State) :
    Keeps s (l.foldl f s) := by
  induction l generalizing s with
  | nil => exact .refl _
  | cons x l ih => exact (h s x).trans (ih _)

theorem sameMem_readMates (s : State) (t j : Nat) : SameMem s (s.readMates t j).1 :=
  sameMem_foldl (β := List (Nat × Option WordRead)) _ (fun a x => sameMem_readMate a.1 t x) _ (s, [])

theorem sameMem_readParity (s : State) (t : Nat) : SameMem s (s.readParity t).1 := by
  unfold State.readParity
  split
  · simp only []
    split <;> exact sameMem_noteMate ..
  · exact .refl _

theorem keeps_writeParity (s : State) (t : Nat) (d : Line) : Keeps s (s.writeParity t d) := by
  unfold State.writeParity
  split
  · exact keeps_setSlot ..
  · exact .refl _

theorem keeps_poisonMates (s : State) (t : Nat) (js : List Nat) : Keeps s (s.poisonMates t js) := by
  refine keeps_foldl _ (fun s j => ?_) js s
  split
  · exact (keeps_setSlot ..).trans ((sameMem_bump ..).trans (sameMem_logUncorrected ..)).keeps
  · exact .refl _

theorem keeps_fixSecondStripe (s : State) (slot t : Nat) (a b : Line) : Keeps s (s.fixSecondStripe slot t a b) := by
  unfold State.fixSecondStripe
  simp only []
  split
  · have h := sameMem_readParity s (slot % stackSlots - s.protBase / 16)
    split <;> rename_i e <;> rw [e] at h
    · exact h.keeps.trans (keeps_writeParity ..)
    · exact h.keeps
  · exact .refl _

/-! ### Lines -/

theorem sameMem_degradedRead (s : State) (t j : Nat) : SameMem s (s.degradedRead t j).s := by
  have h := (sameMem_readParity s t).trans (sameMem_readMates (s.readParity t).1 t j)
  unfold State.degradedRead
  generalize s.readParity t = r at h ⊢
  obtain ⟨s1, p, x⟩ := r
  dsimp only at h ⊢
  generalize s1.readMates t j = r at h ⊢
  obtain ⟨s2, ms⟩ := r
  dsimp only at h ⊢
  split <;> exact h.trans (sameMem_bump ..)

theorem keeps_reconstruct (s : State) (slot t j : Nat) : Keeps s (s.reconstruct slot t j).s := by
  have h := sameMem_readMates s t j
  unfold State.reconstruct
  generalize s.readMates t j = r at h ⊢
  obtain ⟨s1, ms⟩ := r
  dsimp only at h ⊢
  generalize hp : s1.place (t % 16) (s1.stripeIndex t) = pl
  cases pl <;> dsimp only <;> (try split)
  all_goals first
    | exact (h.trans (sameMem_noteMate ..)).keeps.trans ((keeps_setSlot ..).trans (sameMem_bump ..).keeps)
    | exact (h.trans (sameMem_noteMate ..)).keeps
    | exact h.keeps.trans ((keeps_setSlot ..).trans (sameMem_bump ..).keeps)
    | exact h.keeps

/-- A read keeps the form: it stores nothing but a reconstructed word. -/
theorem keeps_readLine (s : State) (ln err : Nat) : Keeps s (s.readLine ln err).s := by
  unfold State.readLine
  split
  · exact .refl _
  · split
    · simp only []
      split
      · exact (sameMem_noteRead ..).keeps
      · exact (sameMem_noteRead ..).keeps
      · exact ((sameMem_noteRead ..).trans (sameMem_logUncorrected ..)).keeps
      · exact (sameMem_noteRead ..).keeps
      · exact (sameMem_noteRead ..).keeps
    · exact .refl _
  · split
    · simp only []
      split
      · exact (sameMem_noteRead ..).keeps
      · exact (sameMem_noteRead ..).keeps
      · exact (sameMem_noteRead ..).keeps
      · exact (sameMem_noteRead ..).keeps
      · exact (sameMem_noteRead ..).keeps.trans (keeps_reconstruct ..)
    · exact (sameMem_degradedRead ..).keeps
    · exact (sameMem_degradedRead ..).keeps
    · exact .refl _

theorem sameMem_takeTest (s : State) (ln : Nat) (w : Bool) : SameMem s (s.takeTest ln w).1 := by
  unfold State.takeTest
  split <;> exact ⟨rfl, rfl⟩

theorem keeps_takeTest_setSlot (s : State) (ln slot : Nat) (w : Bool) (d : Line) :
    Keeps s ((s.takeTest ln w).1.setSlot slot .codeword d (s.takeTest ln w).2) :=
  (sameMem_takeTest ..).keeps.trans (keeps_setSlot ..)

theorem keeps_writePlain (s : State) (ln slot : Nat) (whole : Bool) (f : Line → Line) (err : Nat) :
    Keeps s (s.writePlain ln slot whole f err).s := by
  unfold State.writePlain
  simp only []
  split
  · exact keeps_takeTest_setSlot ..
  · have h := (sameMem_bump s (E.stackRmwCount (slot / stackSlots))).trans
      (sameMem_noteRead (s.bump (E.stackRmwCount (slot / stackSlots))) slot
        ((s.bump (E.stackRmwCount (slot / stackSlots))).readSlot slot err))
    split
    · exact h.keeps.trans (keeps_setSlot ..)
    · exact h.keeps.trans (keeps_setSlot ..)
    · exact (h.trans (sameMem_logUncorrected ..)).keeps
    · exact h.keeps
    · exact h.keeps

theorem keeps_degradedWrite (s : State) (t j : Nat) (whole : Bool) (f : Line → Line) :
    Keeps s (s.degradedWrite t j whole f).s := by
  have h := ((sameMem_readParity s t).trans (sameMem_readMates (s.readParity t).1 t j)).keeps
  unfold State.degradedWrite
  generalize s.readParity t = r at h ⊢
  obtain ⟨s1, p, x⟩ := r
  dsimp only at h ⊢
  generalize s1.readMates t j = r at h ⊢
  obtain ⟨s2, ms⟩ := r
  dsimp only at h ⊢
  split
  · exact h
  · split
    · exact h.trans ((keeps_poisonMates ..).trans (keeps_writeParity ..))
    · split
      · exact h.trans (keeps_writeParity ..)
      · exact h

/-- The last step of a stripe write: test errors, the word, and the parity. -/
theorem keeps_storeProt (s : State) (ln slot t : Nat) (w : Bool) (d p : Line) : Keeps s (s.storeProt ln slot t w d p) :=
  (keeps_takeTest_setSlot ..).trans (keeps_writeParity ..)

theorem sameMem_noteProt (s : State) (slot : Nat) (w : Bool) (r : WordRead) : SameMem s (s.noteProt slot w r) := by
  unfold State.noteProt
  split
  · split
    · exact .refl _
    · exact sameMem_noteRead ..
  · split
    · exact .refl _
    · exact sameMem_noteRead ..
  · exact sameMem_noteRead ..

theorem keeps_writeByLines (s : State) (ln t j slot : Nat) (w : Bool) (old new : Line) (c : List (Nat × Nat)) :
    Keeps s (s.writeByLines ln t j slot w old new c).s := by
  have h := (sameMem_readMates s t j).keeps
  unfold State.writeByLines
  generalize s.readMates t j = r at h ⊢
  obtain ⟨d, ms⟩ := r
  dsimp only at h ⊢
  split
  · exact h
  · exact h.trans ((keeps_poisonMates ..).trans (keeps_storeProt ..))

theorem keeps_writeByDelta (s : State) (ln t slot : Nat) (w : Bool) (old new p : Line) (c : List (Nat × Nat)) :
    Keeps s (s.writeByDelta ln t slot w old new p c).s := (keeps_storeProt ..).trans (keeps_fixSecondStripe ..)

theorem keeps_writeOverLost (s : State) (ln t j slot : Nat) (w : Bool) (f : Line → Line) (p : Line) (c : List (Nat × Nat)) :
    Keeps s (s.writeOverLost ln t j slot w f p c).s := by
  have h := (sameMem_readMates s t j).keeps
  unfold State.writeOverLost
  generalize s.readMates t j = r at h ⊢
  obtain ⟨d, ms⟩ := r
  dsimp only at h ⊢
  split
  · exact h.trans (keeps_writeByDelta ..)
  · split
    · exact h.trans ((keeps_poisonMates ..).trans (keeps_storeProt ..))
    · exact h

theorem keeps_writeNoParity (s : State) (ln slot : Nat) (w : Bool) (f : Line → Line) (r : WordRead) (c : List (Nat × Nat)) :
    Keeps s (s.writeNoParity ln slot w f r c).s := by
  unfold State.writeNoParity
  split
  · exact keeps_takeTest_setSlot ..
  · split
    · exact keeps_setSlot ..
    · exact .refl _

theorem keeps_writeProt (s : State) (ln t j slot : Nat) (whole : Bool) (f : Line → Line) (err : Nat) :
    Keeps s (s.writeProt ln t j slot whole f err).s := by
  unfold State.writeProt
  dsimp only
  generalize ha : (if whole = true then s else s.bump (E.stackRmwCount (slot / stackSlots))) = a
  have h1 : Keeps s a := by
    subst ha; split
    · exact .refl _
    · exact (sameMem_bump ..).keeps
  refine h1.trans ?_
  clear ha h1
  generalize a.readSlot slot err = r
  have h := ((sameMem_noteProt a slot whole r).trans (sameMem_readParity _ t)).keeps
  generalize (a.noteProt slot whole r).readParity t = q at h ⊢
  obtain ⟨c, par, reach⟩ := q
  dsimp only at h ⊢
  refine h.trans ?_
  split
  · exact keeps_writeNoParity ..
  · split <;> try split
    all_goals first
      | exact .refl _
      | exact keeps_writeByDelta ..
      | exact keeps_writeByLines ..
      | exact keeps_writeOverLost ..

/-- A write keeps the form, whatever it meets on its way (R174, R180, R183). -/
theorem keeps_updateLine (s : State) (ln : Nat) (whole : Bool) (f : Line → Line) (err : Nat) :
    Keeps s (s.updateLine ln whole f err).s := by
  unfold State.updateLine
  repeat' split
  all_goals first
    | exact .refl _
    | exact keeps_writePlain ..
    | exact keeps_writeProt ..
    | exact keeps_degradedWrite ..

theorem keeps_writeLine (s : State) (ln : Nat) (mask : Mask) (d : Line) (err : Nat) :
    Keeps s (s.writeLine ln mask d err).s := keeps_updateLine ..

/-- Storing a word without data keeps the form. -/
theorem keeps_blankLine (s : State) (ln : Nat) (k : SlotKind) : Keeps s (s.blankLine ln k).s := by
  unfold State.blankLine
  split
  · exact .refl _
  · split
    · exact keeps_setSlot ..
    · exact .refl _
  · rename_i t j st idx hh
    split
    · rename_i slot hp
      dsimp only
      have h3 := (sameMem_noteMate s slot (s.readSlot slot 0)).trans
        (sameMem_readParity (s.noteMate slot (s.readSlot slot 0)) t)
      generalize (s.noteMate slot (s.readSlot slot 0)).readParity t = r at h3 ⊢
      obtain ⟨c, par, reach⟩ := r
      dsimp only at h3 ⊢
      refine h3.keeps.trans ?_
      have h4 := (sameMem_readMates c t j).keeps
      generalize c.readMates t j = r at h4 ⊢
      obtain ⟨d, ms⟩ := r
      dsimp only at h4 ⊢
      repeat' split
      all_goals first
        | exact keeps_setSlot ..
        | exact (keeps_setSlot ..).trans ((keeps_writeParity ..).trans (keeps_fixSecondStripe ..))
        | exact h4.trans ((keeps_poisonMates ..).trans ((keeps_setSlot ..).trans (keeps_writeParity ..)))
    · exact (sameMem_readMates ..).keeps.trans ((keeps_poisonMates ..).trans (keeps_writeParity ..))
    · exact (sameMem_readMates ..).keeps.trans ((keeps_poisonMates ..).trans (keeps_writeParity ..))
    · exact .refl _

/-- A full-stripe write keeps the form. -/
theorem keeps_writeStripe (s : State) (t : Nat) (ds : List Line) : Keeps s (s.writeStripe t ds) := by
  unfold State.writeStripe
  dsimp only
  refine (keeps_foldl _ (fun s p => ?_) ds.zipIdx s).trans ((keeps_writeParity ..).trans (sameMem_bump ..).keeps)
  split
  · exact keeps_takeTest_setSlot ..
  · exact .refl _

/-! ### The Sward -/

/-- A write of a Sward line keeps the form. -/
theorem keeps_swardWrite (s : State) (sl : Nat) (mask : Mask) (d : Line) : Keeps s (s.swardWrite sl mask d).1 := by
  refine ⟨fun h => ?_⟩
  have h' := h
  simp only [Memory.wf, Bool.and_eq_true] at h'
  obtain ⟨⟨⟨⟨h1, h2⟩, h3⟩, h4⟩, h5⟩ := h'
  unfold State.swardWrite
  split
  · exact h
  · split
    · simp only [Memory.wf, Bool.and_eq_true]
      exact ⟨⟨⟨⟨h1, h2⟩, h3⟩, wf_storeBytes _ _ _ h4⟩, wf_set _ _ _ _ h5⟩
    · split
      · simp only [Memory.wf, Bool.and_eq_true]
        exact ⟨⟨⟨⟨h1, h2⟩, h3⟩, wf_storeBytes _ _ _ h4⟩, h5⟩
      · exact h

/-- Clearing written flags keeps the form. -/
theorem keeps_swardClear (s : State) (sl n : Nat) : Keeps s (s.swardClear sl n) := by
  refine ⟨fun h => ?_⟩
  simp only [Memory.wf, Bool.and_eq_true] at h ⊢
  obtain ⟨⟨⟨⟨h1, h2⟩, h3⟩, h4⟩, h5⟩ := h
  exact ⟨⟨⟨⟨h1, h2⟩, h3⟩, wf_keep (fun _ => (0 : Byte)) (fun k => !(decide (sl * 64 ≤ k) && decide (k < (sl + n) * 64))) _ h4⟩,
    wf_keep (fun _ => false) (fun k => !(decide (sl ≤ k) && decide (k < sl + n))) _ h5⟩

/-- A read of a Sward line leaves the memories alone. -/
theorem sameMem_swardRead (s : State) (sl : Nat) : SameMem s (s.swardRead sl).1 := by
  unfold State.swardRead
  split
  · exact .refl _
  · split <;> exact ⟨rfl, rfl⟩

end Sys2Proof.Laws
end

