-- ==== Sys2Proof/Laws/Pegs.lean ====
section
/-! SUPPORT. What a command that ends in one Bivouac, one Peg or one descriptor leaves alone. -/

namespace Sys2Proof.Laws

open Sys2Proof.Machine

variable {s u t : State} {c : Instr}

/-- The context of a Peg names that Peg. -/
theorem pegContext_who {b g : Nat} {w : PegWho} {p : Peg} (h : s.pegContext b g = some (w, p)) : w.b = b ∧ w.g = g := by
  unfold State.pegContext at h
  split at h
  · cases h
  · split at h
    · split at h
      · cases h
      · cases h; exact ⟨rfl, rfl⟩
    · cases h

/-- The Bivouacs after one of them is set. -/
theorem bivAt_setBiv (s : State) (b b' : Nat) (x : Biv) :
    (s.setBiv b x).bivAt b' = if b' = b then x else s.bivAt b' := by
  simp [State.setBiv, State.bivAt, smap_get_set]

/-- A command whose operation sets one Bivouac. -/
theorem bivBecomes_of {b : Nat} {x : Biv} {f : State → State} (hc : exec c s = s.run f) (hf : f s.front = u.setBiv b x) :
    Completes c s fun t => BivBecomes u s t b x := by
  refine run_completes hc ?_
  rw [hf]
  refine ⟨?_, ?_, ?_⟩
  · simp [BivOnly, State.setBiv, State.close]
  · simp [State.setBiv, State.close, State.bivAt]
  · intro b' hb
    simp [State.setBiv, State.close, State.bivAt, smap_get_set, hb]

/-- A command whose operation sets one Peg. -/
theorem pegSteps_of {b g : Nat} {q : Peg} {f : State → State} (hc : exec c s = s.run f) (hf : f s.front = u.setPeg b g q) :
    Completes c s fun t => PegSteps u s t b g q := bivBecomes_of hc hf

/-! ### Descriptors -/

/-- Finding the changed element where the change keeps the key. -/
theorem find_map_id {id : DescId} (d : Desc) (l : List Desc) :
    (l.map fun x => if x.id = d.id then d else x).find? (fun x => x.id == id) =
      if d.id = id then (l.find? fun x => x.id == id).map fun _ => d else l.find? fun x => x.id == id := by
  induction l with
  | nil => simp
  | cons x l ih =>
    rw [List.map_cons, List.find?_cons, List.find?_cons, ih]
    by_cases h1 : x.id = d.id <;> by_cases h2 : d.id = id
    · simp [h1, h2]
    · have h3 : ¬ x.id = id := fun h => h2 (h1.symm.trans h)
      simp [h1, h2, beq_eq_false_iff_ne.mpr h2]
    · have h3 : ¬ x.id = id := fun h => h1 (h.trans h2.symm)
      simp [h2, h3, beq_eq_false_iff_ne.mpr h3]
    · simp [h1, h2]

/-- A listed descriptor after it has been replaced; any other one stands. -/
theorem desc_setDesc (s : State) (d : Desc) (id : DescId) :
    (s.setDesc d).desc id = if d.id = id then (s.desc id).map fun _ => d else s.desc id := find_map_id ..

/-- Deciding a descriptor whose status is open. -/
theorem decideDesc_open {d : Desc} (o : DescOut) (h : d.outcome = none) : s.decideDesc d o =
    s.setDesc { d with phase := .decided, outcome := some o, fault := none, todo := [],
                       start := some (d.start.getD s.now) } := by
  simp [State.decideDesc, h]

/-- A descriptor that is found has the key it was looked up by. -/
theorem desc_id {id : DescId} {d : Desc} (h : s.desc id = some d) : d.id = id := by
  simpa using List.find?_some h

/-- What deciding a listed descriptor does to it. -/
theorem desc_decideDesc {id : DescId} {d : Desc} (o : DescOut) (h : s.desc id = some d) (hd : d.outcome = none) :
    (s.decideDesc d o).desc id =
      some { d with phase := .decided, outcome := some o, fault := none, todo := [], start := some (d.start.getD s.now) } := by
  rw [decideDesc_open o hd, desc_setDesc]
  simp [h, desc_id h]

end Sys2Proof.Laws
end

