-- ==== Sys2Proof/Laws/Reset.lean ====
section
/-! SUPPORT. What the operations of the resets can do (R470 to R476). -/

namespace Sys2Proof.Laws

open Sys2Proof.Machine

variable (s : State)

/-- Registers that are the same list read the same. -/
theorem reg_congr {s t : State} (h : s.regs = t.regs) (k : Nat) : s.reg k = t.reg k := by simp [State.reg, h]

/-- All that the end of the internal reset can do. -/
theorem endReset_eq : ∃ r l,
    s.endReset = { s with power := { s.power with phase := .running }, regs := r, log := l } := by
  unfold State.endReset
  simp only []
  split <;> split
  · rw [logEventAt_eq]; exact ⟨_, _, rfl⟩
  · exact ⟨_, _, rfl⟩
  · rw [logEventAt_eq]; exact ⟨_, _, rfl⟩
  · exact ⟨_, _, rfl⟩

@[simp] theorem endReset_pending : s.endReset.pending = s.pending := by obtain ⟨r, l, h⟩ := endReset_eq s; rw [h]
@[simp] theorem endReset_camp : s.endReset.camp = s.camp := by obtain ⟨r, l, h⟩ := endReset_eq s; rw [h]
@[simp] theorem endReset_fuses : s.endReset.fuses = s.fuses := by obtain ⟨r, l, h⟩ := endReset_eq s; rw [h]
@[simp] theorem endReset_dict : s.endReset.dict = s.dict := by obtain ⟨r, l, h⟩ := endReset_eq s; rw [h]
@[simp] theorem endReset_trace : s.endReset.trace = s.trace := by obtain ⟨r, l, h⟩ := endReset_eq s; rw [h]
@[simp] theorem endReset_stop : s.endReset.stop = s.stop := by obtain ⟨r, l, h⟩ := endReset_eq s; rw [h]
@[simp] theorem endReset_jtag : s.endReset.jtag = s.jtag := by obtain ⟨r, l, h⟩ := endReset_eq s; rw [h]
@[simp] theorem endReset_mem : s.endReset.mem = s.mem := by obtain ⟨r, l, h⟩ := endReset_eq s; rw [h]
@[simp] theorem endReset_sward : s.endReset.sward = s.sward := by obtain ⟨r, l, h⟩ := endReset_eq s; rw [h]
@[simp] theorem endReset_region : s.endReset.region = s.region := by obtain ⟨r, l, h⟩ := endReset_eq s; rw [h]
@[simp] theorem endReset_work : s.endReset.work = s.work := by obtain ⟨r, l, h⟩ := endReset_eq s; rw [h]
@[simp] theorem endReset_biv : s.endReset.biv = s.biv := by obtain ⟨r, l, h⟩ := endReset_eq s; rw [h]
@[simp] theorem endReset_eng : s.endReset.eng = s.eng := by obtain ⟨r, l, h⟩ := endReset_eq s; rw [h]
@[simp] theorem endReset_kettle : s.endReset.kettle = s.kettle := by obtain ⟨r, l, h⟩ := endReset_eq s; rw [h]
@[simp] theorem endReset_proc : s.endReset.proc = s.proc := by obtain ⟨r, l, h⟩ := endReset_eq s; rw [h]
@[simp] theorem endReset_dir : s.endReset.dir = s.dir := by obtain ⟨r, l, h⟩ := endReset_eq s; rw [h]
@[simp] theorem endReset_trail : s.endReset.trail = s.trail := by obtain ⟨r, l, h⟩ := endReset_eq s; rw [h]
@[simp] theorem endReset_meter : s.endReset.meter = s.meter := by obtain ⟨r, l, h⟩ := endReset_eq s; rw [h]
@[simp] theorem endReset_stile : s.endReset.stile = s.stile := by obtain ⟨r, l, h⟩ := endReset_eq s; rw [h]
@[simp] theorem endReset_port : s.endReset.port = s.port := by obtain ⟨r, l, h⟩ := endReset_eq s; rw [h]
@[simp] theorem endReset_sent : s.endReset.sent = s.sent := by obtain ⟨r, l, h⟩ := endReset_eq s; rw [h]
@[simp] theorem endReset_freeCount : s.endReset.freeCount = s.freeCount := by obtain ⟨r, l, h⟩ := endReset_eq s; rw [h]
@[simp] theorem endReset_power : s.endReset.power = { s.power with phase := .running } := by
  obtain ⟨r, l, h⟩ := endReset_eq s; rw [h]

theorem logEventAt_reg (a c d e f g k : Nat) (h : k ≠ E.logLogOverwrites) : (s.logEventAt a c d e f g).reg k = s.reg k := by
  unfold State.logEventAt
  split <;> simp [h]

/-- LAST_RESET and CONTENTS_KEPT at the end of the internal reset (R490). -/
@[simp] theorem endReset_lastReset : s.endReset.reg E.rstLastReset = s.power.cause := by
  unfold State.endReset
  simp only []
  repeat' split
  all_goals simp (decide := true) [logEventAt_reg]

@[simp] theorem endReset_contentsKept : s.endReset.reg E.rstContentsKept = s.power.kept := by
  unfold State.endReset
  simp only []
  repeat' split
  all_goals simp (decide := true) [logEventAt_reg]

/-- Registers that the end of the internal reset does not name stand. -/
theorem endReset_reg (k : Nat) (h : k ∉ [E.rstLastReset, E.rstContentsKept, E.mgmtMacAddress, E.rstWarmResets, E.logLogOverwrites]) :
    s.endReset.reg k = s.reg k := by
  simp only [List.mem_cons, List.not_mem_nil, or_false, not_or] at h
  unfold State.endReset
  simp only []
  repeat' split
  all_goals simp [logEventAt_reg, h]

/-- The registers that a reset leaves hold what they held, and every other one its default. -/
theorem keptRegs_cold (k : Nat) :
    SMap.get entryDflt (s.keptRegs false) k = if keptCold k || isLive k then s.reg k else entryDflt k :=
  smap_get_filter entryDflt _ s.regs k _ fun _ => Bool.or_comm _ _

end Sys2Proof.Laws
end

