-- ==== Sys2Proof/Tests/Slice0.lean ====
section
/-! SUPPORT. The model's own tests: an ill-formed command for every check of well-formedness, single commands against
values read off the manual, and for every statement concrete states that meet its hypotheses. -/

namespace Sys2Proof.Tests

open Sys2Proof.Machine

set_option Elab.async false

/-! ### Small states -/

/-- The next state, for a command on a small state. -/
def after (c : Instr) (s : State) : State := match exec c s with
  | .next t => t
  | _ => s

/-- A device whose core domains are on and whose management core serves the dictionary. -/
def up : State :=
  { State.reset with
    power := { State.reset.power with emberUp := true }
    regs := [(E.mgmtDictServer, 1), (E.clkRefclkPresent, 1), (E.clkPllState, 2), (E.rstCoreState, 2),
      (E.powRailStatus, 0x7FF)] }

/-- The registers of the state below: every stack and slice 0 in service, pitch 0 ACTIVE with classes 0 and 1, host port 0
UP as agent 3, and Utxon port 1 UP to a Fardan partner at board position 2. -/
def liveEntries : List (Nat × Nat) :=
  [(E.mgmtDictServer, 1), (E.clkRefclkPresent, 1), (E.clkPllState, 2), (E.rstCoreState, 2), (E.powRailStatus, 0x7FF),
   (E.stackState 0, 3), (E.stackState 1, 3), (E.stackState 2, 3), (E.stackState 3, 3), (E.stackState 4, 3),
   (E.stackState 5, 3), (E.stackState 6, 3), (E.stackState 7, 3), (E.stackState 8, 3), (E.stackState 9, 3),
   (E.stackState 10, 3), (E.stackState 11, 3), (E.stackState 12, 3), (E.stackState 13, 3), (E.stackState 14, 3),
   (E.stackState 15, 3), (E.pitchState 0, 1), (E.pitchBudgetClasses 0, 3), (E.utxonState 1, 2), (E.utxonPartnerType 1, 1),
   (E.utxonPartnerDevice 1, 2), (E.hostState 0, 2), (E.dirHostAgent 0, 3), (E.sliceState 0, 1)]

/-- A device in service, with region 0 over pages 0 to 15 and a valid decoder at host port 0. -/
def live : State :=
  { up with
    regs := liveEntries
    region := { up.region with table := [(0, { pages := 16, owner := 0, rights := 3, state := .live })] }
    port := { up.port with decoders := [(0, { valid := true })] } }

/-- The small states' registers stand in canonical form. -/
theorem live_wf : SMap.wf entryDflt live.regs = true ∧ SMap.wf entryDflt up.regs = true := by decide +kernel

/-! ### Witnesses of 01 -/

theorem witness_StepsTakeTheFrontCommandOrOneTick : State.reset.pending = [] ∧ State.reset.running = true := by decide

theorem witness_QueuedCommandsCompleteAndFusesOnlyMoveOneWay :
    ({ State.reset with pending := [.coreOn, .emberBootDone] } : State).pending = [.coreOn] ++ [.emberBootDone] ∧
      ¬ PinCommand .coreOn := by
  refine ⟨rfl, ?_⟩
  rintro (⟨b, i, h | h⟩ | ⟨bs, h⟩ | h | h | h | h | h | h | h | h | h) <;> cases h

theorem witness_NoPitchExistsAfterResetAndPitch0ComesFirst :
    ({ up with power := { up.power with phase := .off } } : State).power.phase = .off ∧
    (up.power.phase = .running ∧ up.power.resetN = true ∧ up.reg E.rstPinResetKind = 0) ∧
    (after .refclkLoss up).power.phase = .warmEntry ∧
    (Served up ∧ up.pitchState 0 ≠ 1) ∧
    (let s := up.setRegs [(E.pitchState 0, 1), (E.pitchState 4095, 1)]
     Served s ∧ s.pitchState 0 = 1 ∧ s.kettle.draining = false ∧ s.pitchState 4095 ≠ 0) ∧
    let s := up.setReg (E.pitchState 0) 1
    Served s ∧ s.pitchState 0 = 1 ∧ (∀ e ∈ s.regs, ∀ q, q < 4096 → q ≠ 0 → e.1 = E.pitchState q → e.2 = 0) ∧
      (s.region.table.any fun e => e.2.state == .handover && (e.2.owner == 0 || e.2.parent == 0)) = false := by
  unfold Served
  refine ⟨by decide, by decide, by decide, by decide, by decide, by decide, by decide, ?_, by decide⟩
  intro e he q hq h0 hk
  have h1 : ∀ e ∈ (up.setReg (E.pitchState 0) 1).regs, e.1 < 0x400101 ∨ e.1 = 0x400001 ∨ 0x500000 ≤ e.1 ∨ e.2 = 0 := by decide
  have := h1 e he
  simp only [E.pitchState, ekey] at hk
  omega

theorem witness_BoardNumberMovesOnlyWhileNoOtherPitchExists :
    (up.servesEntry 0x1000 0x22 = true ∧ ∀ e ∈ up.regs, ∀ q, q < 4096 → q ≠ 0 → e.1 = E.pitchState q → e.2 = 0) ∧
    (let s := up.setReg (E.pitchState 4095) 1
     s.servesEntry 0x1000 0x22 = true ∧ s.pitchState 4095 ≠ 0) := by
  refine ⟨⟨by decide, ?_⟩, by decide⟩
  have h1 : ∀ e ∈ up.regs, e.1 < 0x400101 ∨ 0x500000 ≤ e.1 := by decide
  intro e he q hq h0 hk
  have := h1 e he
  simp only [E.pitchState, ekey] at hk
  omega

/-! ### Witnesses of 02 and 03: power, reset and bring-up -/

theorem witness_PowerUpResetsAllButFuses : (after .powerLoss up).power.phase = .off := by decide

theorem witness_ResetPinStartsItsKindOfReset :
    (up.power.phase = .running ∧ up.power.resetN = true ∧ up.reg E.rstPinResetKind = 0) ∧
      let s := up.setReg E.rstPinResetKind 1
      s.power.phase = .running ∧ s.power.resetN = true ∧ s.reg E.rstPinResetKind = 1 := by decide

/-- Held in reset by RESET_N, PLL locked. -/
def heldLow : State := after .resetNAsserted up

theorem witness_InternalResetEndsOnItsConditions :
    (heldLow.power.phase = .held ∧ heldLow.power.resetN = false ∧ heldLow.reg E.clkPllState = 2 ∧ heldLow.power.railsOut = 0 ∧
      (heldLow.power.tripHold && heldLow.power.sensorHot) = false) ∧
    (let s := heldLow.setReg E.clkPllState 1
     s.power.phase = .held ∧ s.power.resetN = false ∧ s.reg E.clkPllState ≠ 2) ∧
    (let s := { heldLow.setReg E.clkPllState 1 with power := { heldLow.power with resetN := true } }
     s.power.phase = .held ∧ s.reg E.clkPllState ≠ 2 ∧ s.power.resetN = true ∧ s.power.railHold = false ∧
       s.power.tripHold = false ∧ s.power.railsOut = 0) ∧
    let s := { heldLow with power := { heldLow.power with resetN := true, railsOut := 2 ^ 10 } }
    s.power.phase = .held ∧ s.power.railsOut = 2 ^ 10 ∧ s.power.resetN = true ∧ s.power.railHold = false ∧
      s.power.tripHold = false ∧ s.reg E.clkPllState = 2 := by decide

theorem witness_ClockRailAndTripStopTheDevice :
    up.power.phase = .running ∧ up.reg E.clkPllState = 2 ∧ ((1 : BitVec 11).toNat &&& keepRails = 0 ∧ (1 : BitVec 11) ≠ 0) ∧
      ((1024 : BitVec 11).toNat &&& keepRails = 0 ∨ (1024 : BitVec 11).toNat &&& keepRails ≠ 0) ∧
      (∃ r : BitVec 11, r.toNat &&& keepRails ≠ 0) ∧ up.power.tripHold = false := by
  refine ⟨by decide, by decide, by decide, by decide, ⟨2047, by decide⟩, by decide⟩

theorem witness_WarmEntryKeepsParkedStacks :
    let s := after .refclkLoss up
    s.power.phase = .warmEntry ∧
      (let w := s.front.completeWrites
       w.power.resetN = true ∧ w.power.railHold = false ∧ w.power.tripHold = false ∧ w.power.railsOut = 0) ∧
      let s := after .resetNAsserted (up.setReg E.rstPinResetKind 1)
      let w := s.front.completeWrites
      s.power.phase = .warmEntry ∧ w.power.resetN = false ∧
        (let s' := { s with power := { s.power with resetN := true } }
         s'.power.phase = .warmEntry ∧ s'.front.completeWrites.power.resetN = true ∧
           (s'.front.completeWrites.halt true 0).reg E.clkPllState = 2) := by decide

theorem witness_TemperaturesAndRefreshFollowTheStacks :
    live.coreOn = true ∧ live.stackState 15 ≠ 0 ∧ live.stackState 15 = 3 ∧
      bitOf (live.reg (E.stackRetiredChannels 15)) 31 = false ∧ live.running = true := by decide

theorem witness_BootAndCoreDomainsComeUp :
    (State.reset.running = true ∧ State.reset.power.emberUp = false) ∧
    (up.servesEntry 0x2100 1 = true ∧ mayWrite .fm 0x2100 1 = true) ∧
    (let s := up.setReg E.rstCoreState 1
     s.running = true ∧ s.reg E.rstCoreState = 1) ∧
    up.servesEntry 0x1000 0x22 = true ∧
    (up.servesEntry 0x2101 1 = true ∧ mayWrite .fm 0x2101 1 = true ∧ up.coreOn = true ∧ up.stackState 15 = 0 ∧
      up.power.calQueue = [] ∧ up.reg E.calCalActive = 0xFF) := by decide

theorem witness_CalibrationAndInitPassBringStacksIntoService :
    (let s := up.setRegs [(E.calCalActive, 15), (E.stackState 15, 1)]
     s.coreOn = true ∧ s.reg E.procProcState ≠ 4 ∧ s.reg E.calCalActive = 15 ∧ s.stackState 15 = 1) ∧
    let s := up.setReg (E.stackState 15) 2
    s.coreOn = true ∧ s.stackState 15 = 2 := by decide

/-- The device after a first write of a value to RESET_REQUEST. -/
def armedFor (v : Nat) : State :=
  { up with dict := { up.dict with armed := [{ role := .bm, key := E.rstResetRequest, value := v, time := 0 }] } }

theorem witness_ResetRequestNeedsTwoWrites :
    (up.servesEntry 0x2100 4 = true ∧ mayWrite .bm 0x2100 4 = true ∧ up.owes = false ∧ up.dict.armed = []) ∧
      ((armedFor 1).servesEntry 0x2100 4 = true ∧ (armedFor 1).owes = false ∧
        ((armedFor 1).dict.armed.any fun a => decide ((armedFor 1).cclk ≤ a.time + msCclk 1000) &&
          (a.role == .bm && a.key == E.rstResetRequest && a.value == 1)) = true) ∧
      ((armedFor 2).dict.armed.any fun a => decide ((armedFor 2).cclk ≤ a.time + msCclk 1000) &&
          (a.role == .bm && a.key == E.rstResetRequest && a.value == 2)) = true := by decide

theorem witness_DictionaryWritesHoldTheirRights :
    (up.servesEntry 0x2101 1 = true ∧ mayWrite (.po 1) 0x2101 1 = false) ∧
      (mayWrite .fm 0x2101 1 = true ∧ 9 ≠ typeOf 0x2101 1) ∧
      ∃ e : Entry, ekey e.index e.sub = E.powThrottleC ∧ up.servesEntry e.index e.sub = true ∧ e.sub < 256 ∧
        mayWrite .fm e.index e.sub = true ∧ ((entryRow e.index e.sub).any fun r => inRange 90 r.vmin r.vmax) = true := by
  refine ⟨by decide, by decide, ⟨E.powThrottleC / 256, E.powThrottleC % 256⟩, by decide⟩

theorem witness_DomainResetTakesFencedUnitsOff :
    (let s := up.setRegs [(E.stackState 15, 4), (E.tinderState 15, 3)]
     s.coreOn = true ∧ s.servesEntry 0x2100 8 = true ∧ (15 < kindNumber .stack ∧ s.reg (kindState .stack 15) = kindFenced .stack) ∧
       (15 < kindNumber .tinder ∧ kindFailed .tinder = some (s.reg (kindState .tinder 15)))) ∧
      ¬ (65535 < kindNumber .bivouac) ∧ up.coreOn = true ∧ up.servesEntry 0x2100 8 = true := by decide

/-! ### Witnesses of 04 and 05: coherence and the directory -/

/-- A request of host 0 at a local offset, and what its decoder makes of it. -/
def hostReq (addr : Nat) : Req := { port := .host 0, addr }

theorem witness_LineRequestsEnterTheirLane :
    ∀ p ∈ lineRequests, (live.met (hostReq 64)).admits p.2 (hostReq 64) (hostReq 64) ∧
      (live.met (hostReq 64)).lineRequest (hostReq 64) := by
  intro p hp
  simp only [lineRequests, List.mem_cons, List.not_mem_nil, or_false] at hp
  unfold State.admits State.lineRequest State.green
  rcases hp with h | h | h | h | h | h | h | h | h | h | h | h | h | h | h | h | h | h <;> subst h <;> decide +kernel

/-- Host 0, as agent 3, is fenced. -/
def fencedHost : State := live.setReg E.fenceAgentFence 8

theorem witness_UnadmittedRequestsAreSilentViolations :
    (let m := fencedHost.met (hostReq 64)
     m.coreOn = true ∧ m.portUp (.host 0) = true ∧ m.hostMap (hostReq 64) = some (hostReq 64) ∧
       m.fencedSource (m.sourceOf (.host 0)) = true) ∧
    ((live.met (hostReq (16 * 65536))).admits 1 (hostReq (16 * 65536)) (hostReq (16 * 65536)) ∧
      targetOf (bits (16 * 65536) 41 0) ∈ [Target.stacked, .view, .sward] ∧
      (live.met (hostReq (16 * 65536))).agentViolation (hostReq (16 * 65536)) = some E.violNoRegion) := by
  unfold State.admits State.green
  decide +kernel

/-- Host 0 asks in the window of lock 1 with a holder's tag of 7. -/
def lockReq : Req := { port := .host 0, addr := 0x3FC00000040, holderTag := 7 }

/-- Pitch 0 may operate locks 0 to 3; lock 1 is held by that request's sender. -/
def locked : State :=
  let s := live.setReg (E.pitchStileCount 0) 4
  { s with stile := { s.stile with locks := [(1, { held := true, source := 3, tag := 7, leaseEnd := 1000 })] } }

theorem witness_StileRequestsOperateTheirLock :
    (let s := live.setReg (E.pitchStileCount 0) 4
     (s.met lockReq).admits 0x1C lockReq lockReq ∧ targetOf (bits lockReq.addr 41 0) = .stile ∧
       (s.met lockReq).mayOperate 0 (bits lockReq.addr 21 6) = true ∧ (s.lock 1).held = false ∧ (s.lock 1).leaseEnd = 0) ∧
    (∀ op ∈ [0x1D, 0x1E, 0x1F], (locked.met lockReq).admits op lockReq lockReq) ∧
      (locked.met lockReq).mayOperate 0 (bits lockReq.addr 21 6) = true ∧
      (locked.lock (bits lockReq.addr 21 6)).heldBy 0 ((locked.met lockReq).sourceOf (.host 0)) 7 = true ∧
      locked.now < (locked.lock (bits lockReq.addr 21 6)).leaseEnd := by
  refine ⟨?_, ?_, ?_⟩
  · unfold State.admits State.green; decide +kernel
  · intro op h
    simp only [List.mem_cons, List.not_mem_nil, or_false] at h
    unfold State.admits State.green
    rcases h with h | h | h <;> subst h <;> decide +kernel
  · decide +kernel

/-- Host 0 owns line 1. -/
def owned : State := { live with dir := { live.dir with entries :=
  [(1, { sharers := 0, state := .x, owner := 3, resv := none, resvOn := false, used := 0 })] } }

/-- A request as a work item. -/
def workOf (op src line : Nat) : Work :=
  { op, req := hostReq (64 * line), src, line, prio := 1, laneQ := 1, colour := .green, reserve := false, caching := true,
    age := 5 }

theorem witness_WritebacksOfTheOwnerReachMemory :
    (let r := hostReq 64
     let m := owned.met r
     owned.front.memWrByNonOwner r = false ∧ m.coreOn = true ∧ m.portUp r.port = true ∧ m.hostMap r = some r ∧
       m.fencedSource (m.newWork 7 r).src = false ∧ m.routeOf r.addr (m.fromFardan r.port) = .own ∧
       targetOf (bits r.addr 41 0) = .stacked ∧ m.agentViolation r = none ∧
       (owned.dir.trans.find? fun t => t.line == 1 && t.waiting.contains (m.newWork 7 r).src) = none ∧
       (m.newWork 7 r).caching = true ∧ r.keep < 3 ∧ m.writeRefused 1 = false ∧
       (owned.entry 1).any (fun e => e.state == .x && e.owner == (m.newWork 7 r).src && e.resv == none) = true) ∧
    (live.coreOn = true ∧ live.portUp (.host 0) = true ∧ reservedOpcode 0x3F = true ∧ live.responsesOwed (.host 0) 1 = false) ∧
    let s := { live with dir := { live.dir with lookups := [workOf 1 3 1] } }
    s.coreOn = true ∧ s.portUp (.host 0) = true ∧ s.responsesOwed (.host 0) 1 = true := by decide +kernel

/-- A state with given queued, looked-up and held requests, and one with given transitions. -/
def withWork (q l h : List Work) : State := { live with dir := { live.dir with queued := q, lookups := l, hold := h } }

theorem witness_LanesOrderAndLookupsEnd :
    (let s := withWork [workOf 3 3 2] [] []
     s.servingSlice (homeSlice 2) ≠ none ∧ s.meter.waiting = [] ∧
       (argMin (fun w => (w.laneQ * 2 + if s.reservedSlot w then 0 else 1) * 2 ^ 64 + w.age)
         ((s.laneQueue (homeSlice 2) (homeLane 2)).filter s.orderable)).map Work.line = some 2) ∧
    (let l := 32 + 1
     let s := withWork [] [workOf 3 3 l] [workOf 3 3 l]
     (s.dir.lookups.find? fun w => homeSlice w.line == homeSlice l && homeLane w.line == homeLane l) = some (workOf 3 3 l) ∧
       targetOf (l * 64) = .stacked ∧ s.transOf l = none ∧ s.entry l = none ∧ s.readRefused l = false ∧
       (s.ownSlice (homeSlice l)).isSome = true ∧
       argMin (fun w => (if w.prio = 0 then 0 else 1) * 2 ^ 64 + w.age) 
         ((s.heldOf (homeSlice l)).filter s.mayRelease) = some (workOf 3 3 l)) := by decide +kernel

theorem witness_UnheldLinesAreGrantedByTheTable :
    ∀ op ∈ [1, 2, 4], let w := workOf op 3 33
      let s := withWork [] [w] []
      (s.dir.lookups.find? fun w => homeSlice w.line == homeSlice 33 && homeLane w.line == homeLane 33) = some w ∧
        w.caching = true ∧ w.src < 64 ∧ targetOf (w.line * 64) = .stacked ∧ s.transOf w.line = none ∧ s.entry w.line = none ∧
        (s.ownSlice (homeSlice w.line)).isSome = true ∧ s.sliceRecalling w.line = false ∧
        (s.setEntries w.line).length < 16 ∧ s.readRefused w.line = false := by decide +kernel

/-- An entry in X. -/
def xEntry (owner : Nat) : DirEntry := { sharers := 0, state := .x, owner, resv := none, resvOn := false, used := 0 }

theorem witness_HeldLinesAreSnooped :
    ∀ op ∈ [1, 2, 3, 4, 5, 6], let w := workOf op 3 33
      let s := { withWork [] [w] [] with dir := { (withWork [] [w] []).dir with entries := [(33, xEntry 4)] } }
      (s.dir.lookups.find? fun w => homeSlice w.line == homeSlice 33 && homeLane w.line == homeLane 33) = some w ∧
        targetOf (w.line * 64) = .stacked ∧ s.transOf w.line = none ∧ s.entry w.line = some (xEntry 4) ∧
        (s.ownSlice (homeSlice w.line)).isSome = true ∧ ¬ (w.caching = true ∧ (xEntry 4).owner = w.src) ∧
        (s.freeTag (homeSlice w.line)).isSome = true := by decide +kernel

/-- A transition of line 33 with tag 0 that waits for some agents. -/
def transOn (waiting : List Nat) (repeated : Bool) : Trans :=
  { line := 33, tag := 0, snoop := 0x21, work := some (workOf 2 5 33), waiting, data := none, keptS := false, keptX := false,
    dirtyKept := false, poisoned := false, repeated, fromX := true }

/-- The device with one transition. -/
def snooping (waiting : List Nat) (repeated : Bool) : State :=
  { live with dir := { live.dir with trans := [transOn waiting repeated], entries := [(33, xEntry 3)] } }

theorem witness_SnoopAnswersReachTheirTransition :
    ∀ k ∈ [SnpKind.notPresent, .rspI, .rspS, .rspKeep, .rspIData, .rspSData, .rspKeepData],
      (let m := (snooping [3, 4] false).front.countFlit (.host 0)
       m.portUp (.host 0) = true ∧ m.coreOn = true ∧
         ((snooping [3, 4] false).dir.trans.find? fun t => t.tag == 0 && t.waiting.contains (m.portAgent (.host 0))) =
           some (transOn [3, 4] false) ∧ (takeAnswer (transOn [3, 4] false) (m.portAgent (.host 0)) k 0).waiting ≠ [] ∧
         (takeAnswer (transOn [3] false) (m.portAgent (.host 0)) k 0).waiting = []) ∧
      ((snooping [3] false).dir.trans.find? fun t => t.tag == 0 &&
          t.waiting.contains (((snooping [3] false).front.countFlit (.host 0)).portAgent (.host 0))) =
        some (transOn [3] false) ∧
      (live.dir.trans.find? fun t => t.tag == 0) = none := by decide +kernel

theorem witness_SnoopDeadlinesRepeatThenEndATransition :
    ((snooping [3] false).dir.trans.find? fun t => t.tag == 0 && !t.repeated) = some (transOn [3] false) ∧
      (transOn [3] false).waiting ≠ [] ∧
      ((snooping [3] true).dir.trans.find? fun t => t.tag == 0 && t.repeated) = some (transOn [3] true) := by decide +kernel

/-- A starved source of line 33, and a red request of pitch 0 whose tokens have come. -/
def starved : State :=
  { live with
    dir := { live.dir with trackers := [{ slice := 1, src := 3, line := 33, count := 16 }] }
    meter := { live.meter with meters := [(1,
      { cir := 0, pir := 1, cbs := 128, pbs := 65536, tp := 131072, queue := [{ work := workOf 1 3 33, red := true }] })] } }

theorem witness_ReservationsStartAndEnd :
    (starved.dir.trackers.find? fun t => t.slice == 1 && t.src == 3 && t.count == 16) =
        some { slice := 1, src := 3, line := 33, count := 16 } ∧
      (starved.entry 33 = none ∧ (starved.setEntries 33).length < 16) ∧
      (let s := { starved with dir := { starved.dir with entries := [(33, xEntry 4)] } }
       s.entry 33 = some (xEntry 4) ∧ (xEntry 4).resv = none ∧ (xEntry 4).state ≠ .i) ∧
      (let e : DirEntry := { xEntry 4 with resv := some 3, resvOn := true }
       let s := { starved with dir := { starved.dir with entries := [(33, e)] } }
       s.entry 33 = some e ∧ e.resvOn = true) ∧
      (let m := starved.meterAt (meterKey 0 false)
       m.queue = [{ work := workOf 1 3 33, red := true }] ∧ meterBytes 1 * 1024 ≤ m.tp ∧ starved.meter.waiting = [] ∧ starved.nakedOf (workOf 1 3 33) = [] ∧
         starved.routeOf (33 * 64) (starved.fromFardan (.host 0)) = .own) ∧
      starved.lineRequest (workOf 1 3 33).req := by
  unfold State.lineRequest
  decide +kernel

/-! ### Witnesses of 06 and 07: memory, protection, service -/

theorem witness_MemoryReadsBackWhatWasWritten :
    live.home 0x3FFFFFFFF = .plain 15 0x3FFFFFFF ∧ live.place 15 0x3FFFFFFF = .here (16 * stackSlots - 1) ∧
      live.reg E.eccTestArm = 0 := by decide +kernel

theorem witness_MemoryCommandsKeepTheCanonicalForm : Memory.wf live = true ∧ Memory.wf State.reset = true := by
  decide +kernel

/-- Slot 0 of stack 0 holds a codeword with one bit of its first data byte in error. -/
def worn : State := { live with mem := { live.mem with kinds := [(0, .codeword)], errs := [(0, 1)] } }

/-- Channel 0 of stack 0 is retired, and line 4096 (of stack 0 and channel 0 of a later page) is withdrawn as a target. -/
def retiredOne : State :=
  let s := live.setRegs [(E.stackRetiredChannels 0, 1), (E.eccRebuildSlots, 8)]
  { s with mem := { s.mem with withdrawn := [2] } }

theorem witness_RepairCommandsActOnTheirSlots :
    (worn.coreOn = true ∧ worn.stackState 0 = 3 ∧ worn.unitRetired 0 0 = false ∧ worn.slotStale 0 0 = false ∧
      ∃ d, worn.readSlot (slotOf 0 0) 0 = .corrected d) ∧
    (live.stackState 15 ≠ 5 ∧ bitOf (live.reg (E.stackRetiredChannels 15)) 31 = false ∧ live.coreOn = true) ∧
    (retiredOne.coreOn = true ∧ retiredOne.unitRetired 0 0 = true ∧ 0 < retiredOne.protBase / 16 ∧
      SMap.get (fun _ => 0) retiredOne.mem.reloc (slotOf 0 0) = 0 ∧
      ∃ slot, retiredOne.nextGoodSlot false = some slot ∧
        retiredOne.systemFits 2 (retiredOne.reg E.eccRebuildSlots) [(slot / stackSlots, 1)] = true) := by
  refine ⟨⟨by decide +kernel, by decide +kernel, by decide +kernel, by decide +kernel, 0, by decide +kernel⟩,
    by decide +kernel, by decide +kernel, by decide +kernel, by decide +kernel, by decide +kernel, ?_⟩
  exact ⟨(retiredOne.nextGoodSlot false).get (by decide +kernel), by decide +kernel, by decide +kernel⟩

theorem witness_ProtectionEntriesBindTheirWrites :
    (Served live ∧ live.reg E.eccGroundsheetBase = 0x10000000000) ∧
    ([(⟨0x6810, 1⟩ : Entry), ⟨0x4000, 0x35⟩, ⟨0x3800, 7⟩].all fun e => isBudget e && e.sub != 0 && decide (e.sub < 256) &&
      ((entryRow e.index e.sub).any fun r => r.ty != 9 && r.ty != 10 && inRange r.vmin r.vmin r.vmax) &&
      mayWrite (writerOf (ekey e.index e.sub)) e.index e.sub) = true ∧
    (live.setReg (E.pitchServing 0) 1).reg (E.pitchServing 0) = 1 ∧
    (let block : List Byte := List.replicate 16 0
     block.length = 16 ∧ (meterOf block []).legal = true) := by
  unfold Served
  decide +kernel

/-- A whole-line write of line 1 waits at its controller. -/
def writing : State :=
  { live with
    trail := { live.trail with
      queue := [{ id := 0, line := 1, kind := .write fullMask 0, req := hostReq 64, prio := 1, reserve := false, free := true,
                  directory := false, arrived := 0, aged := false, reply := none }]
      byStack := [(1, { slots := 100 })] } }

theorem witness_PeriodsCloseAndControllersIssue :
    (live.stackState 0 = 3 ∧
      (let x := live.trailOf 0
       x.refresh + x.carried + x.reserve + x.cls + x.overrun + x.system + x.borrowed ≤ x.slots)) ∧
    (writing.trailOf 1).left ≠ 0 ∧ ((writing.nextIssue 1 (bankOf 0)).map fun x => x.1.line) = some 1 ∧
      writing.home 1 = .plain 1 0 ∧ writing.place 1 0 = .here (slotOf 1 0) ∧ writing.reg E.eccTestArm = 0 := by decide +kernel

theorem witness_FenceBeginsTheProcedureOfItsUnit :
    (live.coreOn = true ∧ live.servesEntry 0x9000 1 = true ∧ live.procBusy = false) ∧
    (inRange ((live.setReg (E.bivState 527) 3).unitState .bivouac 527) 1 3 = true ∧
      live.proc.moves.any (fun m => m.old == 527 || m.spare == 527) = false) ∧
    (live.stackState 15 = 3 ∧
      (List.range 16).any (fun x => x != 15 && (live.stackState x == 4 || live.stackState x == 5)) = false ∧
      live.relocPending = 0 ∧ live.mem.exposed = []) ∧
    (live.reg (E.utxonState 1) ≠ 0 ∧ live.reg (E.utxonState 1) ≠ 6 ∧ live.reg (E.hostState 0) ≠ 0 ∧ live.reg (E.hostState 0) ≠ 4) ∧
    (let s := live.setRegs [(E.coreState 7, 2), (E.coreState 1, 2), (E.coreState 0, 3)]
     s.procBusy = false ∧ s.core 7 = 2 ∧ s.core 1 = 2 ∧ s.core (1 - 1) = 3) ∧
    (live.reg (E.sliceState 0) = 1 ∧ live.reg E.dirSpareState = 0) ∧
    (let s := live.setRegs [(E.tinderState 15, 1), (E.tinderState 0, 1)]
     15 < kindNumber .tinder ∧ s.reg (kindState .tinder 15) = 1 ∧
       (List.range (kindNumber .tinder)).any (fun x => x != 15 && s.engineServes .tinder x) = true) ∧
    (live.setReg E.procProcState 2).procBusy = true := by decide +kernel

theorem witness_UnfenceBeginsTheReturnOfItsUnit :
    (live.coreOn = true ∧ live.servesEntry 0x9000 2 = true ∧ live.procBusy = false) ∧
    (live.reg (E.bivState 527) = 0 ∧ (live.setReg (E.stackState 15) 4).stackState 15 = 4 ∧ live.reg (E.sliceState 32) = 0 ∧
      live.reg (kindState .heather 63) = 0) ∧
    (let s := { live with kettle := { live.kettle with images := [(1, { active := [0] }), (2, { active := [0] })] } }
     s.core 7 = 0 ∧ s.core 0 = 0 ∧ (s.halves 1).active ≠ [] ∧ (s.halves 2).active ≠ []) ∧
    (let s := live.setRegs [(E.utxonState 23, 6), (E.hostState 3, 4)]
     s.procBusy = false ∧ s.reg (E.utxonState 23) = 6 ∧ s.reg (E.hostState 3) = 4) ∧
    (live.setReg E.procProcState 4).procBusy = true := by decide +kernel

/-- A procedure in a state on a unit. -/
def proceeding (st : Nat) (k : UnitKind) (u : Nat) : State := live.setRegs [(E.procProcState, st), (E.procProcUnit, unitWord k u)]

theorem witness_DrainsEndInTheFencedState :
    (let s := (proceeding 2 .bivouac 527).setReg (E.bivState 527) 3
     s.coreOn = true ∧ s.dict.held = [] ∧ s.kettle.draining = false ∧ s.reg E.procProcState = 2 ∧
       s.reg E.procProcUnit = unitWord .bivouac 527 ∧ s.reg (E.bivState 527) = 3) ∧
    (let s := proceeding 2 .stack 15
     s.reg E.procProcUnit = unitWord .stack 15 ∧ s.trail.queue = [] ∧ s.trail.gather = [] ∧ s.stop.halted = false) ∧
    (let s := proceeding 2 .host 3
     s.reg E.procProcUnit = unitWord .host 3 ∧ s.reg (E.hostState 3) ≠ 2) ∧
    (let s := proceeding 2 .tinder 15
     s.reg E.procProcUnit = unitWord .tinder 15 ∧ s.engineRunning .tinder 15 = none ∧ s.unitWaiting (.engine .tinder 15) = []) ∧
    (proceeding 2 .slice 32).reg E.procProcUnit = unitWord .slice 32 ∧
    (∀ k ∈ [UnitKind.bracken, .clover, .tinder, .heather, .bivouac, .slice],
      (proceeding 4 k 1).coreOn = true ∧ (proceeding 4 k 1).reg E.procProcState = 4 ∧
        (proceeding 4 k 1).reg E.procProcUnit = unitWord k 1) := by decide +kernel

/-- Bivouac 3 serves, 256 is a spare, 1 and 2 are in a move, no cluster has logical number 0; slice 1 recalls and slice 32 is the spare. -/
def serving : State :=
  let s := live.setRegs [(E.bivLogical 0, 0xFFFF), (E.bivState 3, 1), (E.bivState 256, 3), (E.tinderState 15, 1),
    (E.sliceState 1, 2), (E.sliceState 32, 4)]
  { s with proc := { s.proc with moves := [{ old := 1, logical := 1, spare := 2, failed := false }] } }

theorem witness_FailedAndReplacedUnitsMove :
    (serving.coreOn = true ∧ serving.log.queue.length < 64) ∧ serving.reg (E.sliceState 0) = 1 ∧
    serving.reg (E.sliceState 32) = 4 ∧
    (serving.reg (E.tinderState 15) = 1 ∧ serving.engineRunning .tinder 15 = none ∧
      serving.unitWaiting (.engine .tinder 15) = []) ∧
    (serving.proc.moves.any (fun m => m.old == 256 || m.spare == 256) = false ∧ serving.reg (E.bivState 256) = 3) ∧
    (serving.reg (E.bivState 3) = 1 ∧ (serving.bivAt (serving.reg (E.bivLogical 3))).kernel = none ∧
      serving.spareFor 3 = some 256) ∧
    (serving.proc.moves.find? fun m => m.old == 1) = some { old := 1, logical := 1, spare := 2, failed := false } ∧
    (List.range 512).find? serving.bivUnserved = some 0 ∧
    (serving.reg (E.sliceState 1) = 2 ∧ serving.sliceEntries (serving.reg (E.sliceLogical 1)) = [] ∧
      serving.spareSlice = some 32) := by decide +kernel

theorem witness_RetrainingPassesRunInSteps :
    (let s := live.setReg (E.stackRefreshInterval 15) 3900
     s.coreOn = true ∧ s.servesEntry 0x9000 7 = true ∧ s.recalReady 15 = true ∧ bitOf (s.reg E.procRecalActive) 15 = false ∧
       s.reg E.procRecalActive = 0) ∧
    (live.setReg E.procRecalHours 1).reg E.procRecalHours ≠ 0 ∧
    (let s := live.setRegs [(E.stackRefreshInterval 15, 3900), (E.procRecalActive, 2 ^ 15)]
     bitOf (s.reg E.procRecalActive) 15 = true ∧ s.recalReady 15 = true) := by decide +kernel

/-! ### Witnesses of 08 to 12: regions, pitches, time, links and hosts -/

/-- A running descriptor of pitch 0, ring 0, with its words. -/
def descOf (words : List Nat) (unit : UnitId) : Desc :=
  { id := ⟨0, 0, 0⟩, words := words.map (BitVec.ofNat 64), prio := 1, phase := .running, needTable := false, todo := [],
    operands := [], record := [], fault := none, rewalk := false, eligible := none, unit := some unit, order := 5, parts := [],
    start := some 0, outcome := none, ended := 0 }

/-- A device with one descriptor and one region at index 0. -/
def withDesc (d : Desc) (r : Region) : State :=
  { live with
    work := { live.work with descs := [d] }, region := { live.region with table := [(0, r)] } }

/-- The LIVE region of the small states, and the same with a state. -/
def region0 : Region := { pages := 16, owner := 0, rights := 3, state := .live }

/-- REGION_CREATE of one page with rights READ and WRITE, with word 5's other bits. -/
def createDesc (pages w5 : Nat) : Desc := descOf [0x08, 0, 0, 0, pages * 2 ^ 26, w5 + 3, 0, 0, 0, 0] .region

theorem witness_RegionsAreCreatedSharedAndHandedOver :
    (let d := createDesc 1 0
     let s := withDesc d region0
     s.runs d.id 0x08 d ∧ d.createArgs.bad = false ∧ s.freeDescriptor = some 1 ∧
       s.quotaExcess d.createArgs.target 1 65536 0 = none ∧ d.createArgs.overflow = false ∧
       s.fitCreate d.createArgs = .fits 16 1 0) ∧
    (let d := createDesc (2 ^ 24 + 1) 0x40
     let s := (withDesc d region0).setRegs [(E.utxonPartnerDevice 1, 0), (E.idBoardPos, 1)]
     s.runs d.id 0x08 d ∧ d.createArgs.bad = false ∧
       ¬ (d.createArgs.overflow = true ∧ (d.createArgs.peerPos = s.reg E.idBoardPos ∨ s.peerPort d.createArgs.peerPos = none)) ∧
       s.fitCreate d.createArgs = .partly 16 (2 ^ 24 - 16)) ∧
    (let d := createDesc (2 ^ 24) 0
     let s := withDesc d region0
     s.runs d.id 0x08 d ∧ d.createArgs.bad = false ∧ s.fitCreate d.createArgs = .short 16) ∧
    (let d := descOf [0x09, 0, 0, 0, 0, 0, 0, 0, 2 ^ 28 + 1 * 2 ^ 16, 16 * 2 ^ 26] .region
     let s := withDesc d region0
     s.runs d.id 0x09 d ∧ d.fld 8 29 28 = 1 ∧ mayName d.id.pitch region0 = true ∧ region0.busy = false ∧
       region0.isAlias = false ∧ 0 < d.fld 9 51 26 ∧ d.fld 9 25 0 + d.fld 9 51 26 ≤ region0.pages ∧
       s.freeDescriptor = some 1 ∧ s.quotaExcess d.pitchArg 1 0 0 = none) ∧
    (let d := descOf [0x0A, 0, 0, 0, 0, 0, 0, 0, 1 * 2 ^ 16, 0] .region
     (withDesc d region0).runs d.id 0x0A d ∧ mayName d.id.pitch region0 = true) ∧
    (let d := descOf [0x0B, 0, 0, 0, 0, 0, 0, 0, 0, 0] .region
     let r : Region := { region0 with state := .handover }
     let s := withDesc d r
     (s.region.accepting.any fun a => a.index == 0) = false ∧ s.runs d.id 0x0B d ∧ r.parent = d.id.pitch ∧
       (let s := { s with region := { s.region with accepting := [{ index := 0, target := 0 }] } }
        s.runs d.id 0x0B d ∧ (s.region.accepting.any fun a => a.index == 0 && a.target == d.id.pitch) = true ∧
          s.handoverQuiet d r = true ∧
          (let u := s.front.wbFlushRegion {} r
           u.region = s.region ∧ u.work = s.work))) ∧
    (let d := descOf [0x0C, 0, 0, 0, 0, 0, 0, 0, 0, 0] .region
     (withDesc d region0).runs d.id 0x0C d ∧ d.fld 5 3 2 = 0 ∧ region0.factored = false ∧ region0.placement ≠ 1) := by
  unfold State.runs
  refine ⟨?_, ?_, ?_, ?_, ?_, ?_, ?_⟩ <;> decide +kernel

theorem witness_RegionsAreClearedBeforeTheyAreFree :
    (let d := descOf [0x0D, 0, 0, 0, 0, 0, 0, 0, 0, 0] .region
     (withDesc d region0).runs d.id 0x0D d ∧ d.regionIndex = 0 ∧ mayName d.id.pitch region0 = true ∧ region0.busy = false ∧
       region0.isAlias = false ∧ region0.factored = false ∧ region0.placement ≠ 1 ∧ region0.peerPages = 0 ∧
       (withDesc d { region0 with isAlias := true }).runs d.id 0x0D d ∧
       mayName d.id.pitch { region0 with isAlias := true } = true) ∧
    (let r : Region := { region0 with state := .clearing }
     let c : Clearing := { index := 0, next := 16383, peerOwed := false }
     let s := { live with region := { live.region with table := [(0, r)], clearing := [c] } }
     (s.region.clearing.find? fun c => c.index == 0) = some c ∧ 16383 < (r.basePage + r.pages) * 1024 ∧
       s.home 16383 = .plain 15 1023 ∧ s.place 15 1023 = .here (slotOf 15 1023) ∧
       s.front.settleLine 16383 = s.front ∧ s.systemFits 0 4096 (s.clearCost 16383) = true) ∧
    (live.portUp (.utxon 1) = true ∧ live.partnerType 1 = 1 ∧ live.peerPort 2 = some 1 ∧ (live.regionAt 0).lodged = false ∧
      live.freeDescriptor = some 1 ∧ fitRun 1 (live.freeRuns .plain) = some 16) ∧
    (let r : Region := { region0 with state := .clearing, lodged := true, peerPos := 2 }
     let c : Clearing := { index := 0, next := 16384, peerOwed := false }
     let s := { live with region := { live.region with table := [(0, r)], clearing := [c] } }
     (s.region.clearing.find? fun c => c.index == 0) = some c ∧ (r.basePage + r.pages) * 1024 ≤ c.next ∧
       s.peerPort r.peerPos = some 1) := by
  unfold State.runs
  refine ⟨?_, ?_, ?_, ?_⟩ <;> decide +kernel

/-- Pitch 1 in a state, with pitch 0 ACTIVE. -/
def pitch1 (st : Nat) : State := live.setReg (E.pitchState 1) st

/-- Where no cluster serves or starts, no logical number has one. -/
theorem no_clusters {s : State} (h : ∀ n < 528, s.reg (E.bivState n) ≠ 1 ∧ s.reg (E.bivState n) ≠ 2) (b : Nat) :
    s.physOf b = none := by
  simp only [State.physOf, List.find?_eq_none, List.mem_range]
  intro n hn
  simp [h n hn]

theorem witness_PitchesMoveBetweenTheirStates :
    Served (pitch1 1) ∧
    ((pitch1 1).region.table.any fun e => e.2.state == .handover && (e.2.owner == 1 || e.2.parent == 1)) = false ∧
    (inRange ((pitch1 1).pitchState 1) 1 3 = true ∧ (pitch1 1).kettle.draining = false ∧ (pitch1 1).migrating 1 = false) ∧
    (pitch1 1).nothingInHand 1 ∧
    (let d : Desc := { descOf [0x01, 0, 0, 0, 0, 0, 0, 0] (.bivouac 0) with id := ⟨1, 0, 0⟩ }
     let s := { pitch1 3 with work := { (pitch1 3).work with descs := [d] } }
     s.pitchState 1 = 3 ∧ (s.work.descs.filter fun d => d.id.pitch == 1 && d.inUnit) = [d] ∧ s.desc d.id = some d ∧
       s.kettle.draining = false) ∧
    ((pitch1 3).pitchState 1 = 3 ∧ ((pitch1 3).work.descs.any fun d => d.id.pitch == 1 && d.inUnit) = false ∧
      ∀ b n, b < 512 → ((pitch1 3).front.wbFlush {} 1 fun l => l.pitch == 1).1.physOf b = some n →
        ((pitch1 3).front.wbFlush {} 1 fun l => l.pitch == 1).1.reg (E.bivPitch n) ≠ 1) ∧
    ((pitch1 4).pitchState 1 = 4 ∧ (pitch1 4).migrating 1 = false ∧ (pitch1 4).descsEnded 1 = true) := by
  refine ⟨by unfold Served; decide +kernel, by decide +kernel, by decide +kernel, ?_, by decide +kernel,
    ⟨by decide +kernel, by decide +kernel, ?_⟩, by decide +kernel⟩
  · have h : ∀ b < 512, (pitch1 1).physOf b = none := fun b _ => no_clusters (by decide +kernel) b
    refine ⟨by decide +kernel, by decide +kernel, by decide +kernel, ?_, by decide +kernel, ?_⟩
    · intro e he; exact absurd he List.not_mem_nil
    · intro b n hb hn; rw [h b hb] at hn; cases hn
  · have h : ∀ b < 512, ((pitch1 3).front.wbFlush {} 1 fun l => l.pitch == 1).1.physOf b = none :=
      fun b _ => no_clusters (by decide +kernel) b
    intro b n hb hn; rw [h b hb] at hn; cases hn

/-- A count of the Campfire and a LOCK_STATE. -/
def counting (count lock : Nat) : State :=
  let s := up.setRegs [(E.campLockState, lock)]
  { s with camp := { s.camp with count } }

theorem witness_TheTimeBaseFollowsItsMarkersAndWrites :
    (up.running = true ∧ up.lockState = 0) ∧
    (let s := counting 65536 2
     let e : Int := s.now - s.reg E.campSyncDelay - nearestMarker (s.now - s.reg E.campSyncDelay)
     s.lockState = 2 ∧ s.now = 65536 ∧ -(s.reg E.campLockTolerance : Int) ≤ e ∧ e ≤ s.reg E.campLockTolerance) ∧
    (let s := counting 98304 2
     let e : Int := s.now - s.reg E.campSyncDelay - nearestMarker (s.now - s.reg E.campSyncDelay)
     s.lockState = 2 ∧ ¬ (-(s.reg E.campLockTolerance : Int) ≤ e ∧ e ≤ s.reg E.campLockTolerance)) ∧
    (let s := counting 65536 3
     s.lockState = 3 ∧ s.camp.switching = false ∧ s.now % 65536 = 0 ∧ s.camp.driving = false) ∧
    (let s := { counting 65536 3 with camp := { (counting 65536 3).camp with switching := true } }
     let s := s.setReg E.campMasterPos 1
     s.camp.switching = true ∧ s.reg E.campSwitchAt ≤ s.now ∧ s.reg E.campMasterPos ≠ s.reg E.idBoardPos ∧ s.lockState = 3) ∧
    (let s := { counting 65536 2 with camp := { (counting 65536 2).camp with switching := true } }
     let s := s.setReg E.campMasterPos 0
     s.reg E.campSwitchAt ≤ s.now ∧ s.reg E.campMasterPos = s.reg E.idBoardPos ∧ s.lockState = 2) ∧
    (Served up ∧ mayWrite .fm 0x2010 3 = true ∧ up.reg E.campTimeEnable = 0 ∧
      (let s := up.setReg E.campMasterPos 1
       s.reg E.campTimeEnable = 0 ∧ s.reg E.idBoardPos ≠ s.reg E.campMasterPos) ∧
      (let s := up.setReg E.campMasterPos 0
       s.reg E.idBoardPos = s.reg E.campMasterPos ∧ s.timePorts = [])) ∧
    live.portUp (.utxon 1) = true ∧
    (let s := live.setReg E.campLockState 1
     let s := { s with camp := { s.camp with exchanges := [(1, 77)] } }
     s.portUp (.utxon 1) = true ∧ (1, 77) ∈ s.camp.exchanges ∧ s.camp.starting = false ∧ s.lockState = 1 ∧
       s.camp.offset = none) := by
  unfold Served
  refine ⟨?_, ?_, ?_, ?_, ?_, ?_, ?_, ?_, ?_⟩ <;> decide +kernel

/-- The Fardan partner's port 1, with one open forwarded transaction of host 0 under tag 7. -/
def forwarding : State :=
  { live with port := { live.port with fwds := [{ port := 1, tag := 7, work := workOf 3 3 33, live := true }] } }

theorem witness_ResponsesEndForwardedTransactions :
    forwarding.coreOn = true ∧ forwarding.portUp (.utxon 1) = true ∧
    ((forwarding.port.fwds.find? fun f => Port.utxon f.port == .utxon 1 && f.tag == 7 && f.live) =
      some { port := 1, tag := 7, work := workOf 3 3 33, live := true } ∧ forwarding.port.retrainWait = [] ∧
      (workOf 3 3 33).req.port = .host 0 ∧ forwarding.portUp (.host 0) = true ∧ forwarding.noConflicts) ∧
    (forwarding.port.fwds.find? fun f => Port.utxon f.port == .utxon 1 && f.tag == 8 && f.live) = none ∧
    ((forwarding.link 1).holdsReq 7 = false ∧
      (let l : Link := { egress := [(0, { msg := { opcode := 3, req := { port := .utxon 1, addr := 0, tag := 7 } } })] }
       let s := { forwarding with port := { forwarding.port with links := [(1, l)] } }
       (s.link 1).holdsReq 7 = true ∧ s.coreOn = true)) ∧
    ((Port.utxon 23).wf = true ∧ Served live ∧ live.portUp (.utxon 23) = false ∧ live.portUp (.utxon 1) = true) := by
  unfold Served State.noConflicts
  refine ⟨?_, ?_, ?_, ?_, ?_, ?_⟩ <;> decide +kernel

/-- Utxon port 23 in a state, its link trained and able to resume. -/
def training (st : Nat) : State :=
  { live with
    regs := liveEntries.take 26 ++ [(E.utxonState 23, st)] ++ liveEntries.drop 26
    port := { live.port with links := [(23, { trained := true, resume := true })] } }

theorem witness_UtxonPortsTrainRetrainAndExpire :
    (∀ st ∈ [1, 2, 3, 4, 5], (training st).coreOn = true ∧ (training st).reg (E.utxonState 23) = st) ∧
    ((training 1).link 23).trained = true ∧
    (let w0 : Word := 0x10002
     fld w0 23 16 = 1 ∧ inRange (fld w0 3 0) 1 3 = true ∧ (training 1).conflicts w0.toNat = false) ∧
    ((training 1).idleLink 23 ∧ (training 1).region.msgs = [] ∧ (training 1).reg E.fencePeerFence = 0) ∧
    (((training 3).link 23).resume = true ∧ flag (0x1000 : Word) 12 = true ∧
      (training 3).reg (E.utxonPartnerIdentity 23) = (0 : Word).toNat ∧ (training 3).idleLink 23 ∧
      (training 3).fencing .utxon 23 = false) ∧
    ((training 2).setReg (E.utxonHoldTime 23) 1).reg (E.utxonHoldTime 23) ≠ 0 ∧
    (Served live ∧ mayWrite .fm (E.utxonEnable 23 / 256) (E.utxonEnable 23 % 256) = true ∧ live.reg (E.utxonState 23) = 0) := by
  unfold Served State.idleLink
  refine ⟨?_, ?_, ?_, ?_, ?_, ?_, ?_⟩ <;> decide +kernel

/-- Port 1 at x8 with lanes 0 to 7, one unacknowledged frame, credits for responses, and one frame to acknowledge. -/
def linked : State :=
  let s := live.setRegs [(E.utxonWidth 1, 8), (E.utxonLaneMap 1, 0xFFFFFFFF76543210)]
  { s with port := { s.port with links := [(1, { replay := [{ seq := 0, vc := 2, compact := false, msgs := [] }], unacked := 1
                                                 rsp := { ownAdv := 64 } })] } }

theorem witness_FramesAreTakenInOrderAndReplayed :
    (linked.coreOn = true ∧ linked.portUp (.utxon 1) = true ∧ linked.fromFencedPeer 1 = false) ∧
    (let s := { linked with port := { linked.port with links := [(1, { rsp := { ownAdv := 64 } })] } }
     s.idleLink 1 ∧ s.noConflicts ∧ (s.link 1).nextRx = 0 ∧ inRange 0x38 0x38 0x3D = true ∧ inRange 0x3A 0x38 0x3A = true ∧
       (s.port.fwds.find? fun f => f.port == 1 && f.tag == 7 && f.live) = none ∧ (s.link 1).creditsFor 2 5 = true ∧
       2048 ≤ (4095 + 4096 - (s.link 1).nextRx) % 4096) ∧
    ((linked.link 1).egress = [] ∧ linked.port.retrainWait = [] ∧ (linked.link 1).replay ≠ [] ∧ (linked.link 1).replays < 3 ∧
      0 < (linked.link 1).unacked) ∧
    (7 < linked.reg (E.utxonWidth 1) ∧ bitOf (linked.link 1).rxBad (mapLane (linked.reg (E.utxonLaneMap 1)) 7) = false ∧
      mapLane (linked.reg (E.utxonLaneMap 1)) 7 < 9 ∧
      spareLane (linked.reg (E.utxonLaneMap 1)) (linked.reg (E.utxonWidth 1))
        ((linked.link 1).rxBad ||| 2 ^ mapLane (linked.reg (E.utxonLaneMap 1)) 7) = some 8) ∧
    spareLane (linked.link 1).txMap (linked.reg (E.utxonWidth 1))
      ((linked.link 1).txBad ||| 2 ^ mapLane (linked.link 1).txMap 0) = some 8 := by
  unfold State.idleLink State.noConflicts
  refine ⟨?_, ?_, ?_, ?_, ?_⟩ <;> decide +kernel

theorem witness_HostPortsFollowTheirLinkAndKeys :
    (let s := up.setRegs [(E.hostEnable 3, 1), (E.hostState 3, 1)]
     s.coreOn = true ∧ s.reg (E.hostEnable 3) = 1 ∧ s.reg (E.hostState 3) = 1) ∧
    (let s := live.setReg (E.hostIdeState 0) 1
     s.reg (E.hostState 0) = 2 ∧ (s.port.ios.any fun q => q.port == 0) = false ∧ s.reg (E.hostIdeState 0) = 1) ∧
    (Served up ∧ mayWrite .fm (E.hostEnable 3 / 256) (E.hostEnable 3 % 256) = true ∧ up.reg (E.hostState 3) = 0) ∧
    ((decoderOf (List.replicate 16 0)).base % 2 ^ 28 = 0 ∧ (List.replicate 16 (0 : Byte)).length = 16 ∧
      (decoderOf (1 :: List.replicate 15 (0xFF : Byte))).base % 2 ^ 28 ≠ 0) := by
  unfold Served
  refine ⟨?_, ?_, ?_, ?_⟩ <;> decide +kernel

/-- The management runtime's image of a device: versions 1.2 in its first HOST_MSG entry. -/
def helloImage : List Byte := List.replicate 96 0 ++ [2, 1, 0, 0] ++ List.replicate 12 0

/-- A served device with an open mailbox at port 0, two log entries, a VERIFIED Peg runtime, and core 7 RUNNING. -/
def boxed : State :=
  let s := live.setRegs [(E.logLogNextSeq, 2), (E.imageInactiveState 3, 1), (E.kettleHostMsgVersion 0, 0x102),
    (E.coreState 7, 2)]
  { s with kettle := { s.kettle with images := [(1, { active := helloImage })] } }

/-- A dictionary READ of THROTTLE_C: the header of a request with one item, and the item. -/
def readBody : List Byte := [0x10, 1, 0x34, 0x12, 0, 0, 4, 0, 1, 0, 0, 0, 0, 0, 0, 0, 0x10, 0x21, 3, 0]

/-- A firmware message of version 1.2. -/
def helloMsg (type : Nat) (body : List Byte) : FwMsg := { msgType := type, major := 1, minor := 2, seq := 9, body }

theorem witness_MailboxCommandsAreAnswered :
    boxed.mailboxOpen 0 ∧ (boxed.handleSeq 1 = some 1 ∧ boxed.handleSeq 5 = none) ∧ boxed.transferring = false ∧
    (boxed.reg (E.imageInactiveState 3) = 1 ∧ peersAgree (boxed.runningSet [3]) = true) ∧
    (16 ≤ readBody.length ∧ parseBody (.mailbox 0) readBody = .ok (.read [⟨0x2110, 3⟩]) ∧ boxed.owes = false ∧
      ((boxed.front.bump (E.hostMailboxCommands 0)).bump E.mgmtRequests).readable (.mailbox 0) .hd [⟨0x2110, 3⟩]) ∧
    ((List.drop 96 helloImage).length = 16 ∧
      negotiated (versionList (List.drop 96 helloImage) 0) (versionList (boxed.halves 1).active 12) = some (1, 2)) ∧
    (boxed.reg (E.kettleHostMsgVersion 0) ≠ 0 ∧
      boxed.reg (E.kettleHostMsgVersion 0) = (helloMsg 0x30 []).major * 256 + (helloMsg 0x30 []).minor) ∧
    ((helloMsg 0x30 [7]).body.head? = some (BitVec.ofNat 8 7) ∧ boxed.core 7 = 2 ∧
      (boxed.work.descs.any fun d => d.unit == some (.kettle 7) && d.phase == .running) = false) := by
  unfold State.mailboxOpen State.readable Served
  refine ⟨?_, ?_, ?_, ?_, ⟨?_, rfl, ?_, ?_⟩, ?_, ?_, ?_⟩ <;> decide +kernel

/-! ### Witnesses of 13 and 14: firmware, rings and translation -/

/-- The class that is staged is the Peg runtime; its inactive half is VERIFIED, ran before, and one half of each class
agrees with the rest because no class has an image. -/
def stocked : State := live.setRegs [(E.kettleStageClass, 3), (E.imageInactiveState 3, 1)]

theorem witness_ImagesAndCoresFollowTheirCommands :
    (stocked.coreOn = true ∧ stocked.dict.held = [] ∧ Served stocked) ∧
    (mayWrite .fm 0x7800 3 = true ∧ inRange (stocked.reg E.kettleStageClass) 1 3 = true ∧ stocked.kettle.checking = none ∧
      stocked.kettle.xfer = none ∧
      (stocked.dict.transfers.any fun x => x.entry == { index := 0x7800, sub := 3 } && x.path != .window 0) = false ∧
      stocked.dict.transfers.length < 16) ∧
    (let x : Transfer := { path := .window 0, entry := { index := 0x7800, sub := 3 }, data := [1, 2] }
     let s := { stocked with dict := { stocked.dict with transfers := [x] } }
     (s.dict.transfers.any fun x => x.entry == { index := 0x7800, sub := 3 } && x.path != .window 0) = false ∧
       s.transfer (.window 0) { index := 0x7800, sub := 3 } = some x) ∧
    (stocked.reg (E.imageInactiveState 3) = 1 ∧ mayWrite .fm 0x7800 4 = true ∧ mayWrite .fm 0x7800 5 = true ∧
      peersAgree (stocked.runningSet [3]) = true) ∧
    (let s := { stocked with kettle := { stocked.kettle with images := [(3, { ran := true, inactive := [1] })] } }
     (s.halves 3).ran = true ∧
       (let s := { s with kettle := { s.kettle with images := [(2, { active := [1] }), (3, { ran := true, inactive := [1] })] } }
        (s.halves 3).ran = true ∧ peersAgree (s.runningSet [3]) = false)) ∧
    (let s := { stocked with kettle := { stocked.kettle with checking := some 3 } }
     s.kettle.checking = some 3 ∧ s.imageFault 3 (s.halves 3).inactive = some 1) ∧
    (let s := { stocked with kettle := { stocked.kettle with takeover := some 1 } }
     s.kettle.takeover = some 1 ∧ s.kettle.relieved = none) ∧
    (let s := { stocked with kettle := { stocked.kettle with draining := true } }
     s.kettle.draining = true ∧ s.stop.halted = false ∧ s.collRunning = false ∧
       (collCores.any fun k => s.fencing .kettle k) = false) ∧
    (let s := stocked.setRegs [(E.coreState 7, 2), (E.coreState 2, 1)]
     s.core 7 = 2 ∧ s.core 2 = 1 ∧ (s.work.descs.any fun d => d.unit == some (.kettle 7)) = false ∧
       s.kettle.takeover ≠ some 2 ∧ s.reg E.procProcState ≠ 4) := by
  unfold Served
  refine ⟨?_, ?_, ?_, ?_, ?_, ?_, ?_, ?_, ?_⟩ <;> decide +kernel

/-- Ring 0 of pitch 0, enabled and of 64 slots, with its counters. -/
def ringOf (tail fetched dispatched floor : Nat) : Ring :=
  { base := 0, compl := 0x10000, log2 := 6, enable := true, tail, fetched, dispatched, floor }

/-- A device with that ring and some descriptors; lines 0, 1 and 2 are written, with given bytes. -/
def ringed (x : Ring) (ds : List Desc) (bytes : List Host.Cell) : State :=
  { live with
    work := { live.work with rings := [(0, x)], descs := ds }
    mem := { live.mem with
      bytes, kinds := [(0, .codeword), (stackSlots, .codeword), (2 * stackSlots, .codeword)] } }

/-- A NOP that has been fetched and is eligible. -/
def readyNop : Desc := { descOf [1, 0] .scheduler with phase := .ready, unit := none, eligible := some 0, start := none }

theorem witness_RingsFeedTheDispatcherAndComplete :
    (let r := hostReq 0x3F400000000
     (live.met r).admits 6 (wordStore { r with data := 1 }) { wordStore { r with data := 1 } with addr := 0x3F400000000 } ∧
       targetOf (bits 0x3F400000000 41 0) = .doorbells ∧ bits 0x3F400000000 11 10 = 0 ∧ live.pitchState 0 ≠ 0 ∧
       bitOf (live.reg (E.pitchBudgetClasses 0)) 0 = true ∧
       takeBytes (wordStore { r with data := 1 }).data 0 4 ≠ (live.ring 0 0).tail) ∧
    (wfPitch 4095 = true ∧ Served live ∧ mayWrite .fm (0x4000 + 4095) 0x10 = true ∧
      (List.replicate 256 (0 : Byte)).length = 256 ∧ (live.ring 4095 15).enable = false ∧
      (live.ring 4095 15).floor = (live.ring 4095 15).tail) ∧
    (let s := ringed (ringOf 1 0 0 0) [] [(0, 1)]
     let r := s.front.readDescSlot {} 0 0
     let d := freshDesc ⟨0, 0, 0⟩ r.2.2
     let d := { d with prio := max (d.fld 0 9 8) (r.1.reg (E.pitchPriorityFloor 0)) }
     s.fetches 0 = true ∧ (s.ring 0 0).enable = true ∧ (s.ring 0 0).fetched ≠ (s.ring 0 0).tail ∧ r.2.1 = .ok ∧ d.opcode = 1 ∧
       (r.1.headerCheck d).2 = none ∧ r.1.desc ⟨0, 0, 0⟩ = none) ∧
    (let s := ringed (ringOf 1 1 0 0) [readyNop] []
     (argMin Desc.preference (s.markEligible.work.descs.filter fun d =>
         d.eligible.isSome && s.markEligible.placing d != .wait)) = some readyNop ∧
       s.markEligible.placing readyNop = .give .scheduler ∧ readyNop.phase = .ready ∧ s.stop.halted = false) ∧
    (let d : Desc := { descOf [1, 0] .scheduler with phase := .dispatched, start := none }
     let s := ringed (ringOf 1 1 1 0) [d] []
     ((s.unitWaiting .scheduler).find? fun d => !s.unitBusy .scheduler d) = some d ∧ d.timed = false ∧
       s.unitUp .scheduler = true) ∧
    (let d := descOf [1, 0] .scheduler
     (ringed (ringOf 1 1 1 0) [d] []).runs ⟨0, 0, 0⟩ 1 d) ∧
    (let d : Desc := { descOf [1, 0] .scheduler with phase := .decided, outcome := some { status := 0 } }
     let s := ringed (ringOf 1 1 1 0) [d] []
     let x := s.ring 0 0
     let u := s.front.ownWrite {} 0 x.compl (rangeMask (x.compl % 64) 32)
       (placeBytes (x.compl % 64) 32 (leNat (bytesOfWords (recordWords d { status := 0 } x.log2 s.now)))) d.charge
     s.desc ⟨0, 0, 0⟩ = some d ∧ u.kettle.draining = false ∧ u.work = s.work ∧ x.floor = 0 ∧ x.dispatched = 1 ∧
       x.dispatched ≠ x.floor ∧ x.fetched = x.dispatched) := by
  unfold Served State.admits State.green State.runs
  refine ⟨?_, ?_, ?_, ?_, ?_, ?_, ?_⟩ <;> decide +kernel

/-- A descriptor of pitch 0 that waits on entry 0 of its fault queue. -/
def parkedDesc : Desc :=
  { descOf [1, 0] .scheduler with
    phase := .parked, unit := none, start := none
    fault := some { va := 0, write := false, cause := 3, level := 0, entry := 0, addr := 128, time := 0, slot := some 0 } }

/-- The fault entry, still to be acted on, and a device on which the host has advanced FAULT_HEAD. -/
def fault0 : FaultEnt :=
  { pitch := 0, seq := 0, va := 0, cause := 3, entry := 0, addr := 128, raiser := ⟨0, 0, 0⟩
    waiters := 1, acted := false, finished := false, failed := false, closed := false }

/-- The fault entry's line names an action and a destination frame. -/
def faulted (action frame : Byte) (e : FaultEnt) : State :=
  let s := ringed (ringOf 1 1 0 0) [parkedDesc] [(48, action), (50, frame)]
  let s := s.setRegs [(E.pitchFaultTail 0, 1), (E.pitchFaultHead 0, 1)]
  { s with work := { s.work with faults := [e] } }

/-- 1,024 tags of a port stand free while no read is outstanding. -/
theorem free_tags {s : State} (p : Nat) (h : s.port.ios = []) : 1024 ≤ (s.freeIoTags p).length := by
  have : s.freeIoTags p = List.range 65536 := by
    rw [State.freeIoTags, List.filter_eq_self]
    simp [h]
  simp [this]

theorem witness_WalksFaultsAndTheirActionsEnd :
    (let d : Desc := { descOf [1, 0] .scheduler with phase := .walking, unit := none, start := none }
     let s := ringed (ringOf 1 1 0 0) [d] []
     s.desc ⟨0, 0, 0⟩ = some d ∧ d.opcode ≠ 0x10 ∧ d.needTable = false ∧
       (State.walkRanges {} 0 d.charge d.todo false s.front d.record).2 = (d.record, .going, []) ∧
       (State.walkRanges {} 0 d.charge d.todo false s.front d.record).1.work.descs = s.work.descs) ∧
    (wfPitch 4095 = true ∧ Served live ∧ mayWrite .fm (0x4000 + 4095) 0x23 = true) ∧
    (let s := faulted 1 0 fault0
     let r := s.front.readAction {} 0 0
     let v := r.1.setFault fault0 { fault0 with acted := true, finished := true }
     s.nextAction 0 0 = some fault0 ∧ r.1.work = s.work ∧ bits r.2 3 0 = 1 ∧ v.attached 0 0 = [parkedDesc] ∧
       v.desc ⟨0, 0, 0⟩ = some parkedDesc ∧
       (State.walkRanges {} 0 parkedDesc.charge parkedDesc.todo true v parkedDesc.record).2 = (parkedDesc.record, .going, []) ∧
       (State.walkRanges {} 0 parkedDesc.charge parkedDesc.todo true v parkedDesc.record).1.work = v.work) ∧
    (let s := faulted 3 0 fault0
     let r := s.front.readAction {} 0 0
     s.nextAction 0 0 = some fault0 ∧ r.1.work = s.work ∧ 3 ≤ bits r.2 3 0 ∧
       (r.1.setFault fault0 { fault0 with acted := true, finished := true }).attached 0 0 = [parkedDesc] ∧
       parkedDesc.outcome = none) ∧
    (let s := faulted 2 1 fault0
     let r := s.front.readAction {} 0 0
     let x := r.1.readEntry {} 0 128 parkedDesc.charge
     s.nextAction 0 0 = some fault0 ∧ r.1.work = s.work ∧ bits r.2 3 0 = 2 ∧ r.1.waiterClass fault0 = parkedDesc.bclass ∧
       x.2 = some 0 ∧ x.1.work = s.work ∧ x.1.port = s.port ∧ x.1.migrateTarget 0 (bits r.2 51 16) = true ∧
       x.1.portUp (.host (bits 0 6 5)) = true ∧ x.1.port.ios = []) ∧
    (let q := fun (tag : Nat) => ({ port := 0, tag, addr := 0, dst := 65536, pitch := 0, seq := 0 } : IoReq)
     let m : Migration := { pitch := 0, seq := 0, va := 0, addr := 128, entry := 0, frame := 1, bclass := 0 }
     let s := faulted 2 1 { fault0 with acted := true }
     let s := { s with port := { s.port with ios := [q 0, q 1] }, work := { s.work with migrations := [m] } }
     let v := { s.front with port := { s.port with ios := s.port.ios.filter fun r => r != q 0 } }
     let u := (v.localWrite {} 0 0 65536 fullMask 0 (.cls 0)).1
     (s.port.ios.find? fun q => q.port == 0 && q.tag == 0) = some (q 0) ∧
       (s.work.migrations.find? fun m => m.pitch == 0 && m.seq == 0) = some m ∧ u.port.ios = v.port.ios ∧
       (v.port.ios.any fun r => r.pitch == 0 && r.seq == 0) = true) ∧
    (let e : FaultEnt := { fault0 with acted := true, finished := true }
     let s := { faulted 1 0 e with work := { (faulted 1 0 e).work with descs := [] } }
     let v := s.front.setFault e { e with closed := true }
     let u := v.ownWrite {} 0 (s.faultSlot 0 0) (rangeMask 56 8)
       (placeBytes 56 8 (packWord [(0, 0), (16, 1), (17, b2n e.failed)]).toNat) (.cls 0)
     (s.work.faults.find? fun e => e.pitch == 0 && e.seq == 0 && e.finished && !e.closed) = some e ∧ u.work = v.work ∧
       u.reg (E.pitchFaultDone 0) = 0 ∧ s.faultWaiting 0 = 0 ∧
       (s.work.faults.any fun x => x.pitch == 0 && x.seq == 1 && x.closed) = false) := by
  unfold Served
  refine ⟨?_, ?_, ?_, ?_, ?_, ?_, ?_⟩ <;> decide +kernel

theorem witness_InvalidationsAndFlushesEnd :
    (let d : Desc := { descOf [0x10, 0, 0, 0, 0, 1, 0, 0] .scheduler with phase := .walking, unit := none }
     let s := ringed (ringOf 1 1 0 0) [d] []
     s.desc ⟨0, 0, 0⟩ = some d ∧ d.opcode = 0x10 ∧ invalLegal (d.word 4) (d.word 5) = true) ∧
    (wfPitch 4095 = true ∧ Served live ∧ mayWrite .fm (0x4000 + 4095) 0x28 = true ∧ live.invalPending 4095 < 15 ∧
      mayWrite .fm (0x4000 + 4095) 0x20 = true ∧ mayWrite .fm (0x4000 + 4095) 0x21 = true) ∧
    (let v : Inval := { pitch := 1, va := 0, pages := 1, owner := none, taken := true }
     let s := { live with work := { live.work with invals := [v] } }
     (s.work.invals.find? fun x => x.pitch == 1 && x.taken) = some v ∧ s.invalEnded v = true ∧
       ((s.work.invals.filter fun x => x != v).any fun x => x.pitch == 1) = false) ∧
    (let d := descOf [3, 0, 0, 0, 0, 0, 0, 0] .flush
     let s := ringed (ringOf 1 1 1 0) [d] []
     s.desc ⟨0, 0, 0⟩ = some d ∧ d.opcode = 3 ∧ d.phase = .running ∧ d.outcome = none ∧
       (s.work.descs.any fun x => x.id.pitch == 0 && x.id.ring == 0 && decide (x.order < d.order) && x.unit.isSome &&
         x.phase != .done) = false ∧ (s.front.wbFlush {} 0 fun l => l.pitch == 0).1.work = s.work) := by
  unfold Served
  refine ⟨?_, ?_, ?_, ?_⟩ <;> decide +kernel

/-! ### Witnesses of 17, 20 and 21: the dictionary, observation, fences and audits -/

theorem witness_RequestsArePerformedInOrderAndAnswered :
    (live.dictUp = true ∧ live.dictHeld = false ∧ live.owes = false) ∧
    ((DapItems.read [⟨0x2110, 3⟩]).bodyBytes ≤ (pathLimits (.window 0)).1 ∧
      (DapItems.read [⟨0x2110, 3⟩]).segment ≤ (pathLimits (.window 0)).2.2 ∧
      (live.front.bump E.mgmtRequests).readable (.window 0) .hd [⟨0x2110, 3⟩]) ∧
    (let ws : List WriteItem := [{ entry := ⟨0x2110, 3⟩, type := 2, value := 90 }]
     (ws.any fun w => decide (11 ≤ w.type)) = false ∧ live.servesAll (ws.map fun w => w.entry) = true ∧
       (ws.foldl (fun s w => s.writeItem .fm w) (live.front.bump E.mgmtRequests)).owes = false) ∧
    (let e : Entry := ⟨0x4000, 0x10⟩
     mayRead .fm e.index e.sub = true ∧ mayWrite .fm e.index e.sub = true ∧ typeOf e.index e.sub = 10 ∧
       live.servesEntry e.index e.sub = true ∧ ((live.front.bump E.mgmtRequests).takeBlock e.index e.sub).2.length ≤ 256 ∧
       (DapItems.domRead e 0 256).bodyBytes ≤ (pathLimits (.window 0)).1 ∧ live.secondImage (.window 0) e = false ∧
       live.dict.transfers.length < 16) ∧
    (live.servesAll [⟨0x2110, 3⟩] = true ∧ 16 + ([(⟨0x2110, 3⟩ : Entry)].flatMap describeItem).length ≤ (pathLimits (.window 0)).2.1) ∧
    (let x : Transfer := { path := .window 0, entry := ⟨0x4000, 0x10⟩, data := [1] }
     ({ live with dict := { live.dict with transfers := [x] } } : State).transfer (.window 0) ⟨0x4000, 0x10⟩ = some x) := by
  unfold State.readable
  refine ⟨?_, ?_, ?_, ?_, ?_, ?_⟩ <;> decide +kernel

/-- A management frame to this device with that READ. -/
def readFrame : EthFrame := { dst := 0xFFFFFFFFFFFF, src := 2, body := readBody }

/-- The device as PLCA node 1. -/
def plca1 : State := live.setReg E.idPlcaId 1

/-- The GO of slot 0, with SEQ 5 and bit 32. -/
def goReq : Req := { port := .host 0, addr := 0x3F000000000, mask := 0xFF, data := 0x100000005 }

/-- The device with that READ in the memory of slot 0. -/
def slotted : State :=
  { live with dict := { live.dict with sram := readBody.zipIdx.map fun x => (0x40 + x.2, x.1) } }

theorem witness_PathsCarryRequestsAndIrreversibleWritesRepeat :
    (plca1.dictUp = true ∧ plca1.dictHeld = false ∧ plca1.owes = false) ∧
    (readFrame.fcsOk = true ∧ plca1.accepts readFrame = true ∧
      (plca1.dict.replies.any fun r => r.1 == (readFrame.src, leNat ((readFrame.body.drop 2).take 2))) = false ∧
      parseBody (.mgmt readFrame.src) readFrame.body = .ok (.read [⟨0x2110, 3⟩]) ∧
      ((plca1.front.bump E.mgmtFramesRx).bump E.mgmtRequests).readable (.mgmt readFrame.src) .bm [⟨0x2110, 3⟩]) ∧
    (let m : MgmtOut := { dst := 2, body := [], fires := false }
     let s := { live.setReg E.mgmtPlcaStatus 2 with dict := { live.dict with txq := [m] } }
     s.reg E.mgmtPlcaStatus = 2 ∧ s.reg E.mgmtPlcaBurstCount = 0 ∧ s.dict.txq = [m] ∧ m.fires = false ∧ s.dictUp = true) ∧
    (live.setReg E.mgmtPlcaStatus 1).reg E.mgmtPlcaStatus = 1 ∧
    (slotted.coreOn = true ∧ slotted.portUp (.host 0) = true ∧ slotted.hostMap goReq = some goReq ∧ goReq.addr < 2 ^ 52 ∧
      slotted.fencedSource (slotted.sourceOf (.host 0)) = false ∧ slotted.slotAddr goReq.addr = true ∧
      slotOfAddr goReq.addr = 0 ∧ bits goReq.addr 15 6 = 0 ∧ bitOf (takeBytes goReq.data 0 8) 32 = true ∧
      (slotted.slot 0).busy = false ∧ (slotted.slot 0).done = false ∧
      parseBody (.window 0) (slotted.slotBytes 0 0x40 (min 32704 (16 + leNat (slotted.slotBytes 0 0x46 2)))) =
        .ok (.read [⟨0x2110, 3⟩]) ∧ mayRead .hd 0x2110 3 = true ∧ slotted.servesAll [⟨0x2110, 3⟩] = true) ∧
    (Served live ∧ ((List.range 8).any fun j => j != 7 && ({ live with fuses := { live.fuses with keyState := [(0, 1)] } } :
      State).keyState j == 1) = true) ∧
    (let img : List Byte := List.replicate 12 0 ++ [9, 0] ++ List.replicate 178 0
     let s := { live with kettle := { live.kettle with images := [(3, { active := img })] } }
     (s.halves 3).active ≠ [] ∧ s.fuses.floorAt 3 ≤ 9 ∧ 9 ≤ bits (hdrWord (s.halves 3).active 1) 47 32) := by
  unfold Served State.readable
  refine ⟨?_, ⟨?_, ?_, ?_, rfl, ?_⟩, ?_, ?_, ⟨?_, ?_, ?_, ?_, ?_, ?_, ?_, ?_, ?_, ?_, ?_, rfl, ?_, ?_⟩, ?_, ?_⟩ <;> decide +kernel

/-- A device with an event to log, an enabled Lantern port and one sampled entry. -/
def watched : State :=
  let s := live.setRegs [(E.traceLanternEnable, 1), (E.traceTraceTypes, 0x40), (E.traceTracePitch, 0xFFFF)]
  { s with
    log := { s.log with queue := [{ time := 0, code := 1, severity := 1, pitch := 0xFFF, unit := 0, detail := 0 }] }
    trace := { s.trace with samples := [0x10, 0x21, 3, 0] } }

theorem witness_CountsLogAndTraceFollowTheirCommands :
    (Served live ∧ bits 0x8EFF0000 15 0 ≤ bits 0x8EFF0000 31 16 ∧ bits 0x8EFF0000 31 16 < 0x8F00 ∧
      0x8F00 < bits 0xFFFF8F01 15 0) ∧
    (watched.running = true ∧ watched.log.queue.length = 1) ∧
    (mayWrite .fm 0x8100 3 = true ∧ mayWrite .fm 0x8200 1 = true) ∧
    (watched.reg E.traceLanternEnable = 1 ∧ watched.coreOn = true ∧ bitOf (watched.reg E.traceTraceTypes) 6 = true ∧
      watched.reg E.traceTracePitch = 0xFFFF ∧ bitOf (watched.reg E.stopStopTriggers) 1 = false ∧
      watched.stop.frozen = false ∧ watched.trace.buffer.length < 2048 ∧ watched.trace.samples.length = 4) := by
  unfold Served
  refine ⟨?_, ?_, ?_, ?_⟩ <;> decide +kernel

theorem witness_StopAndTapFollowTheirCommands :
    (Served live ∧ mayWrite .fm 0xA000 5 = true ∧ live.power.phase ≠ .off ∧ bitOf (live.reg E.stopStopTriggers) 2 = false) ∧
    (let s := live.setReg E.stopStopMode 2
     s.running = true ∧ s.stop.stopIn = true ∧ s.reg E.stopStopMode ≠ 0 ∧ bitOf (s.reg E.stopStopTriggers) 1 = false) ∧
    (let s := live.setReg E.stopStopTriggers 4
     bitOf (s.reg E.stopStopTriggers) 2 = true ∧ s.stop.latched = false ∧ s.running = true) := by
  unfold Served
  refine ⟨?_, ?_, ?_⟩ <;> decide +kernel

/-- Lock 65535 is held with a lease to tick 10; the count stands at a given tick. -/
def lockedAt (now : Nat) : State :=
  let s := live.setReg E.stileDiagLock 65535
  { s with
    camp := { s.camp with count := now }
    stile := { s.stile with locks := [(65535, { held := true, source := 3, tag := 7, leaseEnd := 10 })] } }

theorem witness_FencesAuditsAndBreaksFollowTheirCommands :
    (Served live ∧ live.reg E.fenceAgentFence < 2 ^ 64 ∧ bitOf (live.reg E.fenceAgentFence) 63 = false ∧
      (∀ x ∈ live.dir.trans, 63 ∉ x.waiting) ∧ live.reg E.fenceAgentFenceDone < 2 ^ 64) ∧
    (bitOf (fencedHost.reg E.fenceAgentFence) 3 = true ∧ Served fencedHost) ∧
    (let s := { fencedHost with dir := { fencedHost.dir with fenceWalks := [3] } }
     s.dir.fenceWalks.contains 3 = true ∧ (∀ e ∈ s.dir.entries, e.2.sharers &&& agentBit 3 = 0) ∧
       (let e : DirEntry := { xEntry 0 with state := .s, sharers := agentBit 3 }
        let s := { s with dir := { s.dir with entries := [(33, e)] } }
        s.dir.fenceWalks.contains 3 = true ∧ s.dir.entries = [(33, e)] ∧ e.sharers = agentBit 3 ∧ agentBit 3 ≠ 0)) ∧
    (bitOf (128 : BitVec 8).toNat (live.reg E.idBoardPos) = false ∧
      (∀ n < 24, ∀ j < 8, bitOf (128 : BitVec 8).toNat j = true → live.partnerAt n j = false) ∧
      bitOf (1 : BitVec 8).toNat (live.reg E.idBoardPos) = true) ∧
    (mayRead .fm 0x9100 3 = true ∧ live.log.queue.length < 64) ∧
    ((lockedAt 9).reg E.stileDiagLock = 65535 ∧ ((lockedAt 9).lock 65535).held = true ∧
      (lockedAt 9).now < ((lockedAt 9).lock 65535).leaseEnd ∧ ((lockedAt 10).lock 65535).leaseEnd ≤ (lockedAt 10).now) ∧
    ((live.lock 65535).held = false ∧ (live.lock 65535).leaseEnd = 0) := by
  unfold Served
  refine ⟨?_, ?_, ?_, ?_, ?_, ?_, ?_⟩ <;> decide +kernel

/-! ### Witnesses of 22: Pegs, Ridgepole, kernels and staging -/

/-- An instruction in the R form. -/
def ins (opc f3 f7 rd rs1 rs2 : Nat) : Nat := f7 * 2 ^ 25 + rs2 * 2 ^ 20 + rs1 * 2 ^ 15 + f3 * 2 ^ 12 + rd * 2 ^ 7 + opc

/-- A kernel of one partition, whose code lies at virtual address 0, with one written and staged operand of two lines at
0x10000 that starts at line 0 of stacked memory. -/
def kernelDesc : Desc :=
  { descOf [2, 0, 1, 0, 0, 0, 64, 0] (.bivouac 0) with
    operands := [{ va := 0x10000, len := 128, read := true, write := true, stage := true }]
    record := [{ va := 0x10000, bytes := 65536, host := false, port := 0, write := true, target := 0 }]
    parts := [{ idx := 0, biv := 0, order := 0, started := true }] }

/-- Peg 0: x1 = 0 and the integer registers that the instructions below use. -/
def peg0 : Peg :=
  { pc := 0, x := [(2, 1), (3, apertureBase + 64 * 12288), (4, 0x10040), (5, 0x3FC00000040), (6, 0x10A00), (7, 64 * 12288 + 2 ^ 32)] }

/-- The Bivouac that runs it with one instruction in its code; logical number 0 is in service. -/
def pegged (i : Nat) : State :=
  let s := live.setRegs [(E.bivState 0, 2), (E.pitchStileCount 0, 4)]
  { s with
    work := { s.work with descs := [kernelDesc] }
    mem := { s.mem with kinds := [(0, .codeword), (stackSlots, .codeword)] }
    sward := { s.sward with written := [(12288, true)] }
    biv := { bivs := [(0, { kernel := some (⟨0, 0, 0⟩, 0, 0), pegs := List.replicate 64 peg0, rpCfg := 0x10A00
                            code := [(0, some (BitVec.ofNat 512 i))] })] } }

/-- Whose instruction it is. -/
def who : PegWho := { b := 0, g := 0, d := kernelDesc, part := 0 }

/-- The instruction is fetched, and the fetch changes nothing. -/
def Fetches (i : Nat) : Prop := (pegged i).pegAt {} 0 0 who peg0 (pegged i).front 4 i i

/-- An instruction ended well. -/
def endsOk : ScalarEnd → Bool
  | .done _ _ .ok => true
  | _ => false

theorem done_of_endsOk {e : ScalarEnd} (h : endsOk e = true) : ∃ v q, e = .done v q .ok := by
  cases e with
  | done v q r => cases r <;> simp_all [endsOk]
  | illegal => cases h
  | other => cases h

theorem witness_PegsExecuteTheInstructionsTheyFetch :
    (∀ i ∈ [0xFFF08093, 0x002081B3, 0x402081B3, 0x800002B7, 0x008000EF, 0x00208463, 0x00116093, 0x000170D7, 0x73,
        ins 0x2F 3 0xC 1 3 2, ins 0x2F 3 0 1 3 2, ins 0x2F 3 0 1 4 2, ins 0x2B 2 0 1 3 2, ins 0x2B 2 0 1 4 2, ins 0x2B 3 0 1 5 2,
        ins 0x2B 3 1 1 5 2, ins 0x2B 3 2 1 5 2, ins 0x2B 3 3 1 5 2], Fetches i) ∧
    (branchTaken 0 0 1).isSome = true ∧ endsOk ((pegged 0x00116093).front.scalar {} who peg0 4 0x00116093) = true ∧
    endsOk ((pegged 0x000170D7).front.vector {} who peg0 4 0x000170D7) = true ∧ (pegged 0x73).front.physOf 0 = some 0 ∧
    (bits (ins 0x2F 3 0xC 1 3 2) 31 27 = 3 ∧ peg0.reg 3 % 8 = 0 ∧ peg0.resv = none ∧
      stackedTarget kernelDesc.record (peg0.reg 3) = none) ∧
    (let u := (pegged (ins 0x2F 3 0 1 3 2)).front
     let l := u.pegLoad {} who (peg0.reg 3) 8 7
     l.2.1 = .ok ∧ l.2.2 < 2 ^ 64 ∧ (l.1.pegStore {} who (peg0.reg 3) 8 ((l.2.2 + peg0.reg 2) % 2 ^ 64)).2 = .ok) ∧
    endsOk ((pegged (ins 0x2F 3 0 1 4 2)).front.pegAmoInsn {} who peg0 4 (ins 0x2F 3 0 1 4 2)) = true ∧
    (let u := (pegged (ins 0x2B 2 0 1 3 2)).front
     let l := u.pegLoad {} who (peg0.reg 3) 4 7
     isCustom 0x2B 2 (ins 0x2B 2 0 1 3 2) = true ∧ l.2.1 = .ok ∧
       (l.1.pegStore {} who (peg0.reg 3) 4 (fadd32 l.2.2 (peg0.reg 2 % 2 ^ 32))).2 = .ok) ∧
    (peg0.reg 4 % 4 = 0 ∧ stackedTarget kernelDesc.record (peg0.reg 4) = some 64 ∧ operandAt kernelDesc 0x10000 true = true ∧
      ((pegged (ins 0x2B 2 0 1 4 2)).front.homeAtomic {} who 64 0x1A 4 1).2.1 = .ok) ∧
    (isCustom 0x2B 3 (ins 0x2B 3 3 1 5 2) = true ∧ bits (peg0.reg 5) 51 42 = (pegged 0).front.deviceNumber ∧
      targetOf (bits (peg0.reg 5) 41 0) = .stile ∧ (pegged 0).front.mayOperate 0 (bits (peg0.reg 5) 21 6) = true) := by
  refine ⟨?_, ?_, ?_, ?_, ?_, ?_, ?_, ?_, ?_, ?_, ?_⟩
  · unfold Fetches State.pegAt; decide +kernel
  all_goals decide +kernel

/-- The Ridgepole of Bivouac 0 with some entries, the first being performed or not. -/
def rpState (q : List RpItem) (run poison : Bool) : State :=
  let s := pegged 0
  { s with biv := { bivs := [(0, { s.bivAt 0 with rpQueue := q, rpRun := run, rpBusy := run, poison0 := poison })] } }

theorem witness_RidgepoleInstructionsQueueAndEntriesEnd :
    (∀ i ∈ [ins 0x0B 0 0 0 6 0, ins 0x0B 0 0 0 2 0, ins 0x0B 1 1 0 1 1, ins 0x0B 2 1 0 0 0, ins 0x0B 3 0 0 1 0, ins 0x0B 5 0 1 0 0,
        ins 0x0B 6 0 1 0 0, ins 0x2B 7 0 0 2 0], Fetches i ∧ (isCustom (bits i 6 0) (bits i 14 12) i) = true) ∧
    (cfgOk (peg0.reg 6) = true ∧ cfgOk (peg0.reg 2) = false ∧
      (pegged 0).front.apertureRange 0 0 0 (cfgK 0x10A00 * panelBlockBytes (cfgA 0x10A00)) false = true ∧
      (pegged 0).front.apertureRange 0 0 0 16384 false = true) ∧
    (let i := ins 0x0B 4 0 0 7 0
     let s := pegged i
     let p : Peg := { peg0 with x := [(7, 64 * 12288)] }
     let t := { s with biv := { bivs := [(0, { s.bivAt 0 with pegs := List.replicate 64 p })] } }
     t.pegAt {} 0 0 who p t.front 4 i i ∧ isCustom 0x0B 4 i = true ∧
       t.front.apertureRange 0 0 (64 * 12288) (storeBytesOf 0x10A00) true = true) ∧
    (let s := rpState [{ op := .cfg, cfg := 0, peg := 0 }] false false
     s.coreOn = true ∧ s.stopped = false ∧ (s.bivAt 0).rpRun = false ∧ (s.bivAt 0).rpQueue ≠ []) ∧
    (∀ op ∈ [RpOp.cfg, .zero 1, .mma 0 0 0, .loadc 0 0, .store 0 (64 * 12288)],
      let e : RpItem := { op, cfg := 0x10A00, peg := 0 }
      let s := rpState [e] true false
      (s.bivAt 0).rpRun = true ∧ (s.bivAt 0).rpQueue = [e] ∧ s.entryWaits 0 e = false ∧ (s.bivAt 0).poison 0 = false ∧
        (rpState [e] true true |>.bivAt 0).poison 0 = true ∧ (s.bivAt 0).kernel.isSome = true ∧ s.physOf 0 = some 0) ∧
    (let s := rpState [] true false
     (s.front.apertureRead 0 0 64).1.biv = s.biv) := by
  refine ⟨?_, ?_, ?_, ?_, ?_, ?_⟩
  · unfold Fetches State.pegAt; decide +kernel
  · decide +kernel
  · unfold State.pegAt; decide +kernel
  all_goals decide +kernel

/-- Bivouac 0 idle, with the kernel's partition at the head of its window. -/
def headed : State :=
  let d : Desc := { kernelDesc with start := none, phase := .dispatched, parts := [{ idx := 0, biv := 0, order := 0 }] }
  let s := live.setRegs [(E.bivState 0, 1), (E.bivPitch 0, 0)]
  { s with work := { s.work with descs := [d] } }

/-- The kernel's Bivouac with chunk buffers. -/
def buffered (i : Nat) (cs : List ChunkBuf) : State :=
  let s := pegged i
  { s with biv := { bivs := [(0, { s.bivAt 0 with bufs := cs })] } }

/-- Region 0 staged on Bivouac 0, nothing filled. -/
def stagedOn : State :=
  { pegged 0 with sward := { (pegged 0).sward with staged := [{ region := 0, biv := 0, mark := 0, pages := [0x2000010] }] } }

theorem witness_KernelsEnterStageAndEnd :
    (let d : Desc := { kernelDesc with start := none, phase := .dispatched, parts := [{ idx := 0, biv := 0, order := 0 }] }
     headed.coreOn = true ∧ headed.desc ⟨0, 0, 0⟩ = some d ∧
       d.parts.find? (fun q => q.idx == 0) = some { idx := 0, biv := 0, order := 0 } ∧
       (headed.window 0).head? = some (d, { idx := 0, biv := 0, order := 0 }) ∧ d.timed = false ∧ d.outcome = none ∧
       (headed.bivAt 0).kernel = none ∧ headed.bivLeaving 0 = false ∧ headed.physOf 0 = some 0 ∧
       headed.reg (E.bivPitch 0) = 0) ∧
    (let s := pegged 0
     let s := { s with biv := { bivs := [(0, { s.bivAt 0 with pegs := List.replicate 64 { peg0 with exited := some 7 } })] } }
     (s.bivAt 0).kernel = some (⟨0, 0, 0⟩, 0, 0) ∧ s.desc ⟨0, 0, 0⟩ = some kernelDesc ∧ kernelDesc.partitions = 1 ∧
       kernelDesc.outcome = none ∧ s.physOf 0 = some 0 ∧ s.stopped = false ∧ (s.bivAt 0).rpQueue = [] ∧
       ∀ p ∈ (s.bivAt 0).pegs, p.exited.isSome = true) ∧
    ((pegged 0).bivServed 0 = true ∧ ((pegged 0).bufferTaker 0).isSome = true ∧
      (List.range 24).find? (fun i => !(((pegged 0).bivAt 0).bufs.any fun c => c.buffer == i)) = some 0) ∧
    (let c : ChunkBuf := { buffer := 0, desc := ⟨0, 0, 0⟩, part := 0, chunk := 0, present := false }
     ((buffered 0 [c]).bivAt 0).bufs.find? (fun c => !c.present) = some c ∧
       ((buffered 0 [c]).front.fillChunk {} 0 0 kernelDesc 0x10000 64).2 = .ok) ∧
    (stagedOn.sward.staged.find? (fun c => c.region == 0 && c.biv == 0)).isSome = true ∧
    ((stagedOn.front.cohRead {} 0 (stagedOn.fillCharge 0)).2.isSome = true ∧
      ({ stagedOn with mem := MemSt.init }.front.cohRead {} 0 (stagedOn.fillCharge 0)).2 = none) ∧
    (let i := ins 0x2B 4 0 2 1 0
     let c : ChunkBuf := { buffer := 0, desc := ⟨0, 0, 0⟩, part := 0, chunk := 0, present := true }
     (buffered i [c]).pegAt {} 0 0 who peg0 (buffered i [c]).front 4 i i ∧ isCustom 0x2B 4 i = true ∧
       0 < kernelDesc.chunks.length ∧ (((buffered i [c]).front.bivAt 0).bufs.find? fun c =>
         c.ofPart ⟨0, 0, 0⟩ 0 && c.chunk == 0 && c.present) = some c ∧ Fetches i ∧
       Fetches (ins 0x2B 5 0 0 1 0) ∧ isCustom 0x2B 5 (ins 0x2B 5 0 0 1 0) = true) ∧
    (let i := ins 0x2B 6 0 0 4 7
     let p : Peg := { peg0 with x := [(4, 0x10000), (7, 64 * 12288 + 2 ^ 32)] }
     let s := pegged i
     let s := { s with biv := { bivs := [(0, { s.bivAt 0 with pegs := List.replicate 64 p })] } }
     s.pegAt {} 0 0 who p s.front 4 i i ∧ isCustom 0x2B 6 i = true ∧ inRange (bits (p.reg 7) 47 32) 1 1024 = true ∧
       bits (p.reg 7) 21 0 = 64 * 12288 ∧ operandAt kernelDesc 0x1003F true = true ∧
       (recordAddr kernelDesc.record 0x10000).isSome = true ∧
       s.front.apertureRange 0 0 (64 * 12288) 64 false = true ∧ s.front.rangeUnfilled 0 0 (64 * 12288) 64 = false ∧
       (s.front.putLines {} who (64 * 12288) 0x10000 1).2 = .ok) ∧
    (let l : WbLine := { addr := 64, pitch := 0, held := fullMask, dirty := fullMask, data := 1, reader := none, bclass := 0 }
     let s := pegged 0
     let s := { s with biv := { bivs := [(0, { s.bivAt 0 with wb := [l] })] } }
     (s.bivAt 0).wb.filter (fun l => l.addr == 64 && l.dirty != 0) = [l] ∧
       (s.front.targetWrite {} 0 { va := 0, bytes := 64, host := false, port := 0, write := true, target := 64 } 64
         fullMask 1 (.cls 0)).1.physOf 0 = some 0) := by
  unfold Fetches State.pegAt
  refine ⟨?_, ?_, ?_, ?_, ?_, ?_, ?_, ?_, ?_⟩
  · refine ⟨?_, ?_, ?_, ?_, ?_, ?_, ?_, ?_, ?_, ?_⟩ <;> decide +kernel
  · refine ⟨?_, ?_, ?_, ?_, ?_, ?_, ?_, ?_⟩ <;> decide +kernel
  · refine ⟨?_, ?_, ?_⟩ <;> decide +kernel
  · refine ⟨?_, ?_⟩ <;> decide +kernel
  · decide +kernel
  · refine ⟨?_, ?_⟩ <;> decide +kernel
  · refine ⟨?_, ?_, ?_, ?_, ?_, ?_, ?_⟩ <;> decide +kernel
  · refine ⟨?_, ?_, ?_, ?_, ?_, ?_, ?_, ?_, ?_⟩ <;> decide +kernel
  · refine ⟨?_, ?_⟩ <;> decide +kernel

/-! ### Witnesses of 23: the engines -/

/-- A running descriptor of pitch 0 for an engine of kind `k`, number 0.  Its virtual addresses below 1 MiB are the same
local addresses, and those of the next MiB are addresses of host port 0. -/
def engDesc (seq : Nat) (words : List Nat) (k : UnitKind) : Desc :=
  { descOf words (.engine k 0) with
    id := ⟨0, 0, seq⟩
    operands := [{ va := 0, len := 2 ^ 20, write := true }]
    record := [{ va := 0, bytes := 2 ^ 20, host := false, port := 0, write := true, target := 0 },
      { va := 2 ^ 20, bytes := 2 ^ 20, host := true, port := 0, write := true, target := 0 }] }

/-- Instance 0 of every engine kind serves and runs these descriptors. -/
def engState (ds : List Desc) : State :=
  let s := live.setRegs [(E.brackenState 0, 1), (E.cloverState 0, 1), (E.tinderState 0, 1), (E.heatherState 0, 1)]
  { s with work := { s.work with descs := ds } }

/-- The lines of two streams of one BF16 vector of rank 1 that is zero, at 0 and at 4,224: a header, 64 lines of zeros and
the CRC of the segment. -/
def streamLine (i : Nat) : Line :=
  if i = 0 then lineOfBytes ([49, 87, 86, 70, 1, 8, 0, 0, 1, 0, 1, 0, 0, 0, 0, 0, 2, 0, 0, 0, 0, 0, 0, 0, 1, 0, 0, 0, 0, 0, 0, 0,
    0xCB, 0x0D, 0x2F, 0x2D])
  else if i = 66 then lineOfBytes ([49, 87, 86, 70, 2, 8, 0, 0, 1, 0, 1, 0, 0, 0, 0, 0, 2, 0, 0, 0, 0, 0, 0, 0, 1, 0, 0, 0, 0, 0,
    0, 0, 0x66, 0xE6, 0xFD, 0xCE])
  else if i = 65 ∨ i = 131 then lineOfBytes [0x89, 0x41, 0xF9, 0x98]
  else 0

/-- Agent 9 owns the lines of both streams, and answers with their data and keeps them. -/
def streamEnv : Env := { snoops := (List.range 132).map fun i => (i, { kind := .rspKeepData, data := streamLine i }) }

/-- The view of those streams. -/
def view0 : View := { m := 1, n := 1, rank := 1, ffmt := 8, tfmt := 10, uBase := 0, vBase := 4224, used := true }

/-- The words of the Bracken descriptors below: each with the addresses that it names. -/
def bracken0 : List Desc :=
  [engDesc 0 [0x20, 0, 0, 0, 0, 4224, 1 + 2 ^ 16 + 2 ^ 32 + 8 * 2 ^ 44 + 10 * 2 ^ 48] .bracken,
   engDesc 1 [0x21, 0, 0, 0, 0, 0, 0, 0, 1] .bracken,
   engDesc 2 [0x22, 0, 0, 0, 64, 128, 10 + 4 * 2 ^ 16, 0, 2] .bracken,
   engDesc 3 [0x24, 0, 0, 0, 64, 128, 192, 2 ^ 20, 2 ^ 20 + 8192, 1 + 2 ^ 16 + 2 ^ 32] .bracken,
   engDesc 4 [0x26, 0, 0, 0, 64, 128, 1, 10 + 4 * 16] .bracken,
   engDesc 5 [0x27, 0, 0, 0, 64, 128, 1, 4 + 10 * 16] .bracken]

/-- The state of the Bracken witnesses: view 1 in no buffer, view 2 in the buffers of Bracken 0, and a read of each waits. -/
def brackenState : State :=
  let s := engState bracken0
  let r : Region := { basePage := 2 ^ 22, pages := 1, owner := 0, rights := 1, factored := true, state := .live }
  let e : DirEntry := { sharers := agentBit 9, state := .x, owner := 9, resv := none, resvOn := false, used := 0 }
  { s with
    dir := { s.dir with
      entries := (List.range 132).map fun i => (i, e)
      viewReads := [{ workOf 3 3 (2 ^ 32 + 1024) with line := 2 ^ 32 + 1024 }] }
    region := { s.region with table := [(0, region0), (1, r), (2, { r with basePage := 2 ^ 22 + 1 })] }
    eng := { s.eng with
      views := [(1, view0), (2, view0)]
      segs := [{ bracken := 0, view := 2, isV := false, seg := 0, bytes := List.replicate 64 0 },
        { bracken := 0, view := 2, isV := true, seg := 0, bytes := List.replicate 64 0 }] } }

/-- The CRC register after each 64 zero bytes. -/
def crcSteps : List Nat := [
  4294967295, 4231468184, 4158167844, 2345306063, 1200442991, 64332339, 1158271177, 3425213895, 3473084991,
  968469611, 534250289, 2006181900, 3318006521, 4236110739, 225952960, 3222365018, 290529667, 2519867196,
  2823063697, 1461178209, 1921003501, 2339865869, 1799837726, 3119513621, 175100626, 3713578410, 4225181274,
  2891649990, 1540069788, 2016383911, 1357258748, 2111644262, 1534491824, 5776267, 582457874, 131951082,
  332020171, 1142812627, 3827288015, 4207782254, 1307576961, 3948380880, 663433124, 3452895946, 609686098,
  634967350, 3628614574, 876736523, 3746741852, 3743075598, 4052690100, 1974303542, 176297486, 1435977454,
  397096062, 3936728851, 4151263722, 1959498830, 2176660693, 4226718853, 338346065, 3070616696, 1420788027,
  2740820386, 1728495222]

theorem foldl_range {α : Type} (f : α → Nat → α) (st : Nat → α) (n : Nat) (h : ∀ k < n, f (st k) k = st (k + 1)) :
    (List.range n).foldl f (st 0) = st n := by
  induction n with
  | zero => rfl
  | succ n ih => rw [List.range_succ, List.foldl_append, ih fun k hk => h k (by omega)]; exact h n (by omega)

/-- The payload of a stream of zeros. -/
def zeros : List Byte := (List.range 64).flatMap fun _ => List.replicate 64 0

theorem crc_zeros : crc32c zeros = 0x98F94189 := by
  have h : ∀ k ∈ List.range 64, (List.replicate 64 (0 : Byte)).foldl crcByte (crcSteps.getD k 0) = crcSteps.getD (k + 1) 0 := by
    decide +kernel
  have hc : (List.range 64).foldl (fun c _ => (List.replicate 64 (0 : Byte)).foldl crcByte c) (crcSteps.getD 0 0) =
      crcSteps.getD 64 0 :=
    foldl_range (fun c _ => (List.replicate 64 (0 : Byte)).foldl crcByte c) (fun k => crcSteps.getD k 0) 64
      fun k hk => h k (List.mem_range.mpr hk)
  have h0 : crcSteps.getD 0 0 = 0xFFFFFFFF ∧ crcSteps.getD 64 0 ^^^ 0xFFFFFFFF = 0x98F94189 := by decide +kernel
  rw [h0.1] at hc
  rw [crc32c, zeros, List.foldl_flatMap, hc, h0.2]

/-- An engine's read of a line that an owner without a port keeps and answers with data leaves the state as it is. -/
theorem localRead_kept (s : State) (env : Env) (i p : Nat) (c : EngCharge) (e : DirEntry)
    (hv : s.engineViolation p p (64 * i) false = none) (ht : targetOf (64 * i) = .stacked) (hn : s.transOf i = none)
    (he : s.dir.entries.find? (fun x => x.1 == i) = some (i, e)) (hx : e.state = .x) (hs : e.sharers = agentBit e.owner)
    (hu : e.used = s.dir.nextAge) (hp : s.agentPort e.owner = none) (hk : (envAnswer env i).kind = .rspKeepData)
    (hw : SMap.wf (fun _ => noEntry) s.dir.entries = true) (hl : s.settleLine i = s) :
    s.localRead env p p (64 * i) c = ⟨s, .ok, (envAnswer env i).data⟩ := by
  have h64 : 64 * i / 64 = i := by omega
  have hent : s.entry i = some e := by simp [State.entry, he]
  have hset : s.setLine i .x (agentBit e.owner) e.owner = s := by
    have : ({ e with state := .x, sharers := agentBit e.owner, owner := e.owner, used := s.dir.nextAge } : DirEntry) = e := by
      cases e; simp_all
    simp [State.setLine, hent, State.putEntry, this]
    rw [Laws.smap_set_listed _ _ _ _ hw (List.mem_of_find?_eq_some he)]
  simp [State.localRead, hv, ht, State.cohRead, State.settleTrans, hn, h64, hent, hx, State.engineSnoopCur, hp, hk, hset, hl,
    answerHasData]

/-- Reads that leave the state as it is, in a row. -/
theorem readPool_kept (s : State) (env : Env) (p addr len : Nat) (c : EngCharge) (g : Nat → Line)
    (h : ∀ q ∈ linePieces addr len, s.localRead env p p (bits q.1 41 6 * 64) c = ⟨s, .ok, g q.1⟩) :
    s.readPool env p addr len c = (s, .ok, (linePieces addr len).flatMap fun q => pieceBytes (g q.1) q.2.1 q.2.2) := by
  have go : ∀ (l : List (Nat × Nat × Nat)) (bs : List Byte),
      (∀ q ∈ l, s.localRead env p p (bits q.1 41 6 * 64) c = ⟨s, .ok, g q.1⟩) →
      l.foldl (fun (acc : State × EngStat × List Byte) q =>
        match acc with
        | (s, .ok, bs) =>
          let r := s.localRead env p p (bits q.1 41 6 * 64) c
          (r.s, r.st, bs ++ pieceBytes r.data q.2.1 q.2.2)
        | _ => acc) (s, .ok, bs) = (s, .ok, bs ++ l.flatMap fun q => pieceBytes (g q.1) q.2.1 q.2.2) := by
    intro l
    induction l with
    | nil => simp
    | cons q l ih =>
      intro bs hq
      have hq1 := hq q (by simp)
      simp only [List.foldl_cons, hq1, List.flatMap_cons]
      rw [ih _ fun q hm => hq q (by simp [hm])]
      simp
  exact (go (linePieces addr len) [] h).trans (by simp)

theorem stream_line (i : Nat) (h : i < 132) :
    brackenState.localRead streamEnv 0 0 (64 * i) (.cls 0) = ⟨brackenState, .ok, streamLine i⟩ := by
  have hm : i ∈ List.range 132 := List.mem_range.mpr h
  have h1 : ∀ i ∈ List.range 132, brackenState.engineViolation 0 0 (64 * i) false = none ∧ targetOf (64 * i) = .stacked ∧
      brackenState.transOf i = none ∧ brackenState.dir.entries.find? (fun x => x.1 == i) =
        some (i, { sharers := agentBit 9, state := .x, owner := 9, resv := none, resvOn := false, used := 0 }) ∧
      envAnswer streamEnv i = { kind := .rspKeepData, data := streamLine i } ∧
      brackenState.home i = .plain (i % 16) (i / 16) := by decide +kernel
  have h2 : brackenState.agentPort 9 = none ∧ SMap.wf (fun _ => noEntry) brackenState.dir.entries = true ∧
      brackenState.trail.queue = [] ∧ brackenState.dir.nextAge = 0 := by decide +kernel
  obtain ⟨a, b, c, d, e, f⟩ := h1 i hm
  have hd : brackenState.drainLine i = brackenState := by unfold State.drainLine; simp [h2.2.2.1]
  rw [localRead_kept brackenState streamEnv i 0 (.cls 0) _ a b c d rfl rfl h2.2.2.2.symm h2.1 (by rw [e]) h2.2.1
    (by simp only [State.settleLine, f, hd]), e]

/-- The bytes of the stream that starts at line `l`. -/
def streamOfLine (l : Nat) : List Byte := lineBytes (streamLine l) ++ zeros ++ [0x89, 0x41, 0xF9, 0x98]

theorem stream_read (l : Nat) (h : l = 0 ∨ l = 66) :
    brackenState.readPool streamEnv 0 (64 * l) 64 (.cls 0) = (brackenState, .ok, lineBytes (streamLine l)) ∧
      brackenState.readPool streamEnv 0 (64 * l) 4164 (.cls 0) = (brackenState, .ok, streamOfLine l) := by
  have hp : ∀ n, (∀ q ∈ linePieces (64 * l) n, ∃ i, i < 132 ∧ q.1 = 64 * i ∧ bits q.1 41 6 * 64 = 64 * i) →
      brackenState.readPool streamEnv 0 (64 * l) n (.cls 0) = (brackenState, .ok,
        (linePieces (64 * l) n).flatMap fun q => pieceBytes (streamLine (q.1 / 64)) q.2.1 q.2.2) := fun n hn =>
    readPool_kept _ _ _ _ _ _ (fun a => streamLine (a / 64)) fun q hq => by
      obtain ⟨i, hi, ha, hb⟩ := hn q hq
      rw [hb, stream_line i hi, ha, Nat.mul_div_cancel_left _ (by decide)]
  have hin : ∀ l ∈ [0, 66], ∀ n ∈ [64, 4164], ∀ q ∈ linePieces (64 * l) n,
      q.1 / 64 < 132 ∧ q.1 = 64 * (q.1 / 64) ∧ bits q.1 41 6 * 64 = 64 * (q.1 / 64) := by decide +kernel
  have hl : l ∈ [0, 66] := by simpa using h
  have hw : ∀ n ∈ [64, 4164], _ := fun n hn => hp n fun q hq => ⟨q.1 / 64, hin l hl n hn q hq⟩
  constructor
  · rw [hw 64 (by simp)]
    rcases h with h | h <;> subst h <;> decide +kernel
  · rw [hw 4164 (by simp)]
    have hz : ∀ l ∈ [0, 66], ∀ i ∈ List.range 64, pieceBytes (streamLine (l + 1 + i)) 0 64 = List.replicate 64 0 := by
      decide +kernel
    have hpieces : linePieces (64 * l) 4164 =
        (64 * l, 0, 64) :: ((List.range 64).map fun i => (64 * (l + 1 + i), 0, 64)) ++ [(64 * (l + 65), 0, 4)] := by
      rcases h with h | h <;> subst h <;> decide +kernel
    have hmid : ((List.range 64).map fun i => ((64 * (l + 1 + i), 0, 64) : Nat × Nat × Nat)).flatMap
        (fun q => pieceBytes (streamLine (q.1 / 64)) q.2.1 q.2.2) = zeros := by
      rw [List.flatMap_map, zeros]
      refine congrArg List.flatten (List.map_congr_left fun i hi => ?_)
      simpa [Nat.mul_div_cancel_left] using hz l hl i hi
    rw [hpieces, List.cons_append, List.flatMap_cons, List.flatMap_append, hmid]
    have he : ∀ l ∈ [0, 66], pieceBytes (streamLine l) 0 64 = lineBytes (streamLine l) ∧
        pieceBytes (streamLine (l + 65)) 0 4 = [0x89, 0x41, 0xF9, 0x98] := by decide +kernel
    simp [he l hl, streamOfLine]

theorem stream_good (l : Nat) (h : l = 0 ∨ l = 66) : badSegments 8 1 1 (streamOfLine l) = [] := by
  have h1 : (lineBytes (streamLine l)).length = 64 := by rcases h with h | h <;> subst h <;> decide +kernel
  have h2 : zeros.length = 4096 := by rw [zeros, List.length_flatMap]; rfl
  have hs : segmentsOf 8 1 1 = 1 := by decide
  have ht : ((streamOfLine l).drop (64 + 4096)).take 4 = [0x89, 0x41, 0xF9, 0x98] := by
    rw [streamOfLine, List.drop_left' (by simp [h1, h2])]; rfl
  have hz : ((streamOfLine l).drop 64).take 4096 = zeros := by
    rw [streamOfLine, List.append_assoc, List.drop_left' h1, List.take_left' h2]
  simp [badSegments, hs, ht, hz, crc_zeros, leNat]

/-- Two good streams pass the checks. -/
theorem checkStreams_good (s : State) (env : Env) (p e : Nat) (v : View) (c : EngCharge) (hu hv bu bv : List Byte)
    (h1 : s.readPool env p v.uBase 64 c = (s, .ok, hu)) (h2 : s.readPool env p v.vBase 64 c = (s, .ok, hv))
    (h3 : headerFault hu 1 v.ffmt v.rank v.m = none) (h4 : headerFault hv 2 v.ffmt v.rank v.n = none)
    (h5 : s.readPool env p v.uBase (streamBytes v.ffmt v.rank v.m) c = (s, .ok, bu))
    (h6 : s.readPool env p v.vBase (streamBytes v.ffmt v.rank v.n) c = (s, .ok, bv))
    (h7 : badSegments v.ffmt v.rank v.m bu = []) (h8 : badSegments v.ffmt v.rank v.n bv = []) :
    s.checkStreams env p e v c = ((s.bumpBy (E.brackenFactorLines e) (cdiv (streamBytes v.ffmt v.rank v.m) 64 +
      cdiv (streamBytes v.ffmt v.rank v.n) 64 - 2)).bumpBy (E.brackenCrcFails e) 0, none) := by
  simp [State.checkStreams, h1, h2, h3, h4, h5, h6, h7, h8]

theorem streams_check : brackenState.checkStreams streamEnv 0 0 view0 (.cls 0) =
    (brackenState.bumpBy (E.brackenFactorLines 0) 130 |>.bumpBy (E.brackenCrcFails 0) 0, none) := by
  have hu := stream_read 0 (by simp)
  have hv := stream_read 66 (by simp)
  have hh : headerFault (lineBytes (streamLine 0)) 1 8 1 1 = none ∧ headerFault (lineBytes (streamLine 66)) 2 8 1 1 = none := by
    decide +kernel
  exact checkStreams_good _ _ _ _ view0 _ _ _ _ _ hu.1 hv.1 hh.1 hh.2 hu.2 hv.2 (stream_good 0 (by simp)) (stream_good 66 (by simp))

theorem witness_ViewsAndPackingDecideTheirDescriptors :
    (let d := bracken0.getD 0 (descOf [] .region)
     let s := brackenState
     let x := (s.bumpBy (E.brackenFactorLines 0) 130).bumpBy (E.brackenCrcFails 0) 0
     s.onEngine d.id 0x20 .bracken d 0 ∧ d.viewCreateOk = true ∧
       s.oneExtent d.record (d.fld 4 56 0) (streamBytes 8 1 1) = some view0.uBase ∧
       s.oneExtent d.record (d.fld 5 56 0) (streamBytes 8 1 1) = some view0.vBase ∧
       s.rangeRights 0 view0.uBase (streamBytes 8 1 1) false = true ∧ s.rangeRights 0 view0.vBase (streamBytes 8 1 1) false = true ∧
       s.rangeProtected view0.uBase (streamBytes 8 1 1) = false ∧ s.rangeProtected view0.vBase (streamBytes 8 1 1) = false ∧
       s.front = s ∧ d.charge = .cls 0 ∧ s.checkStreams streamEnv 0 0 view0 (.cls 0) = (x, none) ∧ x.work = s.work ∧
       x.freeDescriptor = some 3 ∧ x.chooseBracken = some 0 ∧ x.viewCount < x.reg E.viewsViewLimit ∧
       x.quotaExcess 0 1 0 0 = none ∧ (fitRun (cdiv view0.rowPitch 65536) (x.freeRuns .view)).isSome = true ∧
       (s.checkStreams {} 0 0 view0 (.cls 0)).2 = some { status := 0x43 } ∧
       (s.checkStreams {} 0 0 view0 (.cls 0)).1.work = s.work) ∧
    (let d := bracken0.getD 1 (descOf [] .region)
     let s := brackenState
     s.onEngine d.id 0x21 .bracken d 0 ∧ s.viewOf 0 (d.fld 8 15 0) = some 1 ∧ s.viewAt 1 = view0 ∧
       s.front.dropSegments 1 = s ∧ s.checkStreams streamEnv 0 0 view0 (.cls 0) =
         ((s.bumpBy (E.brackenFactorLines 0) 130).bumpBy (E.brackenCrcFails 0) 0, none)) ∧
    (let d := bracken0.getD 2 (descOf [] .region)
     let s := brackenState
     s.onEngine d.id 0x22 .bracken d 0 ∧ s.viewOf 0 (d.fld 8 15 0) = some 2 ∧ d.viewMeasureOk (s.viewAt 2).n = true ∧
       d.operands ≠ [] ∧ (s.regionAt 2).state ≠ .damaged ∧
       (match s.front.measureRows streamEnv d 2 with
        | (u, .ok a) => decide ((u.drawFree.2.writeVirt streamEnv 0 d.record (d.fld 5 56 0) (lineBytes (lineOfWords
            [BitVec.ofNat 64 a.maxAbs, packWord [(0, a.row), (16, a.col)], BitVec.ofNat 64 (openNan u.freeCount a.err),
              BitVec.ofNat 64 a.orig, packWord [(0, a.nonfinite % 2 ^ 32)]])) d.charge).1.work = s.work)
        | _ => false) = true) ∧
    (let d := bracken0.getD 3 (descOf [] .region)
     let s := brackenState
     s.onEngine d.id 0x24 .bracken d 0 ∧ d.gradOk = true ∧ s.virtProtected d.record (2 ^ 20) (streamBytes 8 1 1) = false ∧
       s.virtProtected d.record (2 ^ 20 + 8192) (streamBytes 8 1 1) = false ∧
       (match s.front.readRanges streamEnv d [(64, 4), (128, 4), (192, 4)] with
        | (u, .ok, [g, h, q]) => decide (u.work = s.work) &&
          match gradCompress 1 1 1 (elemsOf 4 g) (elemsOf 4 h) (elemsOf 4 q) with
          | none => false
          | some z => decide ((u.writeRanges streamEnv d [(2 ^ 20, z.u), (2 ^ 20 + 8192, z.v), (128, z.e.flatMap (leBytes 4)),
              (192, z.qs.flatMap (leBytes 4))]).1.work = s.work)
        | _ => false) = true ∧
       gradCompress 1 1 1 [0x7F800000] [0] [0] = none) ∧
    (let d := bracken0.getD 4 (descOf [] .region)
     let s := brackenState
     d.packOk = true ∧ s.onEngine d.id 0x26 .bracken d 0 ∧ s.virtProtected d.record 128 (packedBytes 4 1) = false ∧
       (match s.front.readVirt streamEnv 0 d.record 64 4 d.charge with
        | (u, .ok, bs) =>
          let blocks := packBlocks 4 ((elemsOf 4 bs).map (elemValue 10))
          decide ((u.writeRanges streamEnv d [(128, packElems 8 (blocks.flatMap fun b => b.2)),
            (128 + packedScales 4 1, blocks.map fun b => BitVec.ofNat 8 b.1)]).1.work = s.work)
        | _ => false) = true) ∧
    (let d := bracken0.getD 5 (descOf [] .region)
     let s := brackenState
     d.packOk = true ∧ s.onEngine d.id 0x27 .bracken d 0 ∧
       (match s.front.readRanges streamEnv d [(64, 128), (64 + packedScales 4 1, 1)] with
        | (u, .ok, [es, xs]) => decide ((u.drawFree.2.writeVirt streamEnv 0 d.record 128 (((List.range 1).map fun i =>
            unpackElem u.freeCount i 10 (scaledValue 4 (packedElem 8 i es) (xs.getD (i / 32) 0).toNat)).flatMap
              (leBytes 4)) d.charge).1.work = s.work)
        | _ => false) = true) ∧
    (let s := brackenState
     s.coreOn = true ∧ s.reg (E.brackenState 0) = 1 ∧ s.dict.held = [] ∧
       (s.dir.viewReads.find? fun w => s.brackenOf w == some 0).isSome = true ∧
       (s.dir.viewReads.head?.map fun w => (w.line, (s.viewCover w.line).map (·.1))) = some (2 ^ 32 + 1024, some 2) ∧
       (({ s.front with dir := { s.dir with viewReads := [] } }.viewLine streamEnv 2 0 (.cls 0)).1.regionAt 2).state =
         .live) := by
  unfold State.onEngine
  refine ⟨⟨?_, ?_, ?_, ?_, ?_, ?_, ?_, ?_, ?_, ?_, streams_check, ?_, ?_, ?_, ?_, ?_, ?_, ?_, ?_⟩,
    ⟨?_, ?_, ?_, ?_, streams_check⟩, ?_, ⟨?_, ?_, ?_, ?_, ?_, ?_⟩, ?_, ?_, ?_⟩ <;> decide +kernel

/-! The Clover, Tinder and Heather. -/

/-- Agent 9 owns these lines of zeros, and answers with their data and keeps them. -/
def lineEnv (lines : List Nat) : Env := { snoops := lines.map fun i => (i, { kind := .rspKeepData, data := 0 }) }

/-- Agent 9 owns lines 0 to `n` − 1. -/
def ownedLines (s : State) (n : Nat) : State :=
  let e : DirEntry := { sharers := agentBit 9, state := .x, owner := 9, resv := none, resvOn := false, used := 0 }
  { s with dir := { s.dir with entries := (List.range n).map fun i => (i, e) } }

/-- The Clover and Tinder descriptors: create, destroy, gather and update of table 0, and two steps, the second with a scale
of infinity and SKIP_NONFINITE. -/
def clover0 : List Desc :=
  [engDesc 0 [0x30, 0, 0, 0, 1 + 2 ^ 40, 1 + 2 ^ 24 + 16 * 2 ^ 32, 128, 0, 0] .clover,
   engDesc 1 [0x31, 0, 0, 0, 0] .clover,
   engDesc 2 [0x32, 0, 0, 0, 10 * 2 ^ 16, 64, 0, 128, 1] .clover,
   engDesc 3 [0x33, 0, 0, 0, 0, 64, 128, 1] .clover,
   engDesc 4 [0x38, 0, 0, 0, 64, 128, 192, 256, 0, 1 + 3 * 2 ^ 40, 0, 0, 0, 1] .tinder,
   engDesc 5 [0x38, 0, 0, 0, 64, 128, 192, 256, 0, 1 + 3 * 2 ^ 40 + 2 ^ 50, 0, 0, 0x7F800000 * 2 ^ 32, 1] .tinder]

/-- Table 0: one row of one FP32 element at address 0. -/
def table0 : Table :=
  { words := [1 + 2 ^ 40, 1 + 2 ^ 24 + 16 * 2 ^ 32, 128, 0, 0], owner := 0, shards := [0], used := true }

/-- The state of the Clover and Tinder witnesses, with some descriptors. -/
def cloverState (ds : List Desc) : State :=
  let s := ownedLines (engState ds) 8
  { s with eng := { s.eng with tables := [(0, table0)] } }

theorem witness_TablesAndOptimizersDecideTheirDescriptors :
    (let d := clover0.getD 0 (descOf [] .region)
     let s := ownedLines (engState clover0) 8
     let r := s.front.readVirt (lineEnv (List.range 8)) 0 d.record 128 8 d.charge
     s.onEngine d.id 0x30 .clover d 0 ∧ d.tableOk = true ∧ r.2.1 = .ok ∧ r.1.work = s.work ∧ elemsOf 8 r.2.2 = [0] ∧
       r.1.freeTable = some 0 ∧ r.1.chooseClover = some 0 ∧ r.1.eng.tables.length < r.1.reg E.tablesTableLimit ∧
       shardsOk r.1.deviceNumber [0] = true ∧
       r.1.rangeRights 0 0 (localBlocks table0.rows table0.blockRows 1 0 * table0.blockRows * table0.stride) true = true ∧
       r.1.rangeRights 0 table0.dflt (rowBytes table0.fmt table0.dim) false = true ∧ table0.acc = 0) ∧
    (let d := clover0.getD 1 (descOf [] .region)
     (ownedLines (engState [d]) 8).onEngine d.id 0x31 .clover d 0 ∧
       ((ownedLines (engState [d]) 8).tableOf 0 0).isNone = true ∧
       (cloverState clover0).onEngine d.id 0x31 .clover d 0 ∧ ((cloverState clover0).tableOf 0 0).isNone = false ∧
       (cloverState clover0).dispatchedOther d.id (·.namesTable 0) = true ∧ (cloverState [d]).onEngine d.id 0x31 .clover d 0 ∧
       ((cloverState [d]).tableOf 0 0).isNone = false ∧ (cloverState [d]).dispatchedOther d.id (·.namesTable 0) = false) ∧
    (let d := clover0.getD 2 (descOf [] .region)
     let s := cloverState clover0
     let r := s.front.readRanges (lineEnv (List.range 8)) d [(64, 4)]
     let o := r.1.gatherOut (lineEnv (List.range 8)) d 0 table0 (indexList false (r.2.2.getD 0 [])) (gatherBags 0 1 [])
     s.onEngine d.id 0x32 .clover d 0 ∧ d.gatherOk = true ∧ d.operands ≠ [] ∧ s.tableOf 0 0 = some table0 ∧ r.2.1 = .ok ∧
       o.1.work = s.work ∧ o.2.1.isSome = false) ∧
    (let d := clover0.getD 3 (descOf [] .region)
     let s := cloverState clover0
     let r := s.front.readRanges (lineEnv (List.range 8)) d [(64, 4), (128, 64)]
     s.onEngine d.id 0x33 .clover d 0 ∧ d.operands ≠ [] ∧ d.updateOk table0 = true ∧ r.2.1 = .ok ∧
       (r.1.updateBatch (lineEnv (List.range 8)) d 0 table0 none (indexList false (r.2.2.getD 0 [])) (r.2.2.getD 1 [])).1.work =
         s.work) ∧
    (∀ p ∈ [(4, false), (5, true)],
     let d := clover0.getD p.1 (descOf [] .region)
     let s := cloverState clover0
     let r := s.front.readRanges (lineEnv (List.range 8)) d [(128, 4), (64, 4), (192, 4), (256, 4), (0, 0)]
     let gs := (elemsOf 4 (r.2.2.getD 0 [])).map fun g => fmul32 g d.optConst.scale
     s.onEngine d.id 0x38 .tinder d 0 ∧ d.optOk = true ∧ r.2.1 = .ok ∧ r.1.work = s.work ∧ bitOf (d.word 9) 50 = p.2 ∧
       (gs.any fun g => !(fp32.decode g).finite) = p.2 ∧
       let out := optAll d.optConst (elemsOf 4 (r.2.2.getD 1 [])) gs (decodeMoments 0 1 true (r.2.2.getD 2 []))
         (decodeMoments 0 1 false (r.2.2.getD 3 []))
       (r.1.drawFree.2.drawFree.2.writeRanges (lineEnv (List.range 8)) d
         (optWrites d r.1.freeCount none out (r.2.2.getD 1 []) (r.2.2.getD 2 []) (r.2.2.getD 3 []) [])).1.work = s.work) := by
  unfold State.onEngine
  refine ⟨?_, ?_, ?_, ?_, ?_⟩ <;> decide +kernel

/-- The Heather descriptors: create, insert, delete, compact, query and destroy of index 0, and a timed query. -/
def heather0 : List Desc :=
  [engDesc 0 [0x40, 0, 0, 0, 0, 2 ^ 17, 4 + 2 * 2 ^ 8 + 10 * 2 ^ 16 + 2 ^ 32, 1] .heather,
   engDesc 1 [0x41, 0, 0, 0, 0, 4096, 4160, 4288, 0, 0, 1] .heather,
   engDesc 2 [0x42, 0, 0, 0, 0, 4096, 4160, 1] .heather,
   engDesc 3 [0x43, 0, 0, 0, 0, 2 ^ 32] .heather,
   engDesc 4 [0x44, 0, 0, 0, 2 ^ 16, 4160, 4288, 4352, 1 + 2 ^ 16 + 2 ^ 32] .heather,
   engDesc 5 [0x45, 0, 0, 0, 0] .heather,
   { engDesc 6 [0x44 + 2 ^ 15, 0, 0, 0, 0] .heather with phase := .dispatched }]

/-- Index 0: 16 buckets from address 0 and one vector at 2^17. -/
def index0 : Index :=
  { params := 4 + 2 * 2 ^ 8 + 10 * 2 ^ 16 + 2 ^ 32, vecBase := 2 ^ 17, capacity := 1, used := true }

/-- The state of the Heather witnesses, with an index. -/
def heatherState (ds : List Desc) (x : Index) : State :=
  let s := ownedLines (engState ds) 70
  { s with eng := { s.eng with indices := [(0, x)] } }

/-- The environment in which agent 9 answers for all its lines. -/
def heatherEnv : Env := lineEnv (List.range 70)

/-- The device with no stack in service. -/
def stacksOff : State :=
  (engState heather0).setRegs ((List.range 16).map fun k => (E.stackState k, 0))

/-- A whole-line write to stacked memory that is not in service changes nothing. -/
theorem localWrite_off (s : State) (env : Env) (i p : Nat) (d : Line) (c : EngCharge)
    (hv : s.engineViolation p p (64 * i) true = none) (ht : targetOf (64 * i) = .stacked) (hn : s.dir.trans = [])
    (he : s.dir.entries = []) (hq : s.trail.queue = []) (hh : s.home i = .plain (i % 16) (i / 16))
    (hp : s.place (i % 16) (i / 16) = .offline) : s.localWrite env p p (64 * i) fullMask d c = (s, .poison) := by
  have h64 : 64 * i / 64 = i := by omega
  have hent : s.entry i = none := by simp [State.entry, he]
  have hd : s.drainLine i = s := by unfold State.drainLine; simp [hq]
  have hm : ¬ fullMask = 0#64 := by decide
  have hx : (noEntry.state = .s ∨ noEntry.state = .x) = False := by simp [noEntry]
  simp [State.localWrite, hv, ht, State.cohWrite, State.settleTrans, State.transOf, hn, h64, hent, hm, hx, State.settleLine,
    hh, hd, State.writeLine, State.updateLine, hp, State.chargeEngine]
  cases c <;> rfl

/-- The same after index 0 has its record. -/
def indexMade : State := stacksOff.front.setIndex 0 index0

theorem indexMade_write (i : Nat) (h : i < 2048) (d : Line) :
    indexMade.localWrite {} 0 0 (64 * i) fullMask d (.cls 0) = (indexMade, .poison) := by
  have h1 : ∀ page ∈ [0, 1], (indexMade.coverOf page).isNone = false ∧ indexMade.pitchMay 0 page true = true := by
    decide +kernel
  have h2 : ∀ st ∈ List.range 16, indexMade.reg (E.stackState st) = 0 ∧ indexMade.reg (E.stackRetiredChannels st) = 0 := by
    decide +kernel
  have h3 : indexMade.dir.trans = [] ∧ indexMade.dir.entries = [] ∧ indexMade.trail.queue = [] ∧
      indexMade.protBase = 2 ^ 34 := by decide +kernel
  have hp : 64 * i / 65536 ∈ [0, 1] := by simp; omega
  have ht : targetOf (64 * i) = .stacked := by unfold targetOf; rw [if_pos (by omega)]
  have hm : i % 16 ∈ List.range 16 := List.mem_range.mpr (by omega)
  refine localWrite_off _ _ _ _ _ _ ?_ ht h3.1 h3.2.1 h3.2.2.1 ?_ ?_
  · simp [State.engineViolation, ht, h1 _ hp]
  · unfold State.home
    rw [h3.2.2.2, if_pos (by omega)]
  · simp [State.place, State.unitRetired, State.stackState, h2 _ hm, bitOf]

theorem indexMade_laid : indexMade.layIndex {} 0 index0 (.cls 0) = indexMade := by
  have hn : bucketArea index0.keyBits index0.ovfBuckets index0.capacity / 64 = 1088 := by decide +kernel
  have hb : index0.bucketBase = 0 := rfl
  have hw : ∀ k < 1088, ∀ l : Line, indexMade.writePool {} 0 (0 + 64 * k) (lineBytes l) (.cls 0) = indexMade := by
    intro k hk l
    have hl : (lineBytes l).length = 64 := rfl
    have hf : (64 * k) / 64 = k := by omega
    have hg : (64 * k + 64 - 1) / 64 + 1 - k = 1 := by omega
    have hpieces : linePieces (0 + 64 * k) 64 = [(64 * k, 0, 64)] := by
      simp only [linePieces, Nat.zero_add, hf, hg]
      simp [Nat.mul_comm]
    have hmask : rangeMask 0 64 = fullMask := rfl
    have hbits : bits (64 * k) 41 6 * 64 = 64 * k := by
      have : bits (64 * k) 41 6 = k := by
        rw [bits, Nat.shiftRight_eq_div_pow]
        have : 64 * k / 2 ^ 6 = k := by omega
        rw [this]
        exact Nat.mod_eq_of_lt (by omega)
      rw [this, Nat.mul_comm]
    simp only [State.writePool, hl, hpieces, List.foldl_cons, List.foldl_nil, hmask, hbits,
      indexMade_write k (by omega)]
  have hf : ∀ (l : List Nat) (g : Nat → Line), (∀ k ∈ l, k < 1088) →
      l.foldl (fun (s : State) k => s.writePool {} 0 (0 + 64 * k) (lineBytes (g k)) (.cls 0)) indexMade = indexMade := by
    intro l g hl
    induction l with
    | nil => rfl
    | cons k l ih => rw [List.foldl_cons, hw k (hl k (by simp)), ih fun j hj => hl j (by simp [hj])]
  unfold State.layIndex
  simp only [hn, hb]
  exact hf _ _ fun k hk => List.mem_range.mp hk

/-- What the Heather of the witnesses has read for a descriptor. -/
def heatherRead (s : State) (env : Env) (k : Nat) (rs : List (Nat × Nat)) : State × EngStat × List (List Byte) :=
  s.readRanges env (heather0.getD k (descOf [] .region)) rs

theorem witness_IndicesChangeAndAnswerInTurn :
    (let d := heather0.getD 0 (descOf [] .region)
     let s := stacksOff
     s.onEngine d.id 0x40 .heather d 0 ∧ d.idxCreateOk = true ∧ s.freeIndex = some 0 ∧ s.chooseHeather = some 0 ∧
       s.eng.indices.length < s.reg E.indicesIndexLimit ∧ s.oneExtent d.record 0 (bucketArea 4 0 1) = some 0 ∧
       s.oneExtent d.record (d.fld 5 56 0) (vecStride 10 1) = some (2 ^ 17) ∧ s.rangeRights 0 0 (bucketArea 4 0 1) true = true ∧
       s.rangeRights 0 (2 ^ 17) (vecStride 10 1) true = true ∧ d.charge = .cls 0 ∧
       (s.front.setIndex 0 index0).layIndex {} 0 index0 (.cls 0) = s.front.setIndex 0 index0 ∧
       (s.front.setIndex 0 index0).work = s.work ∧ (s.front.setIndex 0 index0).eng = (s.setIndex 0 index0).eng) ∧
    (let d := heather0.getD 5 (descOf [] .region)
     (engState [d]).onEngine d.id 0x45 .heather d 0 ∧ ((engState [d]).indexOf 0 0).isNone = true ∧
       (heatherState heather0 index0).onEngine d.id 0x45 .heather d 0 ∧
       (heatherState heather0 index0).dispatchedOther d.id (·.namesIndex 0) = true ∧
       (heatherState [d] index0).onEngine d.id 0x45 .heather d 0 ∧ ((heatherState [d] index0).indexOf 0 0).isNone = false ∧
       (heatherState [d] index0).dispatchedOther d.id (·.namesIndex 0) = false) ∧
    (∀ p ∈ [(0x41, 1), (0x42, 2), (0x43, 3)],
      let d := heather0.getD p.2 (descOf [] .region)
      let s := heatherState heather0 { index0 with damaged := true }
      let t := { s with eng := { s.eng with gens := [(⟨0, 0, 9⟩, 0, 1)] } }
      s.onEngine d.id p.1 .heather d 0 ∧ s.changing d.id 0 = false ∧ s.indexOf 0 0 = some { index0 with damaged := true } ∧
        t.onEngine d.id p.1 .heather d 0 ∧ t.changing d.id 0 = true) ∧
    (∀ p ∈ [(heatherEnv, 1, none), (heatherEnv, 0, some IndexStop.full), (lineEnv [64, 65, 66, 67], 1, some .poison)],
      let d := heather0.getD 1 (descOf [] .region)
      let s := heatherState heather0 { index0 with capacity := p.2.1 }
      let r := heatherRead (s.front.takeGen d.id 0).1 p.1 1 [(4096, 8), (4160, 128), (4288, 64), (0, 0)]
      let v := r.1.insertAll p.1 d 0 1 1 (r.2.2.getD 0 []) (r.2.2.getD 1 []) (r.2.2.getD 2 []) (r.2.2.getD 3 [])
      s.onEngine d.id 0x41 .heather d 0 ∧ s.changing d.id 0 = false ∧ d.operands ≠ [] ∧
        inRange (d.fld 10 20 0) 1 1048576 = true ∧ s.indexOf 0 0 = some { index0 with capacity := p.2.1 } ∧ r.2.1 = .ok ∧
        v.1.work = s.work ∧ v.2.2 = p.2.2) ∧
    (let d := heather0.getD 2 (descOf [] .region)
     let s := heatherState heather0 index0
     let r := s.front.runDelete d heatherEnv 1
     s.onEngine d.id 0x42 .heather d 0 ∧ s.changing d.id 0 = false ∧ r.1.work = s.work ∧ r.2.detail = 0 ∧ r.2.status = 0) ∧
    (let d := heather0.getD 3 (descOf [] .region)
     let s := heatherState heather0 index0
     let r := s.front.runCompact d (lineEnv []) none
     s.onEngine d.id 0x43 .heather d 0 ∧ s.changing d.id 0 = false ∧ r.1.work = s.work ∧ r.2.detail = 0 ∧ r.2.status = 8) ∧
    (let d := heather0.getD 6 (descOf [] .region)
     let s := heatherState heather0 index0
     s.desc d.id = some d ∧ d.opcode = 0x44 ∧ d.timed = true ∧ d.phase = .dispatched ∧ d.launch ≤ s.now ∧
       (s.indexOf 0 0).isSome = true) ∧
    (let d := heather0.getD 4 (descOf [] .region)
     let s := heatherState heather0 index0
     let r := heatherRead (s.front.fixSnap d 0) heatherEnv 4 [(4160, 128), (4288, 64)]
     let v := r.1.oneQuery heatherEnv d 0 0 ((r.1.snapOf d.id).getD 0) 0 ((r.2.2.getD 0 []).take 128)
       ((r.2.2.getD 1 []).take 64)
     (heatherState heather0 { index0 with damaged := true }).onEngine d.id 0x44 .heather d 0 ∧
       s.onEngine d.id 0x44 .heather d 0 ∧ d.idxQueryOk = true ∧ d.operands ≠ [] ∧ d.fld 8 44 32 = 1 ∧
       s.indexOf 0 0 = some index0 ∧ r.2.1 = .ok ∧ v.1.work = s.work ∧ v.2.2.2 = false) ∧
    (let s := heatherState heather0 { index0 with unlinked := [(65536, [])] }
     s.coreOn = true ∧ (s.indexAt 0).used = true ∧
       (s.indexAt 0).unlinked.find? (fun u => u.2.isEmpty) = some (65536, [])) := by
  unfold State.onEngine
  refine ⟨⟨?_, ?_, ?_, ?_, ?_, ?_, ?_, ?_, ?_, ?_, indexMade_laid, ?_, ?_⟩, ?_, ?_, ?_, ?_, ?_, ?_, ?_, ?_⟩ <;> decide +kernel

/-! ### Witnesses of 24: collectives -/

/-- A running timed descriptor of pitch 0 for Kettle core 2. -/
def collDesc (op : Nat) : Desc :=
  { engDesc op [op + 2 ^ 15, 0, 0, 0, if op = 0x51 ∨ op = 0x50 then 0 else 10 * 2 ^ 12, 0, if op = 0x50 then 2 else 192,
      if op = 0x50 then 4096 else 2, if op = 0x50 then 256 else 1024, 1 + 2 ^ 16 + 2 ^ 32, if op = 0x50 then 1 else 0]
      .bracken with unit := some (.kettle 2) }

/-- The group of devices 0 and 2 as group 0 of pitch 0. -/
def group0 (hash scratchBytes : Nat) : Group :=
  { groupId := 0, pitch := 0, members := [0, 2], scratch := 4096, scratchBytes, timeout := 1000, chunk := 2, hash, core := 2
    used := true }

/-- Core 2 runs the collective runtime, with that group and the given collectives under way. -/
def collState (ds : List Desc) (gs : List (Nat × Group)) (cs : List CollRun) : State :=
  let s := ownedLines (engState ds) 70
  let s := s.setRegs [(E.coreState 2, 2), (E.coreRole 2, 3)]
  { s with eng := { s.eng with groups := gs, colls := cs } }

/-- ALL_REDUCE of the group under way. -/
def run0 (step : Nat) (started : Bool) (flags : List CollFlag) : CollRun :=
  { desc := ⟨0, 0, 0x52⟩, handle := 0, seq := 0, chunk := 0, step, started, untimed := false, flags, result := 0 }

/-- The state in which it is under way. -/
def reducing (hash step : Nat) (started : Bool) (flags : List CollFlag) : State :=
  collState [collDesc 0x52] [(0, group0 hash 4096)] [run0 step started flags]

/-- What the collective core knows of it. -/
def info0 (hash step : Nat) (started : Bool) (flags : List CollFlag) : CollInfo :=
  { d := collDesc 0x52, g := group0 hash 4096, me := 0, run := run0 step started flags }

/-- Lines 0 to 69 with one of them not zero. -/
def oneLine (i : Nat) (l : Line) : Env :=
  { snoops := (i, { kind := .rspKeepData, data := l }) :: heatherEnv.snoops }

theorem witness_GroupsAndCollectivesGoStepByStep :
    (let d := collDesc 0x50
     let s := collState [d] [] []
     let env := oneLine 0 (BitVec.ofNat 512 (2 * 2 ^ 16))
     let r := s.front.readVirt env 0 d.record 0 4 d.charge
     s.kettle.draining = false ∧ s.front.collCmd d.id 0x50 = some (d, 2) ∧ d.outcome = none ∧ d.groupOk = true ∧
       s.freeGroup = some 0 ∧ r.2.1 = .ok ∧ r.1.work = s.work ∧ membersOk r.1.deviceNumber (elemsOf 2 r.2.2) = true ∧
       r.1.oneExtent d.record 4096 256 = some 4096 ∧ r.1.rangeRights 0 4096 256 true = true) ∧
    (let d := collDesc 0x51
     let g := [(0, group0 0 4096)]
     ((collState [d] [] []).front.collCmd d.id 0x51 = some (d, 2) ∧ ((collState [d] [] []).groupOf 0 0).isNone = true) ∧
       ((collState [d, collDesc 0x52] g []).front.collCmd d.id 0x51 = some (d, 2) ∧
         (collState [d, collDesc 0x52] g []).dispatchedOther d.id (·.namesGroup 0) = true) ∧
       (collState [d] g []).front.collCmd d.id 0x51 = some (d, 2) ∧ ((collState [d] g []).groupOf 0 0).isNone = false ∧
       (collState [d] g []).dispatchedOther d.id (·.namesGroup 0) = false) ∧
    (∀ op ∈ [0x52, 0x53, 0x54, 0x55, 0x56],
      let d := collDesc op
      let at_ := fun n => collState [d] [(0, group0 0 n)] []
      let need := fun n => ({ d, g := group0 0 n, me := 0, run := { run0 0 false [] with desc := d.id, seq := 1 } } : CollInfo).needed
      (collState [d] [] []).front.collCmd d.id op = some (d, 2) ∧ ((collState [d] [] []).groupOf 0 d.groupHandle) = none ∧
        d.timed = true ∧ d.outcome = none ∧
        ∀ n ∈ [64, 2 ^ 20], (at_ n).front.collCmd d.id op = some (d, 2) ∧ (at_ n).groupOf 0 d.groupHandle = some (group0 0 n) ∧
          ((at_ n).eng.colls.any fun r => r.desc == d.id) = false ∧ (at_ n).rankIn (group0 0 n) = 0 ∧
          (if op = 0x56 then d.gradOk && (at_ n).algoOk op 0 (group0 0 n) else (at_ n).collOk d (group0 0 n)) = true ∧
          decide (n < need n) = decide (n = 64)) ∧
    (let s := reducing 0 0 false []
     let c := info0 0 0 false []
     let go := { c with run := { c.run with started := true } }
     let r := (s.front.descEvent c.d 3 0 (unitWord .kettle 2) c.run.traceData).formStep heatherEnv go
     s.collInfo ⟨0, 0, 0x52⟩ = some c ∧ s.front.collCmd c.d.id c.d.opcode = some (c.d, 2) ∧ c.d.opcode ≠ 0x56 ∧ c.ready = true ∧
       c.stamp = s.now ∧ r.2.1 = .ok ∧ r.2.2 ≠ [] ∧ (r.1.sendAll heatherEnv go r.2.2).2 = .ok ∧
       (r.1.sendAll heatherEnv go r.2.2).1.kettle = s.kettle) ∧
    (∀ p ∈ [(0, []), (2, [{ sender := 1, chunk := 0, step := 2 }])],
      let s := reducing 0 p.1 true p.2
      let c := info0 0 p.1 true p.2
      s.collInfo ⟨0, 0, 0x52⟩ = some c ∧ s.front.collCmd c.d.id c.d.opcode = some (c.d, 2) ∧ c.chunks = 1 ∧ c.steps = 3 ∧
        (c.run.step + 1 = c.steps → c.chunkIn = true) ∧ c.d.outcome = none) ∧
    (∀ p ∈ [(5, (0 : Line)), (0, BitVec.ofNat 512 (2 ^ 160)), (0, 0)],
      let s := reducing p.1 0 false []
      let c := info0 p.1 0 false []
      let env := oneLine 65 p.2
      let r := s.front.scratchRead env c 64 64
      let w := fun i => leNat ((r.2.2.drop (8 * i)).take 8)
      s.collInfo ⟨0, 0, 0x52⟩ = some c ∧ 1 < c.n ∧ 1 ≠ c.me ∧ s.stopped = false ∧ r.2.1 = .ok ∧ r.1.work = s.work ∧
        r.1.eng = s.eng ∧ r.1.kettle = s.kettle ∧
        (bits (w 0) 31 0 = c.g.hash ∧ bits (w 0) 63 32 = c.run.seq ↔ p.1 = 0) ∧ (bitOf (w 2) 32 = true ↔ p.2 ≠ 0) ∧
        let f := run0 0 false [{ sender := 1, chunk := 0, step := 0 }]
        let v := (r.1.setRun f).takeData env { c with run := c.run } 1 0
        v.2 = .ok ∧ v.1.eng.colls = (r.1.setRun f).eng.colls ∧ v.1.kettle = s.kettle) ∧
    ((info0 0 1 false []).ready = false ∧ (reducing 0 1 false []).collInfo ⟨0, 0, 0x52⟩ = some (info0 0 1 false []) ∧
      (info0 0 0 false []).ready = true ∧ (reducing 0 0 false []).stopped = false) := by
  refine ⟨?_, ?_, ?_, ?_, ?_, ?_, ?_⟩ <;> decide +kernel

/-! ### Ill-formed commands: each check of well-formedness refuses one -/

/-- A request, a snoop answer, a response and a frame header whose other fields are good. -/
def goodReq : Req := { port := .host 0, addr := 64 }

theorem test_good_commands_are_well_formed :
    (Instr.rdShared goodReq).wf = true ∧ (Instr.rspI { port := .utxon 23, tag := 0 }).wf = true ∧
      (Instr.ack { port := .utxon 0, tag := 0xFFFF }).wf = true ∧ (Instr.msgC 23 {} []).wf = true := by decide

theorem test_ill_formed_requests_are_refused : ∀ r ∈ [
    { goodReq with port := .host 4 }, { goodReq with port := .utxon 24 }, { goodReq with decoder := 8 },
    { goodReq with addr := 2 ^ 64 }, { goodReq with pitch := 4096 }, { goodReq with bclass := 32 }, { goodReq with prio := 4 },
    { goodReq with tag := 2 ^ 16 }, { goodReq with keep := 4 }, { goodReq with offset := 64 }, { goodReq with width := 4 },
    { goodReq with holderTag := 2 ^ 16 }], (Instr.rdShared r).wf = false := by decide +kernel

theorem test_ill_formed_answers_are_refused :
    (Instr.rspI { port := .host 0, tag := 2 ^ 16 }).wf = false ∧ (Instr.rspI { port := .host 4, tag := 0 }).wf = false ∧
      ∀ r ∈ [({ port := .utxon 24, tag := 0 } : Rsp), { port := .host 0, tag := 2 ^ 16 }, { port := .host 0, tag := 0, status := 8 },
        { port := .host 0, tag := 0, load := 16 }, { port := .host 0, tag := 0, retryAfter := 16 }],
        (Instr.ack r).wf = false := by decide +kernel

theorem test_ill_formed_frames_are_refused :
    (∀ h ∈ [({ vc := 4 } : FrameHdr), { seq := 4096 }, { ackSeq := 4096 }, { credVc := 4 }, { credTotal := 2 ^ 16 }],
      (Instr.ackFrame 0 h).wf = false ∧ (Instr.msg 0 h []).wf = false) ∧
    (∀ m ∈ [({ opcode := 256, req := goodReq } : WireMsg), { opcode := 1, req := { goodReq with tag := 2 ^ 16 } },
      { opcode := 1, req := goodReq, status := 8 }, { opcode := 1, req := goodReq, load := 16 },
      { opcode := 1, req := goodReq, retryAfter := 16 }], (Instr.msg 0 {} [m]).wf = false) ∧
    (∀ m ∈ [({ opcode := 0x37, tag := 0 } : CompactMsg), { opcode := 0x3B, tag := 0 }, { opcode := 0x38, prio := 4, tag := 0 },
      { opcode := 0x38, tag := 2 ^ 16 }, { opcode := 0x38, tag := 0, status := 8 }, { opcode := 0x38, tag := 0, load := 16 }],
      (Instr.msgC 0 {} [m]).wf = false) ∧
    (Instr.msg 24 {} []).wf = false ∧ (Instr.msg 0 {} (List.replicate 33 { opcode := 1, req := goodReq })).wf = false ∧
    (Instr.msgC 24 {} []).wf = false ∧ (Instr.msgC 0 {} (List.replicate 8 { opcode := 0x38, tag := 0 })).wf = false ∧
    (Instr.replayReq 24 {}).wf = false ∧ (Instr.lane 24 {} 0 false 0).wf = false ∧ (Instr.lane 0 {} 9 false 0).wf = false ∧
    (Instr.lane 0 {} 0 false 4096).wf = false ∧ (Instr.lane 0 { vc := 4 } 0 false 0).wf = false := by decide +kernel

theorem test_ill_formed_names_are_refused :
    (∀ d ∈ [(⟨4096, 0, 0⟩ : DescId), ⟨0, 16, 0⟩, ⟨0, 0, 2 ^ 32⟩],
      (Instr.nop d).wf = false ∧ (Instr.viewCreate d {}).wf = false ∧ (Instr.allReduce d).wf = false ∧
      (Instr.walkComplete d {}).wf = false ∧ (Instr.collFlagReceived d 0 {}).wf = false) ∧
    (∀ u ∈ [UnitId.bivouac 512, .engine .stack 0, .engine .bracken 32, .kettle 8], (Instr.descriptorStart u).wf = false) ∧
    (Instr.resetRequestWarm (.po 4096)).wf = false ∧ (Instr.read (.mgmt (2 ^ 48)) .fm 0 []).wf = false ∧
    (Instr.read (.window 64) .fm 0 []).wf = false ∧ (Instr.read (.mailbox 4) .fm 0 []).wf = false ∧
    (Instr.read (.window 0) .fm (2 ^ 32) []).wf = false ∧ (Instr.describe (.window 0) .fm 0 [⟨2 ^ 16, 0⟩]).wf = false ∧
    (Instr.read (.window 0) .fm 0 [⟨0, 256⟩]).wf = false ∧
    (∀ w ∈ [(⟨⟨0x1000, 0x22⟩, 256, 0⟩ : WriteItem), ⟨⟨0x1000, 0x22⟩, 1, 2 ^ 64⟩, ⟨⟨2 ^ 16, 0⟩, 1, 0⟩],
      (Instr.write (.window 0) .fm 0 [w]).wf = false ∧ (Instr.registerWrite .fm w).wf = false ∧
        (Instr.budgetWrite w).wf = false) ∧
    (Instr.domainRead (.window 0) .fm 0 ⟨0, 0⟩ (2 ^ 32) 0).wf = false ∧
    (Instr.domainRead (.window 0) .fm 0 ⟨0, 0⟩ 0 (2 ^ 32)).wf = false ∧
    (Instr.domainWrite (.window 0) .fm 0 ⟨0, 0⟩ (2 ^ 32) true []).wf = false ∧
    (Instr.domainTimeout (.window 64) ⟨0, 0⟩).wf = false := by decide +kernel

theorem test_ill_formed_bodies_are_refused :
    (∀ f ∈ [({ dst := 2 ^ 48, src := 0, body := [] } : EthFrame), { dst := 0, src := 2 ^ 48, body := [] },
      { dst := 0, src := 0, etherType := 2 ^ 16, body := [] }, { dst := 0, src := 0, body := List.replicate 1501 0 }],
      (Instr.mgmtFrame f).wf = false) ∧
    (∀ m ∈ [({ msgType := 2 ^ 16, major := 0, minor := 0, seq := 0, body := [] } : FwMsg),
      { msgType := 0, major := 256, minor := 0, seq := 0, body := [] }, { msgType := 0, major := 0, minor := 256, seq := 0, body := [] },
      { msgType := 0, major := 0, minor := 0, seq := 2 ^ 32, body := [] }],
      (Instr.kettleMsg 0 m).wf = false ∧ (Instr.hello 0 m).wf = false) ∧
    (Instr.kettleMsg 4 { msgType := 0, major := 0, minor := 0, seq := 0, body := [] }).wf = false ∧
    (Instr.ringConfigWrite .fm 0 (List.replicate 257 0)).wf = false ∧ (Instr.xlateInvalWrite .fm 4096 []).wf = false ∧
    (Instr.decoderWrite 0 0 (List.replicate 65 0)).wf = false ∧ (Instr.decoderWrite 0 8 []).wf = false ∧
    (Instr.meterWrite 0 false (List.replicate 65 0)).wf = false ∧
    (Instr.transferFw 0 { slot := 256, first := true, last := true, offset := 0, data := [] }).wf = false ∧
    (Instr.clearEventRecords 0 false [2 ^ 16]).wf = false ∧ (Instr.swardMoveDone 0 [65536]).wf = false := by decide +kernel

theorem test_numbers_out_of_range_are_refused_1 : ∀ c ∈ [
    Instr.powerOn 8 0, .resetNReleased 0 16, .thermalEvaluation 0 (2 ^ 16), .refreshIssue 16 0,
    .refreshIssue 0 32, .coreEnableWrite .fm 2, .logAckWrite .fm (2 ^ 32), .domainReset (2 ^ 32), .calibrationDone 16 .pass,
    .boardNumberWrite 256, .reservedOpcodeMessage goodReq 256, .biConflict 4 0, .biConflict 0 (2 ^ 36), .meterRedRelease 4096 true,
    .laneOrder 32 0, .laneOrder 0 16, .holdQueueRelease 32, .reservationStart 0 128, .reserveLimitExpiry (2 ^ 36),
    .snoopTagFree (2 ^ 16), .transactionTimeout (.host 4) 0, .sliceRecallDone 33, .agentNumberWrite (.host 0) 256,
    .descriptorFetch 0 16 {}, .faultHeadWrite .fm 0 (2 ^ 16), .xlateRootWrite .fm 0 (2 ^ 64), .retry 0 (2 ^ 16) {},
    .pitchActivate 4096, .servingWrite 0 2, .handoverLimitExpiry 65536, .regionDestroyMessage 24 0 0 0,
    .regionDestroyMessage 0 0 8 0, .clearLine 0 (2 ^ 36), .wbEvict 512 0 {}, .pegInstruction 0 64 {}, .rpCfg 512 0,
    .kernelEnd 512, .chunkFillDone 0 24 {}, .stageFill 65536 0 {}, .bivouacFailure 528, .masterPosWrite 8,
    .switchAtWrite (2 ^ 64), .timeFrame 0 0 0 0 16 false false], c.wf = false := by decide +kernel

theorem test_numbers_out_of_range_are_refused_2 : ∀ c ∈ [
    Instr.viewReadServe 32 {}, .engineFailure .tinder 16 0, .engineFailure .stack 0 0, .ovfBucketReturn (2 ^ 32) {},
    .linkTrained 0 10, .linkInfo 24 0 0 0 0, .badFrame 24 .crc, .laneFailure 0 9, .utxonEnableWrite .fm 0 2, .hostLinkUp 0 17,
    .hostLinkDown 4, .hostEnableWrite .fm 0 2, .ideKeySet 0 2, .activateFw 0 256 false, .setTimestamp 0 (2 ^ 64),
    .mailboxUnsupported 0 (2 ^ 16), .activateWrite .fm 256, .stageImageClosed .fm (.window 64) 0 [], .watchdogExpiry 8,
    .collFlagReceived ⟨0, 0, 0⟩ 65536 {}, .macAddressWrite (2 ^ 64), .revoke 256, .svnFloorWrite 3 0, .svnFloorWrite 0 65536,
    .fullStripeHoldExpiry (2 ^ 30), .testArmWrite 2, .groundsheetBaseWrite (2 ^ 64), .scrubLine 16 0 0,
    .controllerIssue 0 (2 ^ 30) 0, .channelRetire 0 32, .rebuildLine 16 0, .requestAged 16 0, .urgentCapWrite (2 ^ 64),
    .fenceBivouac 528, .fenceStack 16, .fenceUtxonPort 24, .fenceHostPort 4, .fenceKettleCore 8, .fenceSlice 33,
    .fenceEngine .clover 32, .fenceEngine .slice 0, .unfencePort .stack 0, .unfencePort .utxon 24, .selfTestDone .heather 64 true,
    .agentFenceSet 64, .stileBreak 65536, .clearRange (2 ^ 32), .cxlIoCompletion 4 0 ⟨.ok, 0⟩ {},
    .lodgedDescriptorCreate 0 0 0 (2 ^ 24) false 3, .lodgedDescriptorCreate 0 0 0 1 false 4, .railInRange 11], c.wf = false := by
  decide +kernel

/-! ### Single values against the manual's worked examples -/

/-- The worked example of 06_stacked_memory: GROUNDSHEET_BASE 0x080_0000_0000 and local offset 0x090_0000_1C40. -/
theorem test_a_protected_line_lies_where_the_example_says :
    let s := up.setReg E.eccGroundsheetBase 0x08000000000
    s.home (0x09000001C40 / 64) = .prot 71582795 12 8 608453707 ∧ 71582795 % 16 = 11 ∧ channelOf 608453707 = 11 ∧
      bankOf 608453707 = 11 + 64 * 8 := by decide +kernel

/-- The worked example of 04_directory: the slice, the lane and the set of line 0x0_1234_5640. -/
theorem test_a_line_has_the_slice_lane_and_set_of_the_example :
    homeSlice (0x12345640 / 64) = 18 ∧ homeLane (0x12345640 / 64) = 4 ∧ homeSet (0x12345640 / 64) = 0x2468A := by decide +kernel

/-- The worked example of 03_translation: the indices of 0x123_4567_89AB_CDEF and the fields of its leaf. -/
theorem test_a_virtual_address_has_the_indices_of_the_example :
    (List.range 4).map (levelIndex 0x123456789ABCDEF) = [2475, 2876, 2257, 2] ∧
      live.badEntry 0x00000001E000001B 0 = false := by decide +kernel

/-- The worked example of 05_memory_model: the lock at pool address 0xFFC_0000_48C0 of device 3. -/
theorem test_the_lock_of_the_example :
    bits 0xFFC000048C0 51 42 = 3 ∧ targetOf (bits 0xFFC000048C0 41 0) = .stile ∧ bits 0xFFC000048C0 21 6 = 0x123 := by
  decide +kernel

/-- The worked example of 08_commands_and_campfire: the doorbell of pitch 300, ring 2, and the fields of word 0. -/
theorem test_the_doorbell_and_the_descriptor_of_the_example :
    targetOf (bits 0x17F40012C080 41 0) = .doorbells ∧ bits 0x17F40012C080 23 12 = 300 ∧ bits 0x17F40012C080 9 6 = 2 ∧
      (let d := descOf [0x0002001100008D02, 1000000000, 0x08400004] .scheduler
       d.opcode = 2 ∧ d.bclass = 3 ∧ d.timed = true ∧ d.fld 0 47 32 = 17 ∧ d.fld 0 63 48 = 2 ∧ d.launch = 1000000000) := by
  decide +kernel

/-- The worked example of 09_factored_views: 4,096 by 4,096 at rank 128 with BF16 factors and target. -/
theorem test_the_stream_and_the_row_pitch_of_the_example :
    vecBytes 8 128 = 256 ∧ segmentsOf 8 128 4096 = 256 ∧ streamBytes 8 128 4096 = 1049664 ∧
      ({ n := 4096, tfmt := 8 } : View).rowPitch = 8192 := by decide +kernel

/-- The worked example of 10_embeddings_optimizer: the place of row 12,345,678 in eight shards of 1,024-row blocks. -/
theorem test_the_row_of_the_example_lies_in_shard_0 :
    localBlocks 50000000 1024 8 0 = 6104 ∧ localBlocks 50000000 1024 8 5 = 6103 ∧
      ({ words := [BitVec.ofNat 64 (50000000 + 60 * 2 ^ 40 + 2 * 2 ^ 53), BitVec.ofNat 64 (1024 + 8 * 2 ^ 24 + 64 * 2 ^ 32)],
         shards := List.replicate 8 0 } : Table).place 12345678 = (0, 1543502, 98784128) := by decide +kernel

/-- The same example: a row from −0.8125 to 1.1875 in Q8 has OFFSET −0.8125, SCALE 1,029 · 2^−17, and 0.3125 as 143. -/
theorem test_the_row_of_the_example_is_requantised :
    quantRow 2 [0xBF500000, 0x3F980000, 0x3EA00000] = some [0x05, 0x20, 0x80, 0xBA, 0, 255, 143] ∧
      rowElem 2 2 [0x05, 0x20, 0x80, 0xBA, 0, 255, 143] = (fp32.encode .rne (.fin false 40651 (-17))).1 := by decide +kernel

/-- The worked example of 07_bivouac_compute: 2^24 + 75 rounds to 16,777,292, which RP.STORE writes in E4M3 as 0x78 with
scale byte 143. -/
theorem test_the_output_element_of_the_example :
    accumulate 0x4B800000 (.fin false 75 0) = 0x4B800026 ∧ fp32.decode 0x4B800026 = .fin false 8388646 1 ∧
      mxBlock 4 [.fin false 16777292 0] = (143, [0x78]) := by decide +kernel

/-- The worked example of 11_vector_search: the areas of an index, its entries per bucket and the keys that are probed. -/
theorem test_the_index_of_the_example :
    vecStride 8 768 = 1536 ∧ bucketArea 20 65536 30000000 = 4683403264 ∧ ({ params := 2 ^ 8 } : Index).slots = 42 ∧
      (probeKeys 20 0x3A5C1 21).take 4 = [0x3A5C1, 0x3A5C0, 0x3A5C3, 0x3A5C5] ∧ (probeKeys 20 0x3A5C1 21).getLast? = some 0xBA5C1 := by
  decide +kernel

/-- The worked example of 12_utxon_and_host_ports: SEQ 4,094 is a duplicate of what a receiver that expects 2 has. -/
theorem test_the_duplicate_of_the_example : seqSub 12 4094 2 = 4092 := by decide +kernel

/-- The worked example of 13_budgets_and_metering: the left side of R385 on stack 5, and HEADROOM. -/
theorem test_the_headroom_of_the_example :
    let s := live.setRegs [(E.clsClassSlots 1 5, 16000), (E.clsClassSlots 2 5, 6000), (E.eccRebuildSlots, 4096),
      (E.pitchServing 3, 1), (E.pitchServing 4, 1), (E.pitchReservedSlots 3, 1312), (E.pitchReservedSlots 4, 1312)]
    s.trailLeft 5 = 32880 ∧ s.headroom 5 = 1584 ∧ s.refreshSlots 5 = 4608 := by decide +kernel

/-- The worked example of 14_kettle_firmware: the scratch area that ALL_REDUCE over MESH needs. -/
theorem test_the_scratch_area_of_the_example :
    ({ d := collDesc 0x52, g := { group0 0 0 with members := List.range 8, chunk := 2 ^ 24 }, me := 0, run := run0 0 false [] } :
      CollInfo).needed = 58720768 := by decide +kernel

/-- The worked example of 15_dictionary: the response items of BOARD_POS 3 and LOCK_STATE LOCKED. -/
theorem test_the_read_of_the_example :
    ((live.setRegs [(E.idBoardPos, 3), (E.campLockState, 2)]).readItems .bm [⟨0x1000, 0x20⟩, ⟨0x2010, 0x02⟩]).2 =
      [0x00, 0x10, 0x20, 0x01, 3, 0, 0, 0, 0x10, 0x20, 0x02, 0x07, 2, 0, 0, 0] := by decide +kernel

/-- The same example: BOARD_NUMBER is not the BM's to write, TIME_ENABLE is. -/
theorem test_the_rights_of_the_example :
    mayWrite .bm 0x1000 0x22 = false ∧ mayWrite .bm 0x2010 0x03 = true := by decide +kernel

end Sys2Proof.Tests
end

section
/-! Proofs for 00_scope: what a step is, and what every step keeps (R7, R447, R463, R465, R473). -/

namespace Sys2Proof.Proofs

open Sys2Proof.Machine Sys2Proof.Laws

/-! ### The step -/

section Step

variable {s : State}

theorem step_of_pending_nil (h : s.pending = []) : step s = s.run State.tick := by
  simp only [step, h]

theorem step_of_pending_cons {c : Instr} {rest : List Instr} (h : s.pending = c :: rest) :
    step s = exec c { s with pending := rest } := by
  simp only [step, h]

/-- Every step, of a command or of the clock, ends by closing some state over the queue without its front. -/
theorem step_closes (s : State) : ∃ u, step s = .next (State.close { s with pending := s.pending.tail } u) := by
  cases h : s.pending with
  | nil =>
    have hs : { s with pending := [] } = s := by rw [← h]
    exact ⟨_, by rw [step_of_pending_nil h, run_eq, List.tail_nil, hs]⟩
  | cons c rest =>
    obtain ⟨u, hu⟩ := exec_closes c { s with pending := rest }
    exact ⟨u, by rw [step_of_pending_cons h, hu, List.tail_cons]⟩

/-- Of several steps the first, where it gives a next state, leaves the others to be run from there. -/
theorem core_run_succ (M : Host.Core) {s t : M.State} (h : M.step s = .next t) (n : Nat) : M.run (n + 1) s = M.run n t := by
  rw [Host.Core.run, h]

/-- As many steps as commands wait at the front all succeed, and take exactly those commands from the queue. -/
theorem run_takes_pending (cs rest : List Instr) (s : State) (h : s.pending = cs ++ rest) :
    ∃ t, (Sys2Proof.core.run cs.length s : Host.Outcome State Fault Refusal) = .next t ∧ t.pending = rest := by
  induction cs generalizing s with
  | nil => exact ⟨s, rfl, h⟩
  | cons c cs ih =>
    obtain ⟨u, hu⟩ := step_closes s
    have hp : (State.close { s with pending := s.pending.tail } u).pending = cs ++ rest := by simp [h]
    obtain ⟨t, ht, hrest⟩ := ih _ hp
    exact ⟨t, (core_run_succ Sys2Proof.core hu _).trans ht, hrest⟩

end Step

/-! ### The fuses (R463, R465) -/

/-- From `f` to `g` no identity has changed, keys have at most become REVOKED, and no floor has fallen. -/
structure FusesAdvance (f g : Fuses) : Prop where
  serial : g.serial = f.serial
  dateCode : g.dateCode = f.dateCode
  lifecycle : g.lifecycle = f.lifecycle
  deviceCert : g.deviceCert = f.deviceCert
  keys : g.keys = f.keys
  keyState : ∀ k, SMap.get (fun _ => 0) g.keyState k = SMap.get (fun _ => 0) f.keyState k ∨
    SMap.get (fun _ => 0) g.keyState k = 2
  floor : ∀ c, SMap.get (fun _ => 0) f.svnFloor c ≤ SMap.get (fun _ => 0) g.svnFloor c

namespace FusesAdvance

theorem refl (f : Fuses) : FusesAdvance f f :=
  ⟨rfl, rfl, rfl, rfl, rfl, fun _ => .inl rfl, fun _ => Nat.le_refl _⟩

theorem trans {f g h : Fuses} (hfg : FusesAdvance f g) (hgh : FusesAdvance g h) : FusesAdvance f h where
  serial := hgh.serial.trans hfg.serial
  dateCode := hgh.dateCode.trans hfg.dateCode
  lifecycle := hgh.lifecycle.trans hfg.lifecycle
  deviceCert := hgh.deviceCert.trans hfg.deviceCert
  keys := hgh.keys.trans hfg.keys
  keyState k := by
    rcases hgh.keyState k with he | h2
    · rw [he]; exact hfg.keyState k
    · exact .inr h2
  floor c := Nat.le_trans (hfg.floor c) (hgh.floor c)

/-- Programming one fuse: a revocation sets 2, and a floor rises to the greater value. -/
theorem burn (f : Fuses) (b : Burn) : FusesAdvance f (f.burn b) := by
  cases b with
  | revoke k =>
    refine { refl f with keyState := fun j => ?_ }
    simp only [Fuses.burn, smap_get_set]
    split
    case isTrue => exact .inr rfl
    case isFalse => exact .inl rfl
  | floor c v =>
    refine { refl f with floor := fun d => ?_ }
    simp only [Fuses.burn, smap_get_set]
    split
    case isTrue hd => rw [hd]; exact Nat.le_max_left _ _
    case isFalse => exact Nat.le_refl _

theorem burns (f : Fuses) (l : List Burn) : FusesAdvance f (l.foldl Fuses.burn f) :=
  List.foldlRecOn l Fuses.burn (refl f) fun _ hg b _ => hg.trans (burn _ b)

theorem programmed (f : Fuses) : FusesAdvance f f.programmed := { burns f f.burning with }

/-- The close of a command only advances what had been programmed before it. -/
theorem close (s u : State) : FusesAdvance s.fuses.programmed (s.close u).fuses := by
  rw [close_fuses]
  exact burns _ _

end FusesAdvance

/-- A command's close leaves no programming in progress. -/
theorem close_fuses_programmed (s u : State) : (s.close u).fuses.programmed = (s.close u).fuses := rfl

theorem close_keyAt (s u : State) (k : Nat) :
    (s.close u).fuses.keyAt k = s.fuses.keyAt k ∨ (s.close u).fuses.keyAt k = 2 := by
  rw [Fuses.keyAt, Fuses.keyAt, close_fuses_programmed]
  exact (FusesAdvance.close s u).keyState k

theorem close_floorAt (s u : State) (c : Nat) : s.fuses.floorAt c ≤ (s.close u).fuses.floorAt c := by
  rw [Fuses.floorAt, Fuses.floorAt, close_fuses_programmed]
  exact (FusesAdvance.close s u).floor c

/-! ### The pins (R471, R473, R533) -/

/-- Every command but those of the pins is an operation under the frame that holds RESET_N and the TAP. -/
theorem exec_run_of_not_pin {c : Instr} (h : ¬ PinCommand c) (s : State) : ∃ f, exec c s = s.run f := by
  unfold PinCommand at h
  unfold exec
  cases c
  case powerOn b i => exact absurd (.inl ⟨b, i, .inl rfl⟩) h
  case resetNReleased b i => exact absurd (.inl ⟨b, i, .inr rfl⟩) h
  case samplePreload bs => exact absurd (.inr (.inl ⟨bs, rfl⟩)) h
  case powerLoss | resetNAsserted | jtagBypass | idcode | extest | highz | clamp | stopReq | tapReset => simp at h
  all_goals exact ⟨_, rfl⟩

theorem run_keeps_pins {s t : State} {f : State → State} (h : s.run f = .next t) :
    t.jtag = s.jtag ∧ t.power.resetN = s.power.resetN := by
  rw [run_eq] at h
  cases h
  exact ⟨rfl, rfl⟩

/-! ### One CCLK (R254, R489) -/

section Clock

variable (s : State)

/-- A fold of operations that leave time alone leaves it alone. -/
theorem foldl_camp {α : Type} (f : State → α → State) (hf : ∀ s a, (f s a).camp = s.camp) (l : List α) (s : State) :
    (l.foldl f s).camp = s.camp :=
  List.foldlRecOn (motive := fun t => t.camp = s.camp) l f rfl fun t ht a _ => (hf t a).trans ht

@[simp] theorem markEligible_camp : s.markEligible.camp = s.camp := rfl

@[simp] theorem countStalls_camp : s.countStalls.camp = s.camp :=
  foldl_camp _ (fun _ _ => bump_camp _ _) _ _

@[simp] theorem bumpBiv_camp (b : Nat) (k : Nat → Nat) (n : Nat) : (s.bumpBiv b k n).camp = s.camp := by
  unfold State.bumpBiv
  split <;> rfl

@[simp] theorem countBiv_camp (b : Nat) (x : Biv) : (s.countBiv b x).camp = s.camp := by
  unfold State.countBiv
  cases x.kernel <;> cases x.rpBusy <;> simp

@[simp] theorem foldl_countBiv_camp (l : SMap Biv) : (l.foldl (fun s e => s.countBiv e.1 e.2) s).camp = s.camp :=
  foldl_camp _ (fun s e => countBiv_camp s e.1 e.2) l s

@[simp] theorem countBusy_camp : s.countBusy.camp = s.camp := by
  unfold State.countBusy
  refine (foldl_camp _ (fun s k => ?_) _ _).trans (foldl_camp _ (fun s u => ?_) _ _)
  · split <;> rfl
  · split
    · cases busyKey _ _ <;> rfl
    · rfl
    · rfl

@[simp] theorem countDuty_camp : s.countDuty.camp = s.camp := by
  unfold State.countDuty
  split <;> rfl

@[simp] theorem negotiate_camp : s.negotiate.camp = s.camp := rfl

@[simp] theorem settleColl_camp : s.settleColl.camp = s.camp := rfl

@[simp] theorem setCore_camp (k st role : Nat) : (s.setCore k st role).camp = s.camp := setRegs_camp s _

@[simp] theorem loadColl_camp : s.loadColl.camp = s.camp := by
  simp only [State.loadColl, settleColl_camp, negotiate_camp]
  refine foldl_camp _ (fun s k => ?_) _ _
  split
  · exact setCore_camp s k 1 0
  · rfl

@[simp] theorem pumpColl_camp : s.pumpColl.camp = s.camp := by
  unfold State.pumpColl
  split
  · exact loadColl_camp s
  · rfl

@[simp] theorem fillMeters_camp : s.fillMeters.camp = s.camp := rfl

@[simp] theorem shiftLeases_camp (d : Int) : (s.shiftLeases d).camp = s.camp := rfl

/-- A Campfire tick moves the Campfire count, never CCLK_NOW. -/
@[simp] theorem tickCount_cclk (c : CampSt) : c.tickCount.cclk = c.cclk := by
  unfold CampSt.tickCount
  split
  · rfl
  · split
    · rfl
    · split <;> rfl

theorem cclkTick_cclk (c : CampSt) : c.cclkTick.cclk = (c.cclk + 1) % 2 ^ 64 := by
  simp only [CampSt.cclkTick]
  split
  · rfl
  · rw [tickCount_cclk]

theorem advanceTime_cclk : s.advanceTime.cclk = (s.cclk + 1) % 2 ^ 64 := by
  rw [State.cclk, State.cclk, ← cclkTick_cclk]
  simp only [State.advanceTime]
  split <;> split <;> rfl

/-- On a running device one CCLK raises CCLK_NOW by one, modulo 2^64. -/
theorem tick_cclk (h : s.running = true) : s.tick.cclk = (s.cclk + 1) % 2 ^ 64 := by
  simp only [State.tick, h, if_true, advanceTime_cclk]
  simp [State.cclk]

end Clock

/-! ### The obligations -/

/-- Settles O1: a step is the front command or one CCLK by definition; what rises in that CCLK is `tick_cclk`. -/
theorem stepsTakeTheFrontCommandOrOneTick : Obligations.StepsTakeTheFrontCommandOrOneTick := by
  unfold Obligations.StepsTakeTheFrontCommandOrOneTick
  refine ⟨fun c s => step_of_pending_cons rfl, fun s h => ?_, rfl, rfl, rfl⟩
  exact ⟨_, (step_of_pending_nil h).trans (run_eq s _), h, tick_cclk s.front⟩

/-- Settles O2: every step closes some state over the queue, the outputs and the fuses, so the queue only loses its
front, outputs are only added, and fuses only advance; all commands but those of the pins go through `State.run`. -/
theorem queuedCommandsCompleteAndFusesOnlyMoveOneWay : Obligations.QueuedCommandsCompleteAndFusesOnlyMoveOneWay := by
  unfold Obligations.QueuedCommandsCompleteAndFusesOnlyMoveOneWay
  refine ⟨fun s cs rest h => run_takes_pending cs rest s h, fun s t h => ?_, fun c s t hc h => ?_⟩
  · obtain ⟨u, hu⟩ := step_closes s
    rw [hu] at h
    cases h
    have hf := (FusesAdvance.programmed s.fuses).trans (FusesAdvance.close { s with pending := s.pending.tail } u)
    exact ⟨List.suffix_append _ _, hf.serial, hf.dateCode, hf.lifecycle, hf.deviceCert, hf.keys,
      close_keyAt _ u, close_floorAt _ u⟩
  · obtain ⟨f, hf⟩ := exec_run_of_not_pin hc s
    exact run_keeps_pins (hf ▸ h)

end Sys2Proof.Proofs
end

section
/-! Proofs for 03_translation: invalidations are taken one at a time, roots drop cached entries, and flushes end (R80,
R93, R95, R98, R141). -/

namespace Sys2Proof.Proofs.Translation

open Sys2Proof.Machine Sys2Proof.Laws

variable {s : State}

/-! ### The end of a command -/

/-- What a command of the block leaves of the state `u` that its operation gives. -/
def ended (s u : State) : State :=
  s.close { u with jtag := s.jtag, power := { u.power with resetN := s.power.resetN } }

section Ended

variable (s u : State)

@[simp] theorem ended_reg (k : Nat) : (ended s u).reg k = u.reg k := rfl
@[simp] theorem ended_work : (ended s u).work = u.work := rfl
@[simp] theorem ended_mem : (ended s u).mem = u.mem := rfl

end Ended

/-- A command whose operation gives `u` completes with what its end leaves of `u`. -/
theorem completes_ended {c : Instr} {P : State → Prop} {f : State → State} {u : State} (hc : exec c s = s.run f)
    (hu : f s.front = u) (hp : P (ended s u)) : Completes c s P := by
  subst hu
  exact run_completes hc hp

/-! The operation of each command of this file. -/

section Operations

variable (s) (id : DescId) (role : Role) (p v : Nat)

theorem exec_xlateInvalidate : exec (.xlateInvalidate id) s = s.run fun s => s.opXlateInvalidate id := rfl

theorem exec_xlateInvalWrite (b : List Byte) : exec (.xlateInvalWrite role p b) s =
    s.run fun s => s.when (wfPitch p) fun s => s.blockWrite role (E.pitchXlateInval p) b := rfl

theorem exec_invalidationDone : exec (.invalidationDone p) s = s.run fun s => s.opInvalidationDone p := rfl

theorem exec_xlateRootWrite : exec (.xlateRootWrite role p v) s =
    s.run fun s => s.when (wfPitch p) fun s => s.rowWrite role (E.pitchXlateRoot p) v := rfl

theorem exec_faultRingBaseWrite : exec (.faultRingBaseWrite role p v) s =
    s.run fun s => s.when (wfPitch p) fun s => s.rowWrite role (E.pitchFaultRingBase p) v := rfl

theorem exec_flushRange (env : Env) : exec (.flushRange id env) s = s.run fun s => s.opFlushRange id env := rfl

theorem exec_flushRangeDone : exec (.flushRangeDone id) s = s.run fun s => s.opFlushRangeDone id := rfl

end Operations

/-- A command whose operation writes one register changes that register only. -/
theorem regsOnly_ended_setReg (s : State) (k v : Nat) : RegsOnly [k] s (ended s (s.front.setReg k v)) := by
  refine ⟨by simp [ended, State.close, State.setReg, State.front, Fuses.programmed], fun j hj => ?_⟩
  simp [List.ne_of_not_mem_cons hj]

/-! ### Writes of a pitch's entries (R99, R440 to R445) -/

section PitchEntries

variable {role : Role} {p sub v : Nat}

theorem pitchKey_index (h : sub < 256) : ekey (0x4000 + p) sub / 256 = 0x4000 + p := by
  unfold ekey; omega

theorem pitchKey_sub (h : sub < 256) : ekey (0x4000 + p) sub % 256 = sub := by
  unfold ekey; omega

theorem rowsOf_pitch (hp : wfPitch p = true) : rowsOf (0x4000 + p) = rows4000 := by
  have hlt : p < 4096 := by simpa [wfPitch] using hp
  have h1 : 0x4000 + p < 0x7210 := by omega
  have h2 : ¬ 0x4000 + p < 0x3400 := by omega
  have h3 : 0x4000 + p < 0x6300 := by omega
  have h4 : 0x4000 + p < 0x6000 := by omega
  have h5 : ¬ 0x4000 + p = 0x3400 := by omega
  have h6 : ¬ 0x4000 + p = 0x3800 := by omega
  have h7 : 0x4000 ≤ 0x4000 + p ∧ 0x4000 + p < 0x4000 + 4096 := by omega
  rw [rowsOf, if_pos h1, if_neg h2, if_pos h3, if_pos h4, if_neg h5, if_neg h6, if_pos h7]

theorem entryRow_pitch (hp : wfPitch p = true) (sub : Nat) :
    entryRow (0x4000 + p) sub = rows4000.find? fun r => r.lo ≤ sub && sub ≤ r.hi := by
  rw [entryRow, rowsOf_pitch hp]

theorem putValue_pitch (hp : wfPitch p = true) : s.putValue role (0x4000 + p) sub v = s.writePitch p sub v := by
  have hlt : p < 4096 := by simpa [wfPitch] using hp
  have h1 : ¬ 0x4000 + p < 0x3000 := by omega
  have h2 : ¬ 0x4000 + p < 0x4000 := by omega
  have h3 : 0x4000 + p < 0x5000 := by omega
  rw [State.putValue, if_neg h1, if_neg h2, if_pos h3, Nat.add_sub_cancel_left]

/-- A permitted write of a value that an entry of a pitch can hold goes to the entry's own rule, and nothing waits for
its response where that rule leaves the dictionary's state alone. -/
theorem rowWrite_pitch (hp : wfPitch p = true) (hs : Served s) (hr : mayWrite role (0x4000 + p) sub = true)
    (hsub : 0 < sub ∧ sub < 256) {r : ERow} (he : (rows4000.find? fun r => r.lo ≤ sub && sub ≤ r.hi) = some r)
    (hty : r.ty ≠ 9 ∧ r.ty ≠ 10) (hv : inRange v r.vmin r.vmax = true)
    (hd : (s.writePitch p sub v).dict = s.dict) :
    s.rowWrite role (ekey (0x4000 + p) sub) v = s.writePitch p sub v := by
  have hi := pitchKey_index (p := p) hsub.2
  have hj := pitchKey_sub (p := p) hsub.2
  rw [rowWrite_eq (servesEntry_of_served hs _ _) (by rw [hi, hj]; exact hr)
    (by rw [hi, hj, entryRow_pitch hp, he]) (by rw [hj]; omega) hty hv, hi, hj, putValue_pitch hp]
  exact answered_of_dict hd

theorem writeBlock_xlateInval (hp : wfPitch p = true) (b : List Byte) :
    s.writeBlock (0x4000 + p) 0x28 b = s.writeXlateInval p b := by
  have hlt : p < 4096 := by simpa [wfPitch] using hp
  have hin : 0x4000 ≤ 0x4000 + p ∧ 0x4000 + p < 0x5000 := by omega
  unfold State.writeBlock
  rw [if_pos hin, Nat.add_sub_cancel_left]
  rfl

/-- A permitted write of the 32 B image goes to XLATE_INVAL's own rule (R93). -/
theorem blockWrite_xlateInval {b : List Byte} (hp : wfPitch p = true) (hs : Served s)
    (hr : mayWrite role (0x4000 + p) 0x28 = true) (hb : b.length = 32) :
    s.blockWrite role (E.pitchXlateInval p) b = s.writeXlateInval p b := by
  have hi : E.pitchXlateInval p / 256 = 0x4000 + p := pitchKey_index (by decide)
  have hj : E.pitchXlateInval p % 256 = 0x28 := pitchKey_sub (by decide)
  have he : entryRow (0x4000 + p) 0x28 = some ⟨40, 40, 10, 40, 0, 0, 32, false⟩ := entryRow_pitch hp 0x28
  simp [State.blockWrite, State.asWriter, hi, hj, servesEntry_of_served hs, hr, he, hb, State.writeWhen,
    writeBlock_xlateInval hp]

end PitchEntries

/-! ### Roots and ring bases (R80, R98) -/

section Roots

variable (s : State) (p v : Nat)

@[simp] theorem writeXlateRoot_reg (k : Nat) :
    (s.writeXlateRoot p v).reg k = if k = E.pitchXlateRoot p then v else s.reg k := setReg_reg ..

/-- A root keeps no cached entry of its pitch, and every entry of another. -/
@[simp] theorem writeXlateRoot_work : (s.writeXlateRoot p v).work =
    { s.work with xcache := s.work.xcache.filter fun e => e.1 / 2 ^ 50 != p } := rfl

@[simp] theorem writeXlateRoot_mem : (s.writeXlateRoot p v).mem = s.mem := rfl

variable {s p}

theorem writeFaultBase_idle (h : s.reg (E.pitchFaultTail p) = s.reg (E.pitchFaultDone p) ∧ s.faultWaiting p = 0) :
    s.writeFaultBase p v = s.setReg (E.pitchFaultRingBase p) v := by
  simp [State.writeFaultBase, State.writeWhen, h]

theorem writeFaultBase_busy
    (h : ¬ (s.reg (E.pitchFaultTail p) = s.reg (E.pitchFaultDone p) ∧ s.faultWaiting p = 0)) :
    s.writeFaultBase p v = s.ignoreWrite := by
  simp [State.writeFaultBase, State.writeWhen, h]

theorem writeFaultBase_dict : (s.writeFaultBase p v).dict = s.dict := by
  unfold State.writeFaultBase State.writeWhen
  split <;> rfl

end Roots

/-! ### Taking an invalidation (R93 step 1, R95) -/

section Taking

variable (s) (v : Inval)

/-- The invalidation waits behind another of its pitch, and is otherwise taken, with every node pointer of the pitch
gone from the cache. -/
def TakenOrWaits (s : State) (v : Inval) (t : State) : Prop :=
  if (s.work.invals.any fun x => x.pitch == v.pitch) = true then t.work.invals = s.work.invals ++ [v]
  else t.work.invals = s.work.invals ++ [{ v with taken := true }] ∧
    ∀ e ∈ t.work.xcache, e ∈ s.work.xcache ∧ ¬ (e.1 / 2 ^ 50 = v.pitch ∧ bitOf e.2.toNat 1 = false)

/-- Queueing an invalidation changes the work alone. -/
theorem queueInval_eq : s.queueInval v = { s with work := (s.queueInval v).work } := by
  unfold State.queueInval
  dsimp only
  split <;> rfl

@[simp] theorem queueInval_mem : (s.queueInval v).mem = s.mem := by rw [queueInval_eq]
@[simp] theorem queueInval_dir : (s.queueInval v).dir = s.dir := by rw [queueInval_eq]
@[simp] theorem queueInval_reg (k : Nat) : (s.queueInval v).reg k = s.reg k := by rw [queueInval_eq, reg_of_regs]

variable {s v}

/-- What is left in the cache once an invalidation is taken was there, and is no node pointer of its pitch. -/
theorem mem_takeInval_xcache {e : Nat × Word} (h : e ∈ (s.takeInval v).work.xcache) :
    e ∈ s.work.xcache ∧ ¬ (e.1 / 2 ^ 50 = v.pitch ∧ bitOf e.2.toNat 1 = false) := by
  obtain ⟨hmem, hkept⟩ := List.mem_filter.mp (show e ∈ s.work.xcache.filter _ from h)
  refine ⟨hmem, fun ⟨hpitch, hnode⟩ => ?_⟩
  simp [hnode] at hkept
  exact hkept hpitch

/-- Replacing the last element changes no earlier one that differs from it. -/
theorem map_replace_last {α : Type} [DecidableEq α] {l : List α} {a b : α} (h : a ∉ l) :
    ((l ++ [a]).map fun x => if x = a then b else x) = l ++ [b] := by
  have hl : (l.map fun x => if x = a then b else x) = l :=
    (List.map_congr_left fun x hx => if_neg (ne_of_mem_of_not_mem hx h)).trans (List.map_id' l)
  simp [hl]

theorem queueInval_takenOrWaits (s : State) (v : Inval) : TakenOrWaits s v (s.queueInval v) := by
  by_cases hbusy : (s.work.invals.any fun x => x.pitch == v.pitch) = true
  · simp [TakenOrWaits, State.queueInval, hbusy]
  · have hnew : v ∉ s.work.invals := fun hv => hbusy (List.any_eq_true.mpr ⟨v, hv, by simp⟩)
    rw [TakenOrWaits, if_neg hbusy, State.queueInval, if_neg hbusy]
    exact ⟨map_replace_last hnew, fun e he => mem_takeInval_xcache he⟩

end Taking

/-- XLATE_INVALIDATE of a legal range starts its descriptor and queues the invalidation (R246). -/
theorem opXlateInvalidate_legal {id : DescId} {d : Desc} (h : s.desc id = some d) (hop : d.opcode = 0x10)
    (hph : d.phase = .walking) (hl : invalLegal (d.word 4) (d.word 5) = true) :
    s.opXlateInvalidate id = (s.setDesc { d with phase := .running, start := some s.now }).queueInval
      { pitch := if id.pitch = 0 then d.fld 8 27 16 else id.pitch, va := d.word 4, pages := d.word 5, owner := some id
        taken := false } := by
  simp [State.opXlateInvalidate, h, hop, hph, hl]

/-- An image with room in the queue is queued where its range is legal, and is otherwise only counted as complete. -/
theorem writeXlateInval_room {p : Nat} {b : List Byte} (hb : b.length = 32) (hroom : s.invalPending p < 15) :
    s.writeXlateInval p b =
      if invalLegal (leNat (b.take 8)) (leNat ((b.drop 8).take 8)) = true then
        s.queueInval { pitch := p, va := leNat (b.take 8), pages := leNat ((b.drop 8).take 8), owner := none
                       taken := false }
      else s.setReg (E.pitchInvalDone p) ((s.reg (E.pitchInvalDone p) + 1) % 2 ^ 32) := by
  simp [State.writeXlateInval, hb, Nat.ne_of_lt hroom]

/-! ### The end of an invalidation (R93 step 4, R95) -/

section Ending

/-- Deciding a descriptor changes the descriptors alone. -/
theorem decideDesc_eq (s : State) (d : Desc) (o : DescOut) : s.decideDesc d o =
    { s with work := { s.work with descs := (s.decideDesc d o).work.descs } } := by
  unfold State.decideDesc
  split <;> rfl

/-- The state without an invalidation. -/
def withoutInval (s : State) (v : Inval) : State :=
  { s with work := { s.work with invals := s.work.invals.filter fun x => x != v } }

@[simp] theorem withoutInval_reg (v : Inval) (k : Nat) : (withoutInval s v).reg k = s.reg k := rfl

/-- The end of an invalidation for its owner: it is counted, or completes its descriptor if that is still there. -/
def completeInval (s : State) (p : Nat) (v : Inval) : State :=
  match v.owner with
  | some id =>
    match s.desc id with
    | some d => s.decideDesc d { status := 0 }
    | none => s
  | none => s.setReg (E.pitchInvalDone p) ((s.reg (E.pitchInvalDone p) + 1) % 2 ^ 32)

/-- The end of an invalidation changes registers and descriptors alone. -/
theorem completeInval_eq (s : State) (p : Nat) (v : Inval) : completeInval s p v =
    { s with regs := (completeInval s p v).regs
             work := { s.work with descs := (completeInval s p v).work.descs } } := by
  cases ho : v.owner with
  | none => simp only [completeInval, ho, State.setReg]
  | some id =>
    cases hd : s.desc id with
    | none => simp only [completeInval, ho, hd]
    | some d =>
      simp only [completeInval, ho, hd]
      rw [decideDesc_eq]

theorem completeInval_dictionary {p : Nat} {v : Inval} (h : v.owner = none) : completeInval s p v =
    s.setReg (E.pitchInvalDone p) ((s.reg (E.pitchInvalDone p) + 1) % 2 ^ 32) := by
  simp [completeInval, h]

theorem completeInval_ring_reg {p : Nat} {v : Inval} {id : DescId} (h : v.owner = some id) (k : Nat) :
    (completeInval s p v).reg k = s.reg k := by
  cases hd : s.desc id with
  | none => simp [completeInval, h, hd]
  | some d =>
    simp only [completeInval, h, hd]
    rw [decideDesc_eq, reg_of_regs]

/-- An open descriptor that owns the invalidation is decided with OK. -/
theorem completeInval_decided {p : Nat} {v : Inval} {id : DescId} {d : Desc} (h : v.owner = some id)
    (hd : s.desc id = some d) (ho : d.outcome = none) : (completeInval s p v).decided id 0 0 := by
  simp only [completeInval, h, hd]
  exact ⟨_, desc_decideDesc _ hd ho, rfl, rfl⟩

/-- The oldest invalidation of the pitch, if any, is taken next. -/
def takeOldest (s : State) (p : Nat) : State :=
  match s.work.invals.find? fun x => x.pitch == p with
  | some v => s.takeInval v
  | none => s

theorem takeOldest_of_none {p : Nat} (h : (s.work.invals.find? fun x => x.pitch == p) = none) : takeOldest s p = s := by
  simp only [takeOldest, h]

/-- The invalidation in progress, with nothing left to do, ends, and the oldest other one of the pitch is taken. -/
theorem opInvalidationDone_ended {p : Nat} {v : Inval}
    (hf : (s.work.invals.find? fun x => x.pitch == p && x.taken) = some v) (he : s.invalEnded v = true) :
    s.opInvalidationDone p = takeOldest (completeInval (withoutInval s v) p v) p := by
  simp only [State.opInvalidationDone, hf, he, not_true_eq_false, if_false]
  rfl

/-- With no other of the pitch behind it, it ends alone. -/
theorem opInvalidationDone_last {p : Nat} {v : Inval}
    (hf : (s.work.invals.find? fun x => x.pitch == p && x.taken) = some v) (he : s.invalEnded v = true)
    (hlast : ((s.work.invals.filter fun x => x != v).any fun x => x.pitch == p) = false) :
    s.opInvalidationDone p = completeInval (withoutInval s v) p v := by
  rw [opInvalidationDone_ended hf he]
  apply takeOldest_of_none
  rw [completeInval_eq, List.find?_eq_none]
  exact List.any_eq_false.mp hlast

end Ending

/-! ### FLUSH_RANGE (R141) -/

section Flush

variable {id : DescId} {d : Desc}

/-- Replacing the descriptor of a name gives the new one under that name. -/
theorem desc_setDesc_same {d' : Desc} (h : s.desc id = some d) (hid : d'.id = d.id) :
    (s.setDesc d').desc id = some d' := by
  simp [desc_setDesc, h, hid, desc_id h]

/-- The lines that a FLUSH_RANGE names: all of the pitch where LEN is 0, and otherwise those of its range. -/
def flushNames (id : DescId) (d : Desc) : WbLine → Bool :=
  if d.word 5 = 0 then fun l => l.pitch == id.pitch
  else fun l => recordLine d.record { va := d.fld 4 56 0, len := d.word 5 } l.addr

/-- A running FLUSH_RANGE behind no open descriptor of its ring writes back what it names, and counts it. -/
theorem opFlushRange_ready (h : s.desc id = some d) (hop : d.opcode = 3) (hph : d.phase = .running)
    (ho : d.outcome = none)
    (hearlier : (s.work.descs.any fun x => x.id.pitch == id.pitch && x.id.ring == id.ring &&
      decide (x.order < d.order) && x.unit.isSome && x.phase != .done) = false) {env : Env} {u : State} {n : Nat}
    (hw : s.wbFlush env id.pitch (flushNames id d) = (u, n)) :
    s.opFlushRange id env = u.setDesc { d with outcome := some { status := 0, result := n } } := by
  have hopen : ¬ (d.opcode ≠ 3 ∨ d.phase ≠ .running ∨ d.outcome.isSome = true) := by simp [hop, hph, ho]
  unfold flushNames at hw
  simp only [State.opFlushRange, h, if_neg hopen, hearlier, Bool.false_eq_true, if_false, hw]

/-- A FLUSH_RANGE whose writes have been answered is decided with its result. -/
theorem opFlushRangeDone_answered (h : s.desc id = some d) (hop : d.opcode = 3) (hph : d.phase = .running)
    {o : DescOut} (ho : d.outcome = some o) : s.opFlushRangeDone id = s.setDesc { d with phase := .decided } := by
  simp [State.opFlushRangeDone, h, hop, hph, ho]

end Flush

/-! ### The commands, and the obligation -/

/-- XLATE_INVALIDATE of a legal range is taken or waits. -/
theorem xlateInvalidate_completes {id : DescId} {d : Desc} (h : s.desc id = some d) (hop : d.opcode = 0x10)
    (hph : d.phase = .walking) (hl : invalLegal (d.word 4) (d.word 5) = true) :
    Completes (.xlateInvalidate id) s fun t => RegsKept [] s t ∧ t.mem = s.mem ∧
      TakenOrWaits s { pitch := if id.pitch = 0 then d.fld 8 27 16 else id.pitch, va := d.word 4, pages := d.word 5
                       owner := some id, taken := false } t := by
  refine completes_ended (exec_xlateInvalidate s id) (opXlateInvalidate_legal (s := s.front) h hop hph hl)
    ⟨fun k _ => ?_, ?_, ?_⟩
  · rw [ended_reg, queueInval_reg]; rfl
  · rw [ended_mem, queueInval_mem]; rfl
  · exact queueInval_takenOrWaits (s.front.setDesc _) _

/-- A permitted image is taken or waits where its range is legal; log 48 has any other one counted in INVAL_DONE. -/
theorem xlateInvalWrite_completes {role : Role} {p : Nat} {b : List Byte} (hp : wfPitch p = true) (hs : Served s)
    (hr : mayWrite role (0x4000 + p) 0x28 = true) (hb : b.length = 32) (hroom : s.invalPending p < 15) :
    Completes (.xlateInvalWrite role p b) s fun t => t.mem = s.mem ∧ t.dir = s.dir ∧
      if invalLegal (leNat (b.take 8)) (leNat ((b.drop 8).take 8)) = true then
        TakenOrWaits s { pitch := p, va := leNat (b.take 8), pages := leNat ((b.drop 8).take 8), owner := none
                         taken := false } t ∧ RegsKept [] s t
      else t.work = s.work ∧ t.reg (E.pitchInvalDone p) = (s.reg (E.pitchInvalDone p) + 1) % 2 ^ 32 := by
  have hop : (s.front.when (wfPitch p) fun s => s.blockWrite role (E.pitchXlateInval p) b) =
      s.front.writeXlateInval p b := by
    rw [State.when, if_pos hp]
    exact blockWrite_xlateInval hp (s := s.front) hs hr hb
  refine completes_ended (exec_xlateInvalWrite s role p b) (hop.trans (writeXlateInval_room hb hroom)) ?_
  by_cases hl : invalLegal (leNat (b.take 8)) (leNat ((b.drop 8).take 8)) = true
  · simp only [if_pos hl]
    exact ⟨queueInval_mem .., queueInval_dir .., queueInval_takenOrWaits s.front _, fun k _ => queueInval_reg ..⟩
  · simp only [if_neg hl]
    exact ⟨rfl, rfl, rfl, by simp⟩

/-- The end of the last invalidation of a pitch takes it from the work, and completes it for its owner. -/
theorem invalidationDone_completes {p : Nat} {v : Inval}
    (hf : (s.work.invals.find? fun x => x.pitch == p && x.taken) = some v) (he : s.invalEnded v = true)
    (hlast : ((s.work.invals.filter fun x => x != v).any fun x => x.pitch == p) = false) :
    Completes (.invalidationDone p) s fun t => t.work.invals = s.work.invals.filter (fun x => x != v) ∧
      t.work.xcache = s.work.xcache ∧ t.mem = s.mem ∧
      (v.owner = none → RegsKept [E.pitchInvalDone p] s t ∧
        t.reg (E.pitchInvalDone p) = (s.reg (E.pitchInvalDone p) + 1) % 2 ^ 32) ∧
      ∀ id, v.owner = some id → RegsKept [] s t ∧ ∀ d, s.desc id = some d → d.outcome = none → t.decided id 0 0 := by
  have hrest := completeInval_eq (withoutInval s.front v) p v
  refine completes_ended (exec_invalidationDone s p) (opInvalidationDone_last (s := s.front) hf he hlast)
    ⟨?_, ?_, ?_, fun ho => ?_, fun id ho => ?_⟩
  · rw [ended_work, hrest]; rfl
  · rw [ended_work, hrest]; rfl
  · rw [ended_mem, hrest]; rfl
  · rw [completeInval_dictionary ho]
    exact ⟨fun k hk => by simp [List.ne_of_not_mem_cons hk], by simp⟩
  · exact ⟨fun k _ => completeInval_ring_reg ho k, fun d hd hopen => completeInval_decided ho hd hopen⟩

/-- A permitted root is held, and no cached entry of its pitch is left. -/
theorem xlateRootWrite_completes {role : Role} {p v : Nat} (hp : wfPitch p = true) (hs : Served s) (hv : v < 2 ^ 64)
    (hr : mayWrite role (0x4000 + p) 0x20 = true) : Completes (.xlateRootWrite role p v) s fun t =>
      RegsKept [E.pitchXlateRoot p] s t ∧ t.reg (E.pitchXlateRoot p) = v ∧
        t.work = { s.work with xcache := s.work.xcache.filter fun e => e.1 / 2 ^ 50 != p } ∧ t.mem = s.mem := by
  have hop : (s.front.when (wfPitch p) fun s => s.rowWrite role (E.pitchXlateRoot p) v) =
      s.front.writeXlateRoot p v := by
    rw [State.when, if_pos hp]
    exact rowWrite_pitch hp (s := s.front) hs hr (by decide) rfl (by decide) (by simp [inRange]; omega) rfl
  refine completes_ended (exec_xlateRootWrite s role p v) hop ⟨fun k hk => ?_, by simp, by simp, by simp⟩
  simp [List.ne_of_not_mem_cons hk]

/-- A permitted ring base is taken with no fault open and is otherwise ignored (R98). -/
theorem faultRingBaseWrite_completes {role : Role} {p v : Nat} (hp : wfPitch p = true) (hs : Served s)
    (hv : v < 2 ^ 64) (hr : mayWrite role (0x4000 + p) 0x21 = true) :
    Completes (.faultRingBaseWrite role p v) s fun t =>
      if s.reg (E.pitchFaultTail p) = s.reg (E.pitchFaultDone p) ∧ s.faultWaiting p = 0 then
        RegsOnly [E.pitchFaultRingBase p] s t ∧ t.reg (E.pitchFaultRingBase p) = v
      else RegsOnly [E.mgmtWritesIgnored] s t := by
  have hop : (s.front.when (wfPitch p) fun s => s.rowWrite role (E.pitchFaultRingBase p) v) =
      s.front.writeFaultBase p v := by
    rw [State.when, if_pos hp]
    exact rowWrite_pitch hp (s := s.front) hs hr (by decide) rfl (by decide) (by simp [inRange]; omega)
      (writeFaultBase_dict v)
  refine completes_ended (exec_faultRingBaseWrite s role p v) hop ?_
  split
  case isTrue hidle =>
    rw [writeFaultBase_idle (s := s.front) v hidle]
    exact ⟨regsOnly_ended_setReg s _ v, by simp⟩
  case isFalse hbusy =>
    rw [writeFaultBase_busy (s := s.front) v hbusy]
    exact regsOnly_ended_setReg s _ _

/-- FLUSH_RANGE leaves what its writes leave, with their count as its result. -/
theorem flushRange_completes {id : DescId} {d : Desc} (h : s.desc id = some d) (hop : d.opcode = 3)
    (hph : d.phase = .running) (ho : d.outcome = none)
    (hearlier : (s.work.descs.any fun x => x.id.pitch == id.pitch && x.id.ring == id.ring &&
      decide (x.order < d.order) && x.unit.isSome && x.phase != .done) = false) {env : Env} {u : State} {n : Nat}
    (hw : s.front.wbFlush env id.pitch (flushNames id d) = (u, n)) (hwork : u.work = s.work) :
    Completes (.flushRange id env) s fun t =>
      t.desc id = some { d with outcome := some { status := 0, result := n } } ∧ t.mem = u.mem ∧ t.biv = u.biv := by
  have hu : u.desc id = some d := by rw [State.desc, hwork]; exact h
  exact completes_ended (exec_flushRange s id env) (opFlushRange_ready (s := s.front) h hop hph ho hearlier hw)
    ⟨desc_setDesc_same hu rfl, rfl, rfl⟩

/-- FLUSH_RANGE_DONE only decides the descriptor. -/
theorem flushRangeDone_completes {id : DescId} {d : Desc} (h : s.desc id = some d) (hop : d.opcode = 3)
    (hph : d.phase = .running) {o : DescOut} (ho : d.outcome = some o) : Completes (.flushRangeDone id) s fun t =>
      t.desc id = some { d with phase := .decided } ∧ RegsKept [] s t ∧ t.mem = s.mem ∧ t.dir = s.dir :=
  completes_ended (exec_flushRangeDone s id) (opFlushRangeDone_answered (s := s.front) h hop hph ho)
    ⟨desc_setDesc_same (s := s.front) h rfl, fun _ _ => rfl, rfl, rfl⟩

/-- Settles O48: queueing takes an invalidation or lets it wait (`queueInval_takenOrWaits`), its end leaves the rest of
the work alone (`opInvalidationDone_last`), and each write and flush is its entry's or descriptor's own rule. -/
theorem invalidationsAndFlushesEnd : Obligations.InvalidationsAndFlushesEnd := by
  unfold Obligations.InvalidationsAndFlushesEnd
  intro s
  refine ⟨fun id d h hop hph hl => xlateInvalidate_completes h hop hph hl,
    fun role p b hp hs hr hb hroom => xlateInvalWrite_completes hp hs hr hb hroom,
    fun p v hf he hlast => ?_,
    fun role p v hp hs hv => ⟨xlateRootWrite_completes hp hs hv, faultRingBaseWrite_completes hp hs hv⟩,
    fun id d h hop hph => ⟨fun ho hearlier env u n hw hwork => flushRange_completes h hop hph ho hearlier hw hwork,
      fun o ho => flushRangeDone_completes h hop hph ho⟩⟩
  obtain ⟨t, ht, hinvals, hcache, hmem, hcount, hring⟩ := invalidationDone_completes hf he hlast
  refine ⟨t, ht, hinvals, hcache, hmem, ?_⟩
  cases ho : v.owner with
  | none => exact hcount ho
  | some id => exact hring id ho

end Sys2Proof.Proofs.Translation
end

section
/-! Proofs for 06_stacked_memory: the bytes of a line, the word that a slot stores, and whole-line writes of unprotected
lines that read back (R167, R170, R172, R174, R382). -/

namespace Sys2Proof.Proofs.StackedMemory

open Sys2Proof.Machine Sys2Proof.Laws

variable {s : State}

/-! ### The bytes of a line (R11, R174) -/

theorem lineByte_toNat (l : Line) (b : Nat) : (lineByte l b).toNat = l.toNat / 256 ^ b % 256 := by
  simp [lineByte, Nat.shiftRight_eq_div_pow, Nat.pow_mul]

theorem leNat_append (as bs : List Byte) : leNat (as ++ bs) = leNat as + 256 ^ as.length * leNat bs := by
  induction as with
  | nil => simp [leNat]
  | cons a as ih =>
    simp only [List.cons_append, leNat, ih, List.length_cons]
    rw [Nat.pow_succ', Nat.mul_add, Nat.mul_assoc, Nat.add_assoc]

/-- The first `n` bytes of a line hold its value modulo 256^n. -/
theorem leNat_lineBytes (l : Line) (n : Nat) : leNat ((List.range n).map (lineByte l)) = l.toNat % 2 ^ (8 * n) := by
  induction n with
  | zero => simp [leNat, Nat.mod_one]
  | succ n ih =>
    rw [List.range_succ, List.map_append, leNat_append, ih, Nat.pow_mul, Nat.pow_mul, Nat.mod_pow_succ]
    simp [leNat, lineByte_toNat]

/-- A line is made of its bytes. -/
theorem lineOfBytes_lineByte (l : Line) : lineOfBytes ((List.range 64).map (lineByte l)) = l := by
  rw [lineOfBytes, List.take_of_length_le (by simp), leNat_lineBytes, show 8 * 64 = 512 from rfl,
    Nat.mod_eq_of_lt l.isLt, BitVec.ofNat_toNat, BitVec.setWidth_eq]

theorem maskLine_fullMask : maskLine fullMask = BitVec.allOnes 512 := by decide +kernel

/-- A whole-line mask takes every byte of the new line. -/
theorem mergeLine_fullMask (new old : Line) : mergeLine fullMask new old = new := by
  rw [mergeLine, maskLine_fullMask, BitVec.and_allOnes, BitVec.not_allOnes, BitVec.and_zero, BitVec.or_zero]

/-! ### What a slot holds after a store -/

theorem setSlot_data_self (s : State) (slot : Nat) (d : Line) (e : Nat) :
    (s.setSlot slot .codeword d e).slotData slot = d := by
  have h : ∀ b ∈ List.range 64, SMap.get (fun _ => (0 : Byte)) (storeBytes s.mem.bytes slot d) (slot * 64 + b) =
      lineByte d b := by
    intro b hb
    rw [List.mem_range] at hb
    rw [storeBytes_get, if_pos (by omega), Nat.add_sub_cancel_left]
  simp only [State.slotData, State.setSlot, if_true]
  rw [List.map_congr_left h, lineOfBytes_lineByte]

theorem home_setSlot (s : State) (slot : Nat) (kind : SlotKind) (d : Line) (e ln : Nat) :
    (s.setSlot slot kind d e).home ln = s.home ln := rfl

theorem place_setSlot (s : State) (slot : Nat) (kind : SlotKind) (d : Line) (e st k : Nat) :
    (s.setSlot slot kind d e).place st k = s.place st k := rfl

/-- A word stored without error reads as its data. -/
theorem readSlot_setSlot (s : State) (slot : Nat) (d : Line) :
    (s.setSlot slot .codeword d 0).readSlot slot 0 = .good d := by
  simp [State.readSlot, setSlot_kind, setSlot_err, setSlot_data_self, readWord]

variable {ln st k slot : Nat}

/-- With no check-path test armed, a whole-line write of an unprotected line stores its data without error (R174). -/
theorem writeLine_plain (hh : s.home ln = .plain st k) (hp : s.place st k = .here slot) (ht : s.reg E.eccTestArm = 0)
    (d : Line) (err : Nat) :
    s.writeLine ln fullMask d err = ⟨s.setSlot slot .codeword d 0, true, 0, [(slot / stackSlots, 1)]⟩ := by
  simp [State.writeLine, State.updateLine, State.writeOffline, hh, hp, State.writePlain, State.takeTest, ht,
    mergeLine_fullMask]

/-- A read of an unprotected line whose word is good answers with the word's data. -/
theorem readLine_plain_good {err : Nat} {d : Line} (hh : s.home ln = .plain st k) (hp : s.place st k = .here slot)
    (hr : s.readSlot slot err = .good d) : s.readLine ln err = ⟨s, true, d, [(slot / stackSlots, 1)]⟩ := by
  simp [State.readLine, hh, hp, hr, State.noteRead]

/-- Settles O26: the write stores the word at the line's slot (`writeLine_plain`), the line still lies there, and the
word reads as the data written (`readSlot_setSlot`). -/
theorem memoryReadsBackWhatWasWritten : Obligations.MemoryReadsBackWhatWasWritten := by
  unfold Obligations.MemoryReadsBackWhatWasWritten
  intro s ln st k slot d err hh hp ht
  have hread := readLine_plain_good ((home_setSlot s slot .codeword d 0 ln).trans hh)
    ((place_setSlot s slot .codeword d 0 st k).trans hp) (readSlot_setSlot s slot d)
  rw [writeLine_plain hh hp ht]
  exact ⟨rfl, rfl, by rw [hread], by rw [hread], fun x hx => ⟨by simp [setSlot_kind, hx], setSlot_data_ne s _ _ _ hx,
    by simp [setSlot_err, hx]⟩⟩

end Sys2Proof.Proofs.StackedMemory
end

section
/-! Proofs for 06_stacked_memory: temperatures, refresh and ISSUE_DUTY (R165, R166, R546), and the end of a warm entry
(R182, R475, R476, R490). -/

namespace Sys2Proof.Proofs.StackedMemory

open Sys2Proof.Machine Sys2Proof.Laws Sys2Proof.Proofs.Translation

variable {s : State}

/-- A command whose operation changes registers only, and of these only those listed. -/
theorem regsOnly_ended {u : State} {ks : List Nat} (hu : u = { s.front with regs := u.regs })
    (hk : ∀ k, k ∉ ks → u.reg k = s.reg k) : RegsOnly ks s (ended s u) := by
  refine ⟨?_, hk⟩
  rw [hu]
  simp [ended, State.close, State.front, Fuses.programmed]

/-! ### Commands -/

section Commands

variable (s) (st : Nat)

theorem exec_temperatureReadout (temp : Int) :
    exec (.temperatureReadout st temp) s = s.run fun s => s.opTemperature st temp := rfl

theorem exec_refreshIssue (ch : Nat) : exec (.refreshIssue st ch) s = s.run fun s => s.opRefresh st ch := rfl

theorem exec_refreshManagement : exec (.refreshManagement st) s = s.run fun s => s.opRefreshManagement st := rfl

theorem exec_thermalEvaluation (logic : Int) (power : Nat) :
    exec (.thermalEvaluation logic power) s = s.run fun s => s.opThermalEvaluation logic power := rfl

theorem exec_warmEntryDone (entered : BitVec 16) :
    exec (.warmEntryDone entered) s = s.run fun s => s.opWarmEntryDone entered := rfl

end Commands

/-! ### Temperatures (R165, R166) -/

section Temperature

variable {st : Nat} {temp : Int}

theorem stackTemperature_ne_refreshInterval : E.stackTemperature st ≠ E.stackRefreshInterval st := by
  simp only [E.stackTemperature, E.stackRefreshInterval, ekey]; omega

theorem stackTemperature_ne_hbmTempMax : E.stackTemperature st ≠ E.powHbmTempMax := by
  simp only [E.stackTemperature, E.powHbmTempMax, ekey]; omega

theorem stackRefreshInterval_ne_hbmTempMax : E.stackRefreshInterval st ≠ E.powHbmTempMax := by
  simp only [E.stackRefreshInterval, E.powHbmTempMax, ekey]; omega

/-- A temperature of a stack that is not OFF is recorded with its refresh interval and a new maximum. -/
theorem opTemperature_on (hc : s.coreOn = true) (hst : st < 16) (hs : s.stackState st ≠ 0) :
    ∃ v, s.opTemperature st temp = s.setRegs [(E.stackTemperature st, uns 32 temp),
      (E.stackRefreshInterval st, if temp ≤ 85 then 3900 else 1950), (E.powHbmTempMax, v)] := by
  have h : ¬ (¬ s.coreOn = true ∨ s.stackState st = 0 ∨ 16 ≤ st) := by simp [hc, hs, hst]
  exact ⟨_, if_neg h⟩

theorem temperatureReadout_completes (hc : s.coreOn = true) (hst : st < 16) (hs : s.stackState st ≠ 0) :
    Completes (.temperatureReadout st temp) s fun t =>
      t.reg (E.stackTemperature st) = uns 32 temp ∧
        t.reg (E.stackRefreshInterval st) = (if temp ≤ 85 then 3900 else 1950) ∧
        RegsOnly [E.stackTemperature st, E.stackRefreshInterval st, E.powHbmTempMax] s t := by
  obtain ⟨v, hv⟩ := opTemperature_on (s := s.front) (temp := temp) hc hst hs
  refine completes_ended (exec_temperatureReadout s st temp) hv ⟨?_, ?_, regsOnly_ended rfl fun k hk => ?_⟩
  · simp [stackTemperature_ne_refreshInterval, stackTemperature_ne_hbmTempMax]
  · simp [stackRefreshInterval_ne_hbmTempMax]
  · simp only [List.mem_cons, List.not_mem_nil, or_false, not_or] at hk
    simp [hk]

end Temperature

/-! ### Refresh (R165, R166) -/

/-- A command that raises a count of the power state changes nothing else. -/
theorem ended_front_power (s : State) (p : PowerSt) (h : p.resetN = s.power.resetN) :
    ended s { s.front with power := p } = { s with power := p, fuses := s.fuses.programmed } := by
  simp [ended, State.close, State.front, Fuses.programmed, ← h]

theorem refreshIssue_completes {st ch : Nat} (hc : s.coreOn = true) (hs : s.stackState st = 2 ∨ s.stackState st = 3)
    (hch : bitOf (s.reg (E.stackRetiredChannels st)) ch = false) : Completes (.refreshIssue st ch) s fun t =>
      t = { s with power := { s.power with refreshes := s.power.refreshes + 1 }, fuses := s.fuses.programmed } :=
  completes_ended (exec_refreshIssue s st ch) (if_pos ⟨hc, hs, by simp [hch]⟩) (ended_front_power s _ rfl)

theorem refreshManagement_completes {st : Nat} (hc : s.coreOn = true) (hs : s.stackState st = 2 ∨ s.stackState st = 3) :
    Completes (.refreshManagement st) s fun t =>
      t = { s with power := { s.power with refreshMgmt := s.power.refreshMgmt + 1 }, fuses := s.fuses.programmed } :=
  completes_ended (exec_refreshManagement s st) (if_pos ⟨hc, hs⟩) (ended_front_power s _ rfl)

/-! ### ISSUE_DUTY (R546) -/

section Duty

variable (s) (logic : Int) (power : Nat)

/-- One limit of R546 is passed. -/
abbrev Hot : Prop :=
  (s.reg E.powThrottleC : Int) ≤ logic ∨ 95 ≤ sgn 32 (s.reg E.powHbmTempMax) ∨ s.reg E.powPowerCap < power

/-- Every reading is below its limit by the margin of R546. -/
abbrev Cool : Prop :=
  logic < (s.reg E.powThrottleC : Int) - 5 ∧ sgn 32 (s.reg E.powHbmTempMax) < 90 ∧ power + 50 ≤ s.reg E.powPowerCap

/-- The value that an evaluation leaves in ISSUE_DUTY. -/
def dutyAfter : Nat :=
  if Hot s logic power then
    if 25 < s.reg E.bivsIssueDuty then s.reg E.bivsIssueDuty - 5 else s.reg E.bivsIssueDuty
  else if Cool s logic power ∧ s.reg E.bivsIssueDuty < 100 ∧ s.power.dutyChange + msCclk 1 ≤ s.cclk then
    s.reg E.bivsIssueDuty + 5
  else s.reg E.bivsIssueDuty

/-- The readings of an evaluation are recorded. -/
def readings : State :=
  ({ s with power := { s.power with sensorHot := decide ((s.reg E.powThrottleC : Int) ≤ logic) } } : State).setRegs
    [(E.powLogicTempMax, uns 32 logic), (E.powPowerEstimate, min power 65535)]

/-- ISSUE_DUTY takes a new value, and the time of the change is kept. -/
def moveDuty (d : Nat) : State := { s.setReg E.bivsIssueDuty d with power := { s.power with dutyChange := s.cclk } }

/-- The evaluation of R546, with the readings recorded before ISSUE_DUTY is looked at. -/
theorem opThermalEvaluation_on (hoff : s.power.phase ≠ .off) (hr : s.running = true) :
    s.opThermalEvaluation logic power =
      let r := readings s logic power
      if (decide ((s.reg E.powThrottleC : Int) ≤ logic) || decide (95 ≤ sgn 32 (s.reg E.powHbmTempMax)) ||
          decide (s.reg E.powPowerCap < power)) = true then
        if 25 < r.reg E.bivsIssueDuty then moveDuty r (r.reg E.bivsIssueDuty - 5) else r
      else if (decide (logic < (s.reg E.powThrottleC : Int) - 5) && decide (sgn 32 (s.reg E.powHbmTempMax) < 90) &&
          decide (power + 50 ≤ s.reg E.powPowerCap)) = true ∧ r.reg E.bivsIssueDuty < 100 ∧
          s.power.dutyChange + msCclk 1 ≤ s.cclk then moveDuty r (r.reg E.bivsIssueDuty + 5)
      else r :=
  (if_neg hoff).trans (if_neg (absurd hr))

@[simp] theorem readings_reg (k : Nat) : (readings s logic power).reg k =
    if k = E.powPowerEstimate then min power 65535 else if k = E.powLogicTempMax then uns 32 logic else s.reg k := by
  simp [readings]

theorem readings_duty : (readings s logic power).reg E.bivsIssueDuty = s.reg E.bivsIssueDuty := by
  rw [readings_reg, if_neg (by decide), if_neg (by decide)]

@[simp] theorem moveDuty_reg (d k : Nat) : (moveDuty s d).reg k = if k = E.bivsIssueDuty then d else s.reg k :=
  setReg_reg ..

variable {s}

/-- An evaluation on a running device records its readings, and then moves ISSUE_DUTY or leaves it as it is. -/
theorem opThermalEvaluation_running (hr : s.running = true) :
    s.opThermalEvaluation logic power = moveDuty (readings s logic power) (dutyAfter s logic power) ∨
      s.opThermalEvaluation logic power = readings s logic power ∧ dutyAfter s logic power = s.reg E.bivsIssueDuty := by
  have hoff : s.power.phase ≠ .off := fun h => by simp [State.running, h] at hr
  simp only [opThermalEvaluation_on s logic power hoff hr, readings_duty, Bool.or_eq_true, Bool.and_eq_true,
    decide_eq_true_eq, or_assoc, and_assoc, dutyAfter]
  by_cases hh : Hot s logic power
  · by_cases hd : 25 < s.reg E.bivsIssueDuty
    · exact .inl (by simp only [if_pos hh, if_pos hd])
    · exact .inr (by simp only [if_pos hh, if_neg hd, and_self])
  · simp only [if_neg hh]
    split
    · exact .inl rfl
    · exact .inr ⟨rfl, rfl⟩

theorem opThermalEvaluation_reg (hr : s.running = true) (k : Nat) : (s.opThermalEvaluation logic power).reg k =
    if k = E.bivsIssueDuty then dutyAfter s logic power else (readings s logic power).reg k := by
  obtain h | ⟨h, hd⟩ := opThermalEvaluation_running logic power hr
  · rw [h, moveDuty_reg]
  · rw [h, hd]
    split
    case isTrue hk => rw [hk, readings_duty]
    case isFalse => rfl

theorem opThermalEvaluation_frame (hr : s.running = true) :
    (s.opThermalEvaluation logic power).mem = s.mem ∧ (s.opThermalEvaluation logic power).dir = s.dir := by
  obtain h | ⟨h, -⟩ := opThermalEvaluation_running logic power hr <;> rw [h] <;> exact ⟨rfl, rfl⟩

theorem thermalEvaluation_completes (hr : s.running = true) : Completes (.thermalEvaluation logic power) s fun t =>
    t.reg E.powLogicTempMax = uns 32 logic ∧ t.reg E.powPowerEstimate = min power 65535 ∧
      t.reg E.bivsIssueDuty = dutyAfter s logic power ∧
      RegsKept [E.powLogicTempMax, E.powPowerEstimate, E.bivsIssueDuty] s t ∧ t.mem = s.mem ∧ t.dir = s.dir := by
  have hreg := opThermalEvaluation_reg (s := s.front) logic power hr
  refine completes_ended (exec_thermalEvaluation s logic power) rfl
    ⟨?_, ?_, ?_, fun k hk => ?_, opThermalEvaluation_frame (s := s.front) logic power hr⟩
  · rw [ended_reg, hreg, if_neg (by decide), readings_reg, if_neg (by decide), if_pos rfl]
  · rw [ended_reg, hreg, if_neg (by decide), readings_reg, if_pos rfl]
  · rw [ended_reg, hreg, if_pos rfl]; rfl
  · simp only [List.mem_cons, List.not_mem_nil, or_false, not_or] at hk
    simp [hreg, hk]

end Duty

/-- Settles O10: a reading sets its three registers (`opTemperature_on`), refresh commands only count, and an evaluation
leaves `dutyAfter` in ISSUE_DUTY. -/
theorem temperaturesAndRefreshFollowTheStacks : Obligations.TemperaturesAndRefreshFollowTheStacks := by
  unfold Obligations.TemperaturesAndRefreshFollowTheStacks
  exact fun s => ⟨fun st temp hc hst hs => temperatureReadout_completes hc hst hs,
    fun st ch hc hs hch => refreshIssue_completes hc hs hch, fun st hc hs => refreshManagement_completes hc hs,
    fun logic power hr => thermalEvaluation_completes logic power hr⟩

/-! ### The end of a warm entry (R182, R475, R476, R490) -/

section WarmEntry

/-- All that leaving the internal reset can do. -/
theorem tryRelease_eq (s : State) : ∃ p r l, s.tryRelease = { s with power := p, regs := r, log := l } := by
  unfold State.tryRelease
  split
  · obtain ⟨r, l, h⟩ := endReset_eq s
    exact ⟨_, r, l, h⟩
  · exact ⟨_, _, _, rfl⟩

/-- With RESET_N low the device stays in reset. -/
theorem tryRelease_low (h : s.power.resetN = false) : s.tryRelease = s := by
  simp [State.tryRelease, h]

/-- With RESET_N high, the PLL locked and nothing else holding, the internal reset ends (R471, R543, R547). -/
theorem tryRelease_high (hp : s.power.phase = .held) (hn : s.power.resetN = true) (hpll : s.reg E.clkPllState = 2)
    (hr : s.power.railHold = false) (ht : s.power.tripHold = false) (ho : s.power.railsOut = 0) :
    s.tryRelease = s.endReset := by
  simp [State.tryRelease, hp, hn, hpll, hr, ht, ho]

variable (s) (entered : BitVec 16)

/-- The device in reset at the end of a warm entry: accepted writes are completed, and the parked stacks kept. -/
def warmHalt : State := s.completeWrites.halt true (s.completeWrites.parkedStacks entered)

theorem opWarmEntryDone_ends (h : s.power.phase = .warmEntry) :
    s.opWarmEntryDone entered = (warmHalt s entered).tryRelease := if_pos h

end WarmEntry

/-- Settles O9: a warm entry ends in `warmHalt`, which RESET_N low leaves as it is and which otherwise leaves reset with
its kept stacks in CONTENTS_KEPT; log 17 is the choice of `parkedStacks`, which the model makes. -/
theorem warmEntryKeepsParkedStacks : Obligations.WarmEntryKeepsParkedStacks := by
  unfold Obligations.WarmEntryKeepsParkedStacks
  intro s entered hphase w kept
  have hop := opWarmEntryDone_ends s.front entered hphase
  obtain ⟨p, r, l, hframe⟩ := tryRelease_eq (warmHalt s.front entered)
  refine completes_ended (exec_warmEntryDone s entered) hop ⟨?_, ?_, ?_, ?_, ?_, ?_, fun hlow => ?_,
    fun hhigh hrail htrip hout hpll => ?_⟩
  case refine_7 =>
    rw [tryRelease_low (s := warmHalt s.front entered) hlow]
    exact ⟨rfl, rfl, fun _ => rfl⟩
  case refine_8 =>
    rw [tryRelease_high (s := warmHalt s.front entered) rfl hhigh hpll hrail htrip hout]
    exact ⟨by simp [ended], endReset_contentsKept _⟩
  all_goals rw [hframe]; rfl

end Sys2Proof.Proofs.StackedMemory
end

section
/-! Proofs for 06_stacked_memory: what an access to a line of stacked memory leaves alone (R172 to R184). -/

namespace Sys2Proof.Proofs.StackedMemory

open Sys2Proof.Machine Sys2Proof.Laws

/-- Between two states nothing but registers, the fault log and stacked memory has changed. -/
def MemOnly (s t : State) : Prop := ∃ r l m, t = { s with regs := r, log := l, mem := m }

namespace MemOnly

variable {s t u : State}

theorem refl (s : State) : MemOnly s s := ⟨_, _, _, rfl⟩

theorem trans (h : MemOnly s t) (k : MemOnly t u) : MemOnly s u := by
  obtain ⟨_, _, _, rfl⟩ := h
  obtain ⟨_, _, _, rfl⟩ := k
  exact ⟨_, _, _, rfl⟩

theorem trail (h : MemOnly s t) : t.trail = s.trail := by
  obtain ⟨_, _, _, rfl⟩ := h
  rfl

/-! What may follow an access that has changed no more than that. -/

theorem setReg (h : MemOnly s t) (k v : Nat) : MemOnly s (t.setReg k v) := h.trans ⟨_, _, _, rfl⟩

theorem bump (h : MemOnly s t) (k : Nat) : MemOnly s (t.bump k) := h.setReg ..

theorem setSlot (h : MemOnly s t) (slot : Nat) (k : SlotKind) (d : Line) (e : Nat) :
    MemOnly s (t.setSlot slot k d e) := h.trans ⟨_, _, _, rfl⟩

theorem logUncorrected (h : MemOnly s t) (ln : Nat) : MemOnly s (t.logUncorrected ln) := by
  unfold State.logUncorrected State.logEvent
  exact h.trans ⟨_, _, _, logEventAt_eq ..⟩

theorem noteRead (h : MemOnly s t) (slot : Nat) (r : WordRead) : MemOnly s (t.noteRead slot r) := by
  cases r with
  | good => exact h
  | corrected => exact (h.bump _).bump _
  | neverWritten => exact h.bump _
  | poisoned => exact h.bump _
  | uncorrectable => exact (h.bump _).bump _

theorem noteMate (h : MemOnly s t) (slot : Nat) (r : WordRead) : MemOnly s (t.noteMate slot r) := by
  cases r with
  | good => exact h
  | corrected d => exact h.noteRead slot (.corrected d)
  | neverWritten => exact h
  | poisoned => exact h
  | uncorrectable => exact h.noteRead slot .uncorrectable

theorem noteProt (h : MemOnly s t) (slot : Nat) (w : Bool) (r : WordRead) : MemOnly s (t.noteProt slot w r) := by
  unfold State.noteProt
  repeat' split
  · exact h
  · exact h.noteRead ..
  · exact h
  · exact h.noteRead ..
  · exact h.noteRead ..

theorem takeTest (h : MemOnly s t) (ln : Nat) (w : Bool) : MemOnly s (t.takeTest ln w).1 := by
  unfold State.takeTest
  split
  · exact h.setReg ..
  · exact h

/-! Stripes -/

theorem foldl {α : Type} {f : State → α → State} (hf : ∀ a x, MemOnly a (f a x)) (l : List α) (h : MemOnly s t) :
    MemOnly s (l.foldl f t) := by
  induction l generalizing t with
  | nil => exact h
  | cons x l ih => exact ih (h.trans (hf t x))

/-- A fold that carries a result beside the state. -/
theorem foldl_fst {α β : Type} {f : State × β → α → State × β} (hf : ∀ a x, MemOnly a.1 (f a x).1) (l : List α)
    (acc : State × β) (h : MemOnly s acc.1) : MemOnly s (l.foldl f acc).1 := by
  induction l generalizing acc with
  | nil => exact h
  | cons x l ih => exact ih _ (h.trans (hf acc x))

theorem readMate (h : MemOnly s t) (n j : Nat) : MemOnly s (t.readMate n j).1 := by
  unfold State.readMate
  split
  · exact h.noteMate ..
  · exact h

theorem readMates (h : MemOnly s t) (n j : Nat) : MemOnly s (t.readMates n j).1 :=
  foldl_fst (β := List (Nat × Option WordRead)) (fun a x => (refl a.1).readMate n x) _ (t, []) h

theorem readParity (h : MemOnly s t) (n : Nat) : MemOnly s (t.readParity n).1 := by
  unfold State.readParity
  split
  · dsimp only
    split <;> exact h.noteMate ..
  · exact h

theorem writeParity (h : MemOnly s t) (n : Nat) (d : Line) : MemOnly s (t.writeParity n d) := by
  unfold State.writeParity
  split
  · exact h.setSlot ..
  · exact h

theorem poisonMates (h : MemOnly s t) (n : Nat) (js : List Nat) : MemOnly s (t.poisonMates n js) := by
  refine h.foldl (fun a j => ?_) js
  split
  · exact (((refl a).setSlot ..).bump _).logUncorrected _
  · exact refl a

theorem fixSecondStripe (h : MemOnly s t) (slot n : Nat) (a b : Line) : MemOnly s (t.fixSecondStripe slot n a b) := by
  unfold State.fixSecondStripe
  dsimp only
  split
  · have hp := h.readParity (slot % stackSlots - t.protBase / 16)
    split <;> rename_i e <;> rw [e] at hp
    · exact hp.writeParity ..
    · exact hp
  · exact h

/-! Reads -/

theorem degradedRead (h : MemOnly s t) (n j : Nat) : MemOnly s (t.degradedRead n j).s := by
  have hm := ((h.readParity n).readMates n j).bump E.eccDegradedReads
  unfold State.degradedRead
  dsimp only
  split <;> exact hm

theorem reconstruct (h : MemOnly s t) (slot n j : Nat) : MemOnly s (t.reconstruct slot n j).s := by
  have hm := h.readMates n j
  unfold State.reconstruct
  generalize t.readMates n j = r at hm ⊢
  obtain ⟨a, ms⟩ := r
  dsimp only at hm ⊢
  generalize a.place (n % 16) (a.stripeIndex n) = pl
  cases pl with
  | here q =>
    dsimp only
    split
    · exact ((hm.noteMate ..).setSlot ..).bump _
    · exact hm.noteMate ..
  | lost => exact hm
  | fenced => exact hm
  | offline => exact hm

theorem readLine (h : MemOnly s t) (ln err : Nat) : MemOnly s (t.readLine ln err).s := by
  unfold State.readLine
  split
  · exact h
  · split
    · dsimp only
      split
      · exact h.noteRead ..
      · exact h.noteRead ..
      · exact (h.noteRead ..).logUncorrected _
      · exact h.noteRead ..
      · exact h.noteRead ..
    · exact h
  · split
    · dsimp only
      split
      · exact h.noteRead ..
      · exact h.noteRead ..
      · exact h.noteRead ..
      · exact h.noteRead ..
      · exact (h.noteRead ..).reconstruct ..
    · exact h.degradedRead ..
    · exact h.degradedRead ..
    · exact h

/-! Writes -/

theorem writePlain (h : MemOnly s t) (ln slot : Nat) (w : Bool) (f : Line → Line) (err : Nat) :
    MemOnly s (t.writePlain ln slot w f err).s := by
  have hr := h.bump (E.stackRmwCount (slot / stackSlots))
  unfold State.writePlain
  dsimp only
  split
  · exact (h.takeTest ln true).setSlot ..
  · split
    · exact (hr.noteRead ..).setSlot ..
    · exact (hr.noteRead ..).setSlot ..
    · exact (hr.noteRead ..).logUncorrected _
    · exact hr.noteRead ..
    · exact hr.noteRead ..

theorem degradedWrite (h : MemOnly s t) (n j : Nat) (w : Bool) (f : Line → Line) :
    MemOnly s (t.degradedWrite n j w f).s := by
  have hm := (h.readParity n).readMates n j
  unfold State.degradedWrite
  dsimp only
  split
  · exact hm
  · split
    · exact (hm.poisonMates ..).writeParity ..
    · split
      · exact hm.writeParity ..
      · exact hm

theorem storeProt (h : MemOnly s t) (ln slot n : Nat) (w : Bool) (d p : Line) :
    MemOnly s (t.storeProt ln slot n w d p) :=
  ((h.takeTest ln w).setSlot ..).writeParity n p

theorem writeByDelta (h : MemOnly s t) (ln n slot : Nat) (w : Bool) (old new p : Line) (c : List (Nat × Nat)) :
    MemOnly s (t.writeByDelta ln n slot w old new p c).s :=
  (h.storeProt ln slot n w new (p ^^^ old ^^^ new)).fixSecondStripe slot n old new

theorem writeByLines (h : MemOnly s t) (ln n j slot : Nat) (w : Bool) (old new : Line) (c : List (Nat × Nat)) :
    MemOnly s (t.writeByLines ln n j slot w old new c).s := by
  have hm := h.readMates n j
  unfold State.writeByLines
  dsimp only
  split
  · exact hm
  · exact (hm.poisonMates ..).storeProt ..

theorem writeOverLost (h : MemOnly s t) (ln n j slot : Nat) (w : Bool) (f : Line → Line) (p : Line)
    (c : List (Nat × Nat)) : MemOnly s (t.writeOverLost ln n j slot w f p c).s := by
  have hm := h.readMates n j
  unfold State.writeOverLost
  dsimp only
  split
  · exact hm.writeByDelta ..
  · split
    · exact (hm.poisonMates ..).storeProt ..
    · exact hm

theorem writeNoParity (h : MemOnly s t) (ln slot : Nat) (w : Bool) (f : Line → Line) (r : WordRead)
    (c : List (Nat × Nat)) : MemOnly s (t.writeNoParity ln slot w f r c).s := by
  unfold State.writeNoParity
  split
  · exact (h.takeTest ln true).setSlot ..
  · split
    · exact h.setSlot ..
    · exact h

theorem writeProt (h : MemOnly s t) (ln n j slot : Nat) (w : Bool) (f : Line → Line) (err : Nat) :
    MemOnly s (t.writeProt ln n j slot w f err).s := by
  have hw : MemOnly s (if w then t else t.bump (E.stackRmwCount (slot / stackSlots))) := by
    split
    · exact h
    · exact h.bump _
  unfold State.writeProt
  dsimp only
  generalize (if w then t else t.bump (E.stackRmwCount (slot / stackSlots))) = a at hw ⊢
  have hp := (hw.noteProt slot w (a.readSlot slot err)).readParity n
  generalize a.readSlot slot err = r at hp ⊢
  generalize (a.noteProt slot w r).readParity n = q at hp ⊢
  obtain ⟨b, par, reach⟩ := q
  dsimp only at hp ⊢
  split
  · exact hp.writeNoParity ..
  · cases r <;> cases par <;> dsimp only
    case good.none | corrected.none => exact hp.writeByLines ..
    case good.some | corrected.some => exact hp.writeByDelta ..
    case uncorrectable.some => exact hp.writeOverLost ..
    case neverWritten.some | poisoned.some =>
      split
      · exact hp.writeByDelta ..
      · exact hp
    case neverWritten.none | poisoned.none | uncorrectable.none =>
      split
      · exact hp.writeByLines ..
      · exact hp

theorem updateLine (h : MemOnly s t) (ln : Nat) (w : Bool) (f : Line → Line) (err : Nat) :
    MemOnly s (t.updateLine ln w f err).s := by
  unfold State.updateLine
  split
  · exact h
  · split
    · exact h
    · split
      · exact h.writePlain ..
      · exact h
    · split
      · exact h.writeProt ..
      · exact h.degradedWrite ..
      · exact h.degradedWrite ..
      · exact h

theorem blankLine (h : MemOnly s t) (ln : Nat) (k : SlotKind) : MemOnly s (t.blankLine ln k).s := by
  unfold State.blankLine
  split
  · exact h
  · split
    · exact h.setSlot ..
    · exact h
  · rename_i n j st idx hh
    have hm := h.readMates n j
    split
    · rename_i slot hp
      have hq := (h.noteMate slot (t.readSlot slot 0)).readParity n
      dsimp only
      split
      · exact hq.setSlot ..
      · split
        · exact ((hq.setSlot ..).writeParity ..).fixSecondStripe ..
        · exact (((hq.readMates n j).poisonMates ..).setSlot ..).writeParity ..
    · exact (hm.poisonMates ..).writeParity ..
    · exact (hm.poisonMates ..).writeParity ..
    · exact h

end MemOnly

/-! ### Accesses at a controller (R382, R387) -/

variable (s : State)

/-- An access performed at its line changes registers, the fault log and stacked memory alone. -/
theorem memOnly_performAccess (a : Access) (err : Nat) : MemOnly s (s.performAccess a err).1.s := by
  unfold State.performAccess
  split
  · exact (MemOnly.refl s).readLine ..
  · exact (MemOnly.refl s).updateLine ..
  · exact (MemOnly.refl s).blankLine ..
  · exact (MemOnly.refl s).updateLine ..

/-! What leaves on a port touches no controller. -/

section Sending

variable (n vc : Nat) (m : OutMsg)

theorem setLink_trail (l : Link) : (s.setLink n l).trail = s.trail := rfl

theorem putFrame_trail (f : Frame) : (s.putFrame n f).trail = s.trail := by
  unfold State.putFrame
  dsimp only
  rw [emit_trail, bump_trail, setLink_trail]

theorem sendFrame_trail : (s.sendFrame n vc m).trail = s.trail := by
  unfold State.sendFrame
  dsimp only
  rw [putFrame_trail, setLink_trail]

theorem trail_foldl_fst {α β : Type} {f : State × β → α → State × β} (hf : ∀ a x, (f a x).1.trail = a.1.trail)
    (l : List α) (acc : State × β) : (l.foldl f acc).1.trail = acc.1.trail := by
  induction l generalizing acc with
  | nil => rfl
  | cons x l ih => exact (ih _).trans (hf acc x)

theorem pump_trail : (s.pump n).trail = s.trail := by
  unfold State.pump
  split
  · refine trail_foldl_fst (β := List (Nat × OutMsg)) (fun a e => ?_) _ (s, [])
    dsimp only
    split
    · rfl
    · exact sendFrame_trail ..
  · rfl

theorem sendMsg_trail (p : Port) : (s.sendMsg p vc m).trail = s.trail := by
  cases p with
  | host n =>
    simp only [State.sendMsg]
    split <;> rfl
  | utxon n =>
    simp only [State.sendMsg]
    split
    · exact pump_trail ..
    · rfl

theorem answerAccess_trail (a : Access) (r : MemRes) (res : Option (Word × Word)) (load : Nat) :
    (s.answerAccess a r res load).trail = s.trail := by
  unfold State.answerAccess
  split
  · rfl
  · exact sendMsg_trail ..

end Sending

/-! Held full-stripe writes stay held while accesses are charged and performed. -/

theorem charge_gather (c : Charge) (st n : Nat) : (s.charge c st n).trail.gather = s.trail.gather := by
  cases c <;> rfl

theorem chargeAll_gather (c : Charge) (cost : List (Nat × Nat)) :
    (s.chargeAll c cost).trail.gather = s.trail.gather := by
  induction cost generalizing s with
  | nil => rfl
  | cons x cost ih => exact (ih _).trans (charge_gather ..)

/-- What is held is the same after each step of a fold. -/
theorem gather_foldl {α : Type} {f : State → α → State} (hf : ∀ s x, (f s x).trail.gather = s.trail.gather)
    (l : List α) : (l.foldl f s).trail.gather = s.trail.gather := by
  induction l generalizing s with
  | nil => rfl
  | cons x l ih => exact (ih _).trans (hf s x)

theorem answered_gather (a : Access) (c : Charge) (err load : Nat) (cost : List (Nat × Nat)) (r : MemRes)
    (res : Option (Word × Word)) :
    (((s.performAccess a err).1.s.chargeAll c cost).answerAccess a r res load).trail.gather = s.trail.gather := by
  rw [answerAccess_trail, chargeAll_gather, (memOnly_performAccess s a err).trail]

theorem runAccess_gather (a : Access) (c : Charge) (err : Nat) :
    (s.runAccess a c err).trail.gather = s.trail.gather := by
  unfold State.runAccess
  dsimp only
  split
  case h_1 =>
    refine (gather_foldl _ (fun u b => by rw [answerAccess_trail]; rfl) _).trans ((answered_gather ..).trans ?_)
    split <;> rfl
  case h_2 =>
    refine (answered_gather ..).trans ?_
    split <;> rfl

/-- Releasing the held writes of a stripe leaves those of the other stripes held. -/
theorem flushGather_gather (t : Nat) : (s.flushGather t).trail.gather = s.trail.gather.filter fun g => g.1 != t := by
  unfold State.flushGather
  refine (gather_foldl _ (fun u g => ?_) _).trans rfl
  split
  · exact runAccess_gather ..
  · rfl

/-- FULL_STRIPE_HOLD_EXPIRY leaves no write of the stripe held (R181). -/
theorem opHoldStripe_gather (t : Nat) : (s.opHoldStripe t).trail.gather = s.trail.gather.filter fun g => g.1 != t := by
  unfold State.opHoldStripe
  split
  case isTrue => exact flushGather_gather ..
  case isFalse h =>
    refine (List.filter_eq_self.mpr fun g hg => ?_).symm
    simpa using fun he => h (List.any_eq_true.mpr ⟨g, hg, by simpa using he⟩)

end Sys2Proof.Proofs.StackedMemory
end

section
/-! Proofs for 06_stacked_memory: slots that lose what they hold, retirement (R183, R184, R193, R499), and the end of
calibrations and init passes (R175, R390, R476, R483 to R485). -/

namespace Sys2Proof.Proofs.StackedMemory

open Sys2Proof.Machine Sys2Proof.Laws Sys2Proof.Proofs.Translation

variable {s t : State} {st ch : Nat}

/-! ### Slots that lose what they hold -/

/-- Stacked memory holds what it held, but in the slots that pass a test every word is gone. -/
structure Dropped (f : Nat → Bool) (s t : State) : Prop where
  /-- The data bytes of the other slots. -/
  bytes : t.mem.bytes = SMap.keep (fun a => !f (a / 64)) s.mem.bytes
  /-- What the other slots hold. -/
  kinds : t.mem.kinds = SMap.keep (fun k => !f k) s.mem.kinds
  /-- The error patterns of the other slots. -/
  errs : t.mem.errs = SMap.keep (fun k => !f k) s.mem.errs

namespace Dropped

variable {f : Nat → Bool} {x : Nat}

theorem kind_gone (h : Dropped f s t) (hx : f x = true) : t.slotKind x = .neverWritten := by
  simp [State.slotKind, h.kinds, get_keep, hx]

theorem err_gone (h : Dropped f s t) (hx : f x = true) : t.slotErr x = 0 := by
  simp [State.slotErr, h.errs, get_keep, hx]

theorem kind_kept (h : Dropped f s t) (hx : f x = false) : t.slotKind x = s.slotKind x := by
  simp [State.slotKind, h.kinds, get_keep, hx]

theorem data_kept (h : Dropped f s t) (hx : f x = false) : t.slotData x = s.slotData x := by
  unfold State.slotData
  congr 1
  apply List.map_congr_left
  intro b hb
  rw [List.mem_range] at hb
  have hslot : (x * 64 + b) / 64 = x := by omega
  rw [h.bytes, get_keep, hslot, hx]
  rfl

end Dropped

/-! ### Retirement (R183, R184, R499) -/

/-- The slots of a channel of a stack. -/
def channelSlots (st ch slot : Nat) : Bool := slot / stackSlots == st && channelOf (slot % stackSlots) == ch

/-- The slots of a stack. -/
def ofStack (st slot : Nat) : Bool := slot / stackSlots == st

theorem ofStack_true {x : Nat} (h : x / stackSlots = st) : ofStack st x = true := by simp [ofStack, h]

theorem ofStack_false {x : Nat} (h : x / stackSlots ≠ st) : ofStack st x = false := by simp [ofStack, h]

theorem channelSlots_true {x : Nat} (h : x / stackSlots = st) (hc : channelOf (x % stackSlots) = ch) :
    channelSlots st ch x = true := by simp [channelSlots, h, hc]

theorem channelSlots_false {x : Nat} (h : x / stackSlots ≠ st) : channelSlots st ch x = false := by
  simp [channelSlots, h]

/-- Withdrawing pages changes the list of withdrawn pages alone. -/
theorem withdraw_eq (s : State) (prot : Bool) :
    ∃ w, s.withdraw prot = { s with mem := { s.mem with withdrawn := w } } := by
  unfold State.withdraw
  dsimp only
  split
  · exact ⟨_, rfl⟩
  · exact ⟨_, rfl⟩

theorem withdrawAll_eq (s : State) : ∃ w, s.withdrawAll = { s with mem := { s.mem with withdrawn := w } } := by
  obtain ⟨w, h⟩ := withdraw_eq s false
  obtain ⟨w', h'⟩ := withdraw_eq (s.withdraw false) true
  exact ⟨w', by rw [State.withdrawAll, h', h]⟩

@[simp] theorem withdrawAll_reg (s : State) (k : Nat) : s.withdrawAll.reg k = s.reg k := by
  obtain ⟨w, h⟩ := withdrawAll_eq s
  rw [h]; rfl

theorem dropped_withdrawAll {f : Nat → Bool} (h : Dropped f s t) : Dropped f s t.withdrawAll := by
  obtain ⟨w, hw⟩ := withdrawAll_eq t
  rw [hw]
  exact ⟨h.bytes, h.kinds, h.errs⟩

theorem dropped_logEvent {f : Nat → Bool} (h : Dropped f s t) (a b c d e : Nat) :
    Dropped f s (t.logEvent a b c d e) := by
  have hm := (sameMem_logEvent t a b c d e).1
  exact ⟨by rw [hm, h.bytes], by rw [hm, h.kinds], by rw [hm, h.errs]⟩

/-- Retirement of a channel that is not retired takes what its slots hold. -/
theorem retireChannel_dropped (hst : st < 16) (hch : ch < 32) (h5 : s.stackState st ≠ 5)
    (hb : bitOf (s.reg (E.stackRetiredChannels st)) ch = false) :
    Dropped (channelSlots st ch) s (s.retireChannel st ch) := by
  have h : ¬ (16 ≤ st ∨ 32 ≤ ch ∨ s.stackState st = 5 ∨ bitOf (s.reg (E.stackRetiredChannels st)) ch = true) := by
    simp [hst, hch, h5, hb]
  rw [State.retireChannel, if_neg h]
  exact dropped_withdrawAll (dropped_logEvent ⟨rfl, rfl, rfl⟩ ..)

theorem logEvent_reg (a b c d e : Nat) {k : Nat} (h : k ≠ E.logLogOverwrites) :
    (s.logEvent a b c d e).reg k = s.reg k := logEventAt_reg (h := h) ..

/-- The registers of a retirement that takes place. -/
theorem retireChannel_retired (hst : st < 16) (hch : ch < 32) (h5 : s.stackState st ≠ 5)
    (hb : bitOf (s.reg (E.stackRetiredChannels st)) ch = false) :
    (s.retireChannel st ch).reg (E.stackRetiredChannels st) = s.reg (E.stackRetiredChannels st) + 2 ^ ch := by
  have h : ¬ (16 ≤ st ∨ 32 ≤ ch ∨ s.stackState st = 5 ∨ bitOf (s.reg (E.stackRetiredChannels st)) ch = true) := by
    simp [hst, hch, h5, hb]
  have hlog : E.stackRetiredChannels st ≠ E.logLogOverwrites := by
    simp only [E.stackRetiredChannels, E.logLogOverwrites, ekey]; omega
  rw [State.retireChannel, if_neg h]
  simp [logEvent_reg, hlog]

/-- A retirement changes no register but the retired channels of its stack and the count of lost events. -/
theorem retireChannel_reg {k : Nat} (hk : k ≠ E.stackRetiredChannels st) (hlog : k ≠ E.logLogOverwrites) :
    (s.retireChannel st ch).reg k = s.reg k := by
  unfold State.retireChannel
  split
  · rfl
  · simp [logEvent_reg, hlog, hk]

theorem retireChannels_reg (channels : BitVec 32) {k : Nat} (hk : k ≠ E.stackRetiredChannels st)
    (hlog : k ≠ E.logLogOverwrites) : (s.retireChannels st channels).reg k = s.reg k := by
  unfold State.retireChannels
  generalize (List.range 32).filter (fun c => channels.getLsbD c) = l
  induction l generalizing s with
  | nil => rfl
  | cons c l ih => exact ih.trans (retireChannel_reg hk hlog)

/-- Retirement of a stack takes what its slots hold. -/
theorem retireStack_dropped (hst : st < 16) (h5 : s.stackState st ≠ 5) : Dropped (ofStack st) s (s.retireStack st) := by
  rw [State.retireStack, if_neg (by simp [hst, h5])]
  exact dropped_withdrawAll (dropped_logEvent ⟨rfl, rfl, rfl⟩ ..)

/-- Retirement of a stack changes no register but its STATE and the count of lost events. -/
theorem retireStack_reg {k : Nat} (hk : k ≠ E.stackState st) (hlog : k ≠ E.logLogOverwrites) :
    (s.retireStack st).reg k = s.reg k := by
  unfold State.retireStack
  split
  · rfl
  · simp [logEvent_reg, hlog, hk]

theorem retireStack_state (hst : st < 16) (h5 : s.stackState st ≠ 5) : (s.retireStack st).stackState st = 5 := by
  have hlog : E.stackState st ≠ E.logLogOverwrites := by
    simp only [E.stackState, E.logLogOverwrites, ekey]; omega
  rw [State.retireStack, if_neg (by simp [hst, h5])]
  simp [State.stackState, logEvent_reg, hlog]

/-! ### A stack comes into service (R383, R390, R484) -/

@[simp] theorem enterService_reg (s : State) (st k : Nat) :
    (s.enterService st).reg k = if k = E.stackState st then 3 else s.reg k := setReg_reg ..

@[simp] theorem enterService_mem (s : State) (st : Nat) : (s.enterService st).mem = s.mem := rfl

/-- The end of the init pass leaves nothing in the stack's slots, and the stack in service. -/
theorem opInitDone_done (hc : s.coreOn = true) (hst : st < 16) (h2 : s.stackState st = 2) :
    ∃ u, s.opInitDone st = u.enterService st ∧ Dropped (ofStack st) s u ∧ u.dir = s.dir ∧ ∀ k, u.reg k = s.reg k := by
  have h : ¬ (¬ s.coreOn = true ∨ 16 ≤ st ∨ s.stackState st ≠ 2) := by simp [hc, hst, h2]
  exact ⟨_, if_neg h, ⟨rfl, rfl, rfl⟩, rfl, fun _ => rfl⟩

/-- The start of the next calibration leaves every register but CAL_ACTIVE and the STATE of a stack that was OFF. -/
theorem nextCal_reg {k : Nat} (hk : k ≠ E.calCalActive) (hoff : ∀ x, s.stackState x = 0 → k ≠ E.stackState x) :
    s.nextCal.reg k = s.reg k := by
  unfold State.nextCal
  split
  · rfl
  · split
    · rfl
    · rename_i x _
      dsimp only
      split
      case isTrue h => simp [hk, hoff x h]
      case isFalse => rfl

@[simp] theorem nextCal_mem (s : State) : s.nextCal.mem = s.mem := by
  unfold State.nextCal
  split
  · rfl
  · split
    · rfl
    · dsimp only
      split <;> rfl

/-! ### The end of a calibration (R476, R483, R485) -/

/-- A calibrated stack serves where it kept its contents, and is initialised where it did not. -/
def takeCalibrated (s : State) (st : Nat) (kept : Bool) : State :=
  if kept then s.enterService st else s.setReg (E.stackState st) 2

@[simp] theorem takeCalibrated_reg (s : State) (st : Nat) (kept : Bool) (k : Nat) :
    (takeCalibrated s st kept).reg k = if k = E.stackState st then (if kept then 3 else 2) else s.reg k := by
  cases kept <;> simp [takeCalibrated]

@[simp] theorem takeCalibrated_mem (s : State) (st : Nat) (kept : Bool) : (takeCalibrated s st kept).mem = s.mem := by
  cases kept <;> rfl

/-- CAL_ACTIVE is cleared, and the next stack of the queue is calibrated. -/
def calibrationOver (s : State) : State := (s.setReg E.calCalActive 0xFF).nextCal

theorem calibrated_pass : s.calibrated st .pass = calibrationOver
    (takeCalibrated (s.setReg (E.calCalResult st) (if s.calKept st then 2 else 1)) st (s.calKept st)) := rfl

theorem calibrated_channelsFail (channels : BitVec 32) : s.calibrated st (.channelsFail channels) = calibrationOver
    ((takeCalibrated (s.setReg (E.calCalResult st) 1) st (s.calKept st)).retireChannels st channels) := rfl

theorem calibrated_stackFail : s.calibrated st .stackFail = calibrationOver
    ((s.setReg (E.calCalResult st) 3).retireStack st) := rfl

@[simp] theorem calibrationOver_mem (s : State) : (calibrationOver s).mem = s.mem := nextCal_mem _

section CalResult

theorem calCalResult_ne_stackState (h : st < 16) (x : Nat) : E.calCalResult st ≠ E.stackState x := by
  simp only [E.calCalResult, E.stackState, ekey]; omega

theorem calCalResult_ne_stackRetiredChannels (h : st < 16) (x : Nat) :
    E.calCalResult st ≠ E.stackRetiredChannels x := by
  simp only [E.calCalResult, E.stackRetiredChannels, ekey]; omega

theorem calCalResult_ne_calCalActive : E.calCalResult st ≠ E.calCalActive := by
  simp only [E.calCalResult, E.calCalActive, ekey]; omega

theorem calCalResult_ne_logLogOverwrites (h : st < 16) : E.calCalResult st ≠ E.logLogOverwrites := by
  simp only [E.calCalResult, E.logLogOverwrites, ekey]; omega

/-- The next calibration leaves the result of the last one. -/
theorem calibrationOver_result (h : st < 16) (s : State) :
    (calibrationOver s).reg (E.calCalResult st) = s.reg (E.calCalResult st) := by
  rw [calibrationOver, nextCal_reg calCalResult_ne_calCalActive fun x _ => calCalResult_ne_stackState h x]
  simp [calCalResult_ne_calCalActive]

end CalResult

/-- The next calibration is not that of a stack that is not OFF. -/
theorem calibrationOver_state (hs : s.stackState st ≠ 0) :
    (calibrationOver s).stackState st = s.stackState st := by
  have hne : ∀ x, E.stackState x ≠ E.calCalActive := fun x => by
    simp only [E.stackState, E.calCalActive, ekey]; omega
  have hkeep : ∀ x, (s.setReg E.calCalActive 0xFF).stackState x = s.stackState x := fun x => by
    simp [State.stackState, hne x]
  have hoff : ∀ x, (s.setReg E.calCalActive 0xFF).stackState x = 0 → E.stackState st ≠ E.stackState x := by
    intro x hx he
    rw [hkeep] at hx
    exact hs (by rw [State.stackState, he]; exact hx)
  exact (nextCal_reg (hne st) hoff).trans (hkeep st)

theorem opCalibrated_active (hc : s.coreOn = true) (hst : st < 16) (hp : s.reg E.procProcState ≠ 4)
    (ha : s.reg E.calCalActive = st) (h1 : s.stackState st = 1) (o : CalOutcome) :
    s.opCalibrated st o = s.calibrated st o := by
  have hon : ¬ (¬ s.coreOn = true ∨ 16 ≤ st) := not_or.mpr ⟨absurd hc, Nat.not_le.mpr hst⟩
  rw [State.opCalibrated, if_neg hon, if_neg fun h => hp h.1, if_pos ⟨ha, h1⟩]

theorem calibrated_pass_result (hst : st < 16) :
    (s.calibrated st .pass).reg (E.calCalResult st) = if s.calKept st then 2 else 1 := by
  rw [calibrated_pass, calibrationOver_result hst]
  simp [calCalResult_ne_stackState hst]

theorem calibrated_channelsFail_result (hst : st < 16) (channels : BitVec 32) :
    (s.calibrated st (.channelsFail channels)).reg (E.calCalResult st) = 1 := by
  rw [calibrated_channelsFail, calibrationOver_result hst,
    retireChannels_reg _ (calCalResult_ne_stackRetiredChannels hst st) (calCalResult_ne_logLogOverwrites hst)]
  simp [calCalResult_ne_stackState hst]

theorem calibrated_stackFail_result (hst : st < 16) :
    (s.calibrated st .stackFail).reg (E.calCalResult st) = 3 := by
  rw [calibrated_stackFail, calibrationOver_result hst,
    retireStack_reg (calCalResult_ne_stackState hst st) (calCalResult_ne_logLogOverwrites hst)]
  simp

theorem calibrated_pass_state : (s.calibrated st .pass).stackState st = if s.calKept st then 3 else 2 := by
  have hstate : ∀ u kept, (takeCalibrated u st kept).stackState st = if kept then 3 else 2 := fun u kept => by
    simp [State.stackState]
  rw [calibrated_pass, calibrationOver_state (by rw [hstate]; split <;> decide), hstate]

theorem calibrated_pass_mem : (s.calibrated st .pass).mem = s.mem := by
  rw [calibrated_pass]
  simp

/-! ### The commands, and O12 -/

theorem exec_calibrationDone (s : State) (st : Nat) (o : CalOutcome) :
    exec (.calibrationDone st o) s = s.run fun s => s.opCalibrated st o := rfl

theorem exec_initPassDone (s : State) (st : Nat) : exec (.initPassDone st) s = s.run fun s => s.opInitDone st := rfl

/-- Settles O12: an outcome ends in `calibrated`, whose result the next calibration leaves alone, and the init pass
drops the words of its stack; that a kept stack with failing channels reads CAL_RESULT 1 is log 18. -/
theorem calibrationAndInitPassBringStacksIntoService : Obligations.CalibrationAndInitPassBringStacksIntoService := by
  unfold Obligations.CalibrationAndInitPassBringStacksIntoService
  refine fun s st hc hst => ⟨fun o hp ha h1 => ?_, fun h2 => ?_⟩
  · refine completes_ended (exec_calibrationDone s st o) (opCalibrated_active (s := s.front) hc hst hp ha h1 o) ?_
    cases o with
    | pass => exact ⟨calibrated_pass_result hst, fun _ => ⟨calibrated_pass_mem (s := s.front), calibrated_pass_state⟩⟩
    | channelsFail channels => exact ⟨calibrated_channelsFail_result hst channels, nofun⟩
    | stackFail => exact ⟨calibrated_stackFail_result hst, nofun⟩
  · obtain ⟨u, hu, hdrop, hdir, hreg⟩ := opInitDone_done (s := s.front) hc hst h2
    refine completes_ended (exec_initPassDone s st) hu ⟨?_, fun slot h => ?_, fun slot h => ?_, fun k hk => ?_, hdir⟩
    · exact (enterService_reg u st _).trans (if_pos rfl)
    · exact ⟨hdrop.kind_gone (ofStack_true h), hdrop.err_gone (ofStack_true h)⟩
    · exact ⟨hdrop.kind_kept (ofStack_false h), hdrop.data_kept (ofStack_false h)⟩
    · simp [List.ne_of_not_mem_cons hk, hreg]

end Sys2Proof.Proofs.StackedMemory
end

section
/-! Proofs for 06_stacked_memory: held writes are released, and scrubbing, retirement and rebuild act on their own slots
(R178 to R187, R193, R195, R499). -/

namespace Sys2Proof.Proofs.StackedMemory

open Sys2Proof.Machine Sys2Proof.Laws Sys2Proof.Proofs.Translation

variable {s u : State} {st k slot : Nat}

/-! ### States whose slots hold the same words -/

/-- The slots of two states hold the same words. -/
structure SameWords (s u : State) : Prop where
  /-- The data bytes. -/
  bytes : u.mem.bytes = s.mem.bytes
  /-- What the slots hold. -/
  kinds : u.mem.kinds = s.mem.kinds
  /-- The error patterns. -/
  errs : u.mem.errs = s.mem.errs

namespace SameWords

theorem of_mem (h : u.mem = s.mem) : SameWords s u := ⟨by rw [h], by rw [h], by rw [h]⟩

theorem trans {v : State} (h : SameWords s u) (g : SameWords u v) : SameWords s v :=
  ⟨g.bytes.trans h.bytes, g.kinds.trans h.kinds, g.errs.trans h.errs⟩

theorem setSlot (h : SameWords s u) (slot : Nat) (kind : SlotKind) (d : Line) (e : Nat) :
    SameWords (s.setSlot slot kind d e) (u.setSlot slot kind d e) := by
  refine ⟨?_, ?_, ?_⟩ <;> simp only [State.setSlot, h.bytes, h.kinds, h.errs]

theorem slotKind (h : SameWords s u) (x : Nat) : u.slotKind x = s.slotKind x := by
  simp only [State.slotKind, h.kinds]

theorem slotErr (h : SameWords s u) (x : Nat) : u.slotErr x = s.slotErr x := by
  simp only [State.slotErr, h.errs]

theorem slotData (h : SameWords s u) (x : Nat) : u.slotData x = s.slotData x := by
  simp only [State.slotData, h.bytes]

/-- After a word is stored at a slot, every other slot holds what it held. -/
theorem others {kind : SlotKind} {d : Line} {e : Nat} (h : SameWords (s.setSlot slot kind d e) u) (x : Nat)
    (hx : x ≠ slot) : u.slotKind x = s.slotKind x ∧ u.slotData x = s.slotData x :=
  ⟨by rw [h.slotKind, setSlot_kind, if_neg hx], by rw [h.slotData, setSlot_data_ne _ _ _ _ hx]⟩

end SameWords

/-! ### Charges -/

theorem charge_mem (s : State) (c : Charge) (st n : Nat) : (s.charge c st n).mem = s.mem := by
  cases c <;> rfl

/-- Charging slots leaves stacked memory. -/
theorem chargeAll_mem (s : State) (c : Charge) (cost : List (Nat × Nat)) : (s.chargeAll c cost).mem = s.mem := by
  induction cost generalizing s with
  | nil => rfl
  | cons x cost ih => exact (ih _).trans (charge_mem ..)

/-! ### SCRUB (R178) -/

/-- The progress of SCRUB is kept beside the words. -/
theorem scrubbed_words (s : State) (st k : Nat) : SameWords s (s.scrubbed st k) := by
  unfold State.scrubbed
  split
  · exact .of_mem rfl
  · dsimp only
    split <;> exact ⟨rfl, rfl, rfl⟩

/-- A word that reads as corrected is rewritten with its corrected data. -/
theorem opScrub_corrected {err : Nat} {d : Line} (hc : s.coreOn = true) (h3 : s.stackState st = 3)
    (hu : s.unitRetired st k = false) (hs : s.slotStale st k = false)
    (hr : s.readSlot (slotOf st k) err = .corrected d) :
    SameWords (s.setSlot (slotOf st k) .codeword d 0) (s.opScrub st k err) := by
  have hserves : ¬ (¬ s.coreOn = true ∨ s.stackState st ≠ 3 ∨ s.unitRetired st k = true ∨ s.slotStale st k = true) := by
    simp [hc, h3, hu, hs]
  have hnote := SameWords.of_mem (sameMem_noteRead s (slotOf st k) (.corrected d)).1
  have hstore := hnote.setSlot (slotOf st k) .codeword d 0
  rw [State.opScrub, if_neg hserves]
  simp only [hr]
  exact (hstore.trans (.of_mem ((chargeAll_mem ..).trans (bump_mem ..)))).trans (scrubbed_words ..)

/-! ### Retirement of a stack under a procedure (R183, R494) -/

/-- A retirement of a stack in a running device is that of its slots, and the end of its procedure. -/
theorem opStackRetire_takes (hc : s.coreOn = true) (hst : st < 16) (h5 : s.stackState st ≠ 5) :
    s.opStackRetire st = ((s.retireStack st).markProc .stack st).endProc .stack st false := by
  have hon : ¬ (¬ s.coreOn = true ∨ s.stackState st = 5 ∨ 16 ≤ st) :=
    not_or.mpr ⟨absurd hc, not_or.mpr ⟨h5, Nat.not_le.mpr hst⟩⟩
  rw [State.opStackRetire, if_neg hon]

theorem markProc_eq (s : State) (n : UnitKind) (i : Nat) : ∃ p, s.markProc n i = { s with proc := p } := by
  unfold State.markProc
  split <;> exact ⟨_, rfl⟩

/-- The end of a procedure changes the procedure and its registers alone. -/
theorem endProc_failed_eq (s : State) (n : UnitKind) (i : Nat) :
    ∃ p r, s.endProc n i false = { s with proc := p, regs := r } ∧
      ∀ j, j ≠ E.procProcState → SMap.get entryDflt r j = s.reg j := by
  unfold State.endProc
  split
  · exact ⟨_, _, rfl, fun j hj => smap_get_set_ne entryDflt _ _ hj⟩
  · exact ⟨_, _, rfl, fun _ _ => rfl⟩

theorem stackState_ne_procProcState (h : st < 16) : E.stackState st ≠ E.procProcState := by
  simp only [E.stackState, E.procProcState, ekey]; omega

/-- What the retirement of a stack leaves in its STATE and its slots. -/
theorem opStackRetire_retired (hc : s.coreOn = true) (hst : st < 16) (h5 : s.stackState st ≠ 5) :
    (s.opStackRetire st).stackState st = 5 ∧ Dropped (ofStack st) s (s.opStackRetire st) := by
  have hdrop := retireStack_dropped hst h5
  have hstate := retireStack_state hst h5
  obtain ⟨p, hp⟩ := markProc_eq (s.retireStack st) .stack st
  obtain ⟨q, r, hq, hr⟩ := endProc_failed_eq ((s.retireStack st).markProc .stack st) .stack st
  rw [opStackRetire_takes hc hst h5, hq]
  rw [hp] at hr ⊢
  exact ⟨(hr _ (stackState_ne_procProcState hst)).trans hstate, hdrop.bytes, hdrop.kinds, hdrop.errs⟩

/-! ### REBUILD of an unprotected slot (R184, R187) -/

/-- A retired slot has been relocated to a slot that is poisoned until it is written. -/
def relocatedPoisoned (s : State) (st k slot : Nat) : State :=
  ({ s with mem := { s.mem with
      reloc := SMap.set (fun _ => 0) s.mem.reloc (slotOf st k) (slot + 1)
      used := SMap.set (fun _ => false) s.mem.used slot true } } : State).setSlot slot .poisoned 0 0

theorem relocatedPoisoned_words (s : State) (st k slot : Nat) :
    SameWords (s.setSlot slot .poisoned 0 0) (relocatedPoisoned s st k slot) := ⟨rfl, rfl, rfl⟩

theorem relocatedPoisoned_reloc (s : State) (st k slot : Nat) :
    SMap.get (fun _ => 0) (relocatedPoisoned s st k slot).mem.reloc (slotOf st k) = slot + 1 := by
  simp [relocatedPoisoned, State.setSlot]

/-- With a good slot free and slots left in REBUILD's share, an unprotected retired slot is relocated. -/
theorem opRebuild_relocates (hc : s.coreOn = true) (hu : s.unitRetired st k = true) (hk : k < s.protBase / 16)
    (hnew : SMap.get (fun _ => 0) s.mem.reloc (slotOf st k) = 0) (hslot : s.nextGoodSlot false = some slot)
    (hfit : s.systemFits 2 (s.reg E.eccRebuildSlots) [(slot / stackSlots, 1)] = true) :
    s.opRebuild st k = (relocatedPoisoned s st k slot).chargeAll (.system 2) [(slot / stackSlots, 1)] := by
  have hplain : decide (s.protBase / 16 ≤ k) = false := decide_eq_false (by omega)
  simp [State.opRebuild, hc, hu, hplain, hnew, hslot, hfit, relocatedPoisoned]

/-! ### The commands, and O28 -/

section Commands

variable (s) (st k : Nat)

theorem exec_fullStripeHoldExpiry (stripe : Nat) :
    exec (.fullStripeHoldExpiry stripe) s = s.run fun s => s.opHoldStripe stripe := rfl

theorem exec_scrubLine (err : Nat) : exec (.scrubLine st k err) s = s.run fun s => s.opScrub st k err := rfl

theorem exec_channelRetire (ch : Nat) : exec (.channelRetire st ch) s =
    s.run fun s => s.when (decide (st < 16) && decide (ch < 32)) fun s => s.writeRetire st ch := rfl

theorem exec_stackRetire : exec (.stackRetire st) s =
    s.run fun s => s.when (decide (st < 16)) fun s => s.opStackRetire st := rfl

theorem exec_rebuildLine : exec (.rebuildLine st k) s = s.run fun s => s.opRebuild st k := rfl

end Commands

theorem scrubLine_completes {err : Nat} {d : Line} (hc : s.coreOn = true) (h3 : s.stackState st = 3)
    (hu : s.unitRetired st k = false) (hs : s.slotStale st k = false)
    (hr : s.readSlot (slotOf st k) err = .corrected d) : Completes (.scrubLine st k err) s fun t =>
      t.slotKind (slotOf st k) = .codeword ∧ t.slotData (slotOf st k) = d ∧ t.slotErr (slotOf st k) = 0 ∧
        ∀ x, x ≠ slotOf st k → t.slotKind x = s.slotKind x ∧ t.slotData x = s.slotData x := by
  have hw := opScrub_corrected (s := s.front) hc h3 hu hs hr
  refine completes_ended (exec_scrubLine s st k err) rfl ⟨?_, ?_, ?_, hw.others⟩
  · exact (hw.slotKind _).trans ((setSlot_kind ..).trans (if_pos rfl))
  · exact (hw.slotData _).trans (setSlot_data_self ..)
  · exact (hw.slotErr _).trans ((setSlot_err ..).trans (if_pos rfl))

theorem channelRetire_completes {ch : Nat} (hst : st < 16) (hch : ch < 32) (h5 : s.stackState st ≠ 5)
    (hb : bitOf (s.reg (E.stackRetiredChannels st)) ch = false) : Completes (.channelRetire st ch) s fun t =>
      t.reg (E.stackRetiredChannels st) = s.reg (E.stackRetiredChannels st) + 2 ^ ch ∧
        (∀ x, x / stackSlots = st → channelOf (x % stackSlots) = ch → t.slotKind x = .neverWritten) ∧
        ∀ x, x / stackSlots ≠ st → t.slotKind x = s.slotKind x ∧ t.slotData x = s.slotData x := by
  have hop : (s.front.when (decide (st < 16) && decide (ch < 32)) fun s => s.writeRetire st ch) =
      s.front.retireChannel st ch := by
    simp [State.when, State.writeRetire, hst, hch]
  have hdrop := retireChannel_dropped (s := s.front) hst hch h5 hb
  exact completes_ended (exec_channelRetire s st ch) hop ⟨retireChannel_retired (s := s.front) hst hch h5 hb,
    fun x hx hc => hdrop.kind_gone (channelSlots_true hx hc),
    fun x hx => ⟨hdrop.kind_kept (channelSlots_false hx), hdrop.data_kept (channelSlots_false hx)⟩⟩

theorem stackRetire_completes (hc : s.coreOn = true) (hst : st < 16) (h5 : s.stackState st ≠ 5) :
    Completes (.stackRetire st) s fun t =>
      t.stackState st = 5 ∧ (∀ x, x / stackSlots = st → t.slotKind x = .neverWritten) ∧
        ∀ x, x / stackSlots ≠ st → t.slotKind x = s.slotKind x ∧ t.slotData x = s.slotData x := by
  have hop : (s.front.when (decide (st < 16)) fun s => s.opStackRetire st) = s.front.opStackRetire st := by
    simp [State.when, hst]
  obtain ⟨hstate, hdrop⟩ := opStackRetire_retired (s := s.front) hc hst h5
  exact completes_ended (exec_stackRetire s st) hop ⟨hstate, fun x hx => hdrop.kind_gone (ofStack_true hx),
    fun x hx => ⟨hdrop.kind_kept (ofStack_false hx), hdrop.data_kept (ofStack_false hx)⟩⟩

theorem rebuildLine_completes (hc : s.coreOn = true) (hu : s.unitRetired st k = true) (hk : k < s.protBase / 16)
    (hnew : SMap.get (fun _ => 0) s.mem.reloc (slotOf st k) = 0) (hslot : s.nextGoodSlot false = some slot)
    (hfit : s.systemFits 2 (s.reg E.eccRebuildSlots) [(slot / stackSlots, 1)] = true) :
    Completes (.rebuildLine st k) s fun t =>
      SMap.get (fun _ => 0) t.mem.reloc (slotOf st k) = slot + 1 ∧ t.slotKind slot = .poisoned ∧
        ∀ x, x ≠ slot → t.slotKind x = s.slotKind x ∧ t.slotData x = s.slotData x := by
  have hcharge := chargeAll_mem (relocatedPoisoned s.front st k slot) (.system 2) [(slot / stackSlots, 1)]
  have hw := (relocatedPoisoned_words s.front st k slot).trans (.of_mem hcharge)
  refine completes_ended (exec_rebuildLine s st k) (opRebuild_relocates (s := s.front) hc hu hk hnew hslot hfit)
    ⟨?_, ?_, hw.others⟩
  · rw [ended_mem, hcharge, relocatedPoisoned_reloc]
  · exact (hw.slotKind _).trans ((setSlot_kind ..).trans (if_pos rfl))

/-- Settles O28: held writes of a stripe are released (`opHoldStripe_gather`); every other command stores one word
(`SameWords.others`) or drops the words of its unit (`Dropped`). Where a slot is relocated to is log 51. -/
theorem repairCommandsActOnTheirSlots : Obligations.RepairCommandsActOnTheirSlots := by
  unfold Obligations.RepairCommandsActOnTheirSlots
  exact fun s => ⟨fun stripe =>
      completes_ended (exec_fullStripeHoldExpiry s stripe) rfl (opHoldStripe_gather s.front stripe),
    fun st k err d hc h3 hu hs hr => scrubLine_completes hc h3 hu hs hr,
    fun st ch hst hch h5 hb => channelRetire_completes hst hch h5 hb,
    fun st hc hst h5 => stackRetire_completes hc hst h5,
    fun st k slot hc hu hk hnew hslot hfit => rebuildLine_completes hc hu hk hnew hslot hfit⟩

end Sys2Proof.Proofs.StackedMemory
end

section
/-! Proofs for 07_bivouac_compute: one Bivouac that is set twice, what ends a kernel, and the instruction that a Peg issues
(R201, R226, R227). -/

namespace Sys2Proof.Proofs.BivouacCompute

open Sys2Proof.Machine Sys2Proof.Laws

variable {s u v : State} {b g : Nat}

/-! ### Setting one Bivouac -/

theorem smap_del_put {α : Type} (m : SMap α) (k : Nat) (v : α) : SMap.del (SMap.put m k v) k = SMap.del m k := by
  induction m with
  | nil => simp [SMap.put, SMap.del]
  | cons e m ih =>
    unfold SMap.put
    split
    · simp [SMap.del]
    · unfold SMap.del at ih ⊢
      rw [List.filter_cons, List.filter_cons, ih]

theorem smap_del_del {α : Type} (m : SMap α) (k : Nat) : SMap.del (SMap.del m k) k = SMap.del m k := by
  simp [SMap.del]

/-- Of two writes at one key the second counts. -/
theorem smap_set_set {α : Type} [DecidableEq α] (f : Nat → α) (m : SMap α) (k : Nat) (v w : α) :
    SMap.set f (SMap.set f m k v) k w = SMap.set f m k w := by
  have hd : SMap.del (SMap.set f m k v) k = SMap.del m k := by
    unfold SMap.set
    split
    · exact smap_del_del m k
    · rw [smap_del_put, smap_del_del]
  simp only [SMap.set] at hd ⊢
  rw [hd]

theorem setBiv_setBiv (s : State) (b : Nat) (x y : Biv) : (s.setBiv b x).setBiv b y = s.setBiv b y := by
  simp [State.setBiv, smap_set_set]

@[simp] theorem bivAt_setBiv_self (s : State) (b : Nat) (x : Biv) : (s.setBiv b x).bivAt b = x := by
  simp [bivAt_setBiv]

/-- A Bivouac is read from the Bivouacs alone. -/
theorem bivAt_congr (h : v.biv = s.biv) (b : Nat) : v.bivAt b = s.bivAt b := by
  rw [State.bivAt, h, State.bivAt]

/-- The cluster behind a logical number is read from the registers alone. -/
theorem physOf_congr (h : v.regs = s.regs) (b : Nat) : v.physOf b = s.physOf b := by
  simp only [State.physOf, reg_congr h]

/-- A Peg is set in the Bivouac that was set before. -/
theorem setPeg_setBiv (s : State) (b g : Nat) (x : Biv) (p : Peg) :
    (s.setBiv b x).setPeg b g p = s.setBiv b { x with pegs := x.pegs.set g p } := by
  simp only [State.setPeg, bivAt_setBiv_self, setBiv_setBiv]

/-- What is left but for the Bivouacs does not see one that was set before. -/
theorem bivOnly_setBiv {t : State} {x : Biv} : BivOnly (u.setBiv b x) s t ↔ BivOnly u s t := Iff.rfl

theorem bivOnly_regs {t : State} (h : BivOnly u s t) : t.regs = u.regs := by rw [h]
theorem bivOnly_sward {t : State} (h : BivOnly u s t) : t.sward = u.sward := by rw [h]
theorem bivOnly_mem {t : State} (h : BivOnly u s t) : t.mem = u.mem := by rw [h]

/-! ### The end of a kernel (R226, R227) -/

/-- The end of a partition changes the descriptors alone. -/
theorem endPart_eq (s : State) (id : DescId) (k : Nat) (o : DescOut) :
    s.endPart id k o = { s with work := (s.endPart id k o).work } := by
  unfold State.endPart
  split <;> rfl

@[simp] theorem endPart_biv (s : State) (id : DescId) (k : Nat) (o : DescOut) : (s.endPart id k o).biv = s.biv := by
  rw [endPart_eq]
@[simp] theorem endPart_regs (s : State) (id : DescId) (k : Nat) (o : DescOut) : (s.endPart id k o).regs = s.regs := by
  rw [endPart_eq]
@[simp] theorem endPart_sward (s : State) (id : DescId) (k : Nat) (o : DescOut) : (s.endPart id k o).sward = s.sward := by
  rw [endPart_eq]
@[simp] theorem endPart_mem (s : State) (id : DescId) (k : Nat) (o : DescOut) : (s.endPart id k o).mem = s.mem := by
  rw [endPart_eq]

/-- The registers once the cluster that ran a kernel is idle again. -/
def idled (s : State) (b : Nat) : State :=
  (s.physOf b).elim s fun n => (s.setReg (E.bivState n) 1).bump (E.bivDescriptors n)

theorem idled_eq (s : State) (b : Nat) : idled s b = { s with regs := (idled s b).regs } := by
  unfold idled
  cases s.physOf b <;> rfl

@[simp] theorem idled_biv (s : State) (b : Nat) : (idled s b).biv = s.biv := by rw [idled_eq]
@[simp] theorem idled_sward (s : State) (b : Nat) : (idled s b).sward = s.sward := by rw [idled_eq]
@[simp] theorem idled_mem (s : State) (b : Nat) : (idled s b).mem = s.mem := by rw [idled_eq]

theorem idled_lastFault (s : State) (b m : Nat) : (idled s b).reg (E.bivLastFault m) = s.reg (E.bivLastFault m) := by
  unfold idled
  cases s.physOf b with
  | none => rfl
  | some n =>
    have hd : E.bivLastFault m ≠ E.bivDescriptors n := by simp only [E.bivLastFault, E.bivDescriptors, ekey]; omega
    have hs : E.bivLastFault m ≠ E.bivState n := by simp only [E.bivLastFault, E.bivState, ekey]; omega
    rw [Option.elim_some, bump_reg, if_neg hd, setReg_reg, if_neg hs]

/-- A Bivouac without its kernel: Pegs and Ridgepole stop, and what was staged for the partition is released. -/
def withoutKernel (x : Biv) (id : DescId) (k : Nat) : Biv :=
  { x with
    kernel := none, pegs := [], code := [], rpQueue := [], rpRun := false, rpBusy := false, rpWait := false
    bufs := x.bufs.filter fun c => !(c.desc == id && c.part == k)
    staged := x.staged.filter fun c => !(c.1 == id && c.2.1 == k) }

theorem endKernel_of_none (o : DescOut) (hk : (s.bivAt b).kernel = none) : s.endKernel b o = s := by
  simp only [State.endKernel, hk]

/-- The end of a kernel: the Bivouac runs none, its cluster is idle, and the partition ends (R226). -/
theorem endKernel_of_some {id : DescId} {k t0 : Nat} (o : DescOut) (hk : (s.bivAt b).kernel = some (id, k, t0)) :
    s.endKernel b o = (idled (s.setBiv b (withoutKernel (s.bivAt b) id k)) b).endPart id k o := by
  unfold State.endKernel idled
  rw [hk]
  dsimp only [withoutKernel]
  generalize State.physOf _ b = n
  cases n <;> rfl

/-- What a kernel's end leaves behind: no kernel, the fault registers and both memories as they were. -/
structure KernelOver (b : Nat) (s t : State) : Prop where
  kernel : (t.bivAt b).kernel = none
  lastFault : ∀ m, t.reg (E.bivLastFault m) = s.reg (E.bivLastFault m)
  sward : t.sward = s.sward
  mem : t.mem = s.mem

theorem endKernel_over (s : State) (b : Nat) (o : DescOut) : KernelOver b s (s.endKernel b o) := by
  cases hk : (s.bivAt b).kernel with
  | none =>
    rw [endKernel_of_none o hk]
    exact ⟨hk, fun _ => rfl, rfl, rfl⟩
  | some q =>
    obtain ⟨id, k, t0⟩ := q
    rw [endKernel_of_some o hk]
    refine ⟨?_, fun m => ?_, ?_, ?_⟩
    · rw [bivAt_congr (endPart_biv ..), bivAt_congr (idled_biv ..), bivAt_setBiv_self]; rfl
    · rw [reg_congr (endPart_regs ..), idled_lastFault]; rfl
    · rw [endPart_sward, idled_sward]; rfl
    · rw [endPart_mem, idled_mem]; rfl

/-- A trap of a Peg ends its kernel, with the cause and the Peg in LAST_FAULT of the cluster; the memories stand. -/
theorem pegTrap_over {m : Nat} (hm : s.physOf b = some m) (cause tval : Nat) :
    ((s.pegTrap b g cause tval).bivAt b).kernel = none ∧
      (s.pegTrap b g cause tval).reg (E.bivLastFault m) = cause + g * 256 ∧
      (s.pegTrap b g cause tval).sward = s.sward ∧ (s.pegTrap b g cause tval).mem = s.mem := by
  have hc : E.bivLastFault m ≠ if cause = 0x40 then E.bivPoisonEvents m else E.bivKernelFaults m := by
    split <;> simp only [E.bivLastFault, E.bivPoisonEvents, E.bivKernelFaults, ekey] <;> omega
  have ha : E.bivLastFault m ≠ E.bivLastFaultAddr m := by simp only [E.bivLastFault, E.bivLastFaultAddr, ekey]; omega
  simp only [State.pegTrap, hm]
  obtain ⟨hk, hl, hs, hmem⟩ := endKernel_over ((s.setRegs [(E.bivLastFault m, cause + g * 256),
    (E.bivLastFaultAddr m, tval % 2 ^ 64)]).bump (if cause = 0x40 then E.bivPoisonEvents m else E.bivKernelFaults m)) b
    { status := if cause = 0x40 then 0x08 else 0x09, detail := cause }
  refine ⟨hk, ?_, hs, hmem⟩
  rw [hl, bump_reg, if_neg hc, setRegs_cons, setRegs_cons, setRegs_nil, setReg_reg, if_neg ha, setReg_reg, if_pos rfl]

theorem ended_bivAt (s u : State) (b : Nat) : (Translation.ended s u).bivAt b = u.bivAt b := rfl
theorem ended_sward (s u : State) : (Translation.ended s u).sward = u.sward := rfl

/-- A command whose operation ends in a trap. -/
theorem trap_completes {c : Instr} {f : State → State} {cause tval m : Nat} (hc : exec c s = s.run f)
    (hf : f s.front = u.pegTrap b g cause tval) (hm : u.physOf b = some m) : Completes c s fun t =>
      (t.bivAt b).kernel = none ∧ t.reg (E.bivLastFault m) = cause + g * 256 ∧ t.sward = u.sward ∧ t.mem = u.mem := by
  refine Translation.completes_ended hc hf ?_
  rw [ended_bivAt, Translation.ended_reg, ended_sward, Translation.ended_mem]
  exact pegTrap_over hm cause tval

/-! ### One instruction of a Peg -/

section Issue

variable {env : Env} {w : PegWho} {p q : Peg} {n raw i : Nat} {c : Instr} {f : State → State}

/-- Where the instruction that was fetched is of the command's kind, the command performs it. -/
theorem issue_of_pegAt (h : s.pegAt env b g w p u n raw i) {mine : Nat → Bool} (hm : mine i = true)
    (act : State → PegWho → Peg → Nat → Nat → ScalarEnd) :
    s.front.issue b g env mine act = u.endInsn w raw (act u w p n i) := by
  obtain ⟨hctx, hfetch⟩ := h
  simp only [State.issue, hctx, hfetch, hm, if_true]

theorem pegAt_who (h : s.pegAt env b g w p u n raw i) : w.b = b ∧ w.g = g := pegContext_who h.1

variable (h : s.pegAt env b g w p u n raw i) (hc : exec c s = s.run f)

include h hc

/-- An instruction that ends well puts its Peg back. -/
theorem insn_steps (hf : f s.front = u.endInsn w raw (.done v q .ok)) : Completes c s fun t => PegSteps v s t b g q := by
  obtain ⟨rfl, rfl⟩ := pegAt_who h
  exact pegSteps_of hc hf

/-- An illegal instruction ends the kernel with cause 2 (R227). -/
theorem insn_illegal {m : Nat} (hf : f s.front = u.endInsn w raw .illegal) (hm : u.physOf b = some m) :
    Completes c s fun t => (t.bivAt b).kernel = none ∧ t.reg (E.bivLastFault m) = 2 + g * 256 := by
  obtain ⟨rfl, rfl⟩ := pegAt_who h
  rw [State.endInsn] at hf
  obtain ⟨t, ht, hk, hl, -, -⟩ := trap_completes hc hf hm
  exact ⟨t, ht, hk, hl⟩

/-- An entry that is queued stands at the end of the queue and the Peg goes on; at a full queue the Peg stalls (R210). -/
theorem insn_queues {op : RpOp} {cfg : Nat} (hf : f s.front = u.endInsn w raw (u.rpPush w p op cfg)) :
    if 16 ≤ (u.bivAt b).rpQueue.length then Completes c s fun t => PegSteps u s t b g p
    else Completes c s fun t => BivBecomes u s t b { u.bivAt b with
      rpCfg := cfg, rpQueue := (u.bivAt b).rpQueue ++ [{ op, cfg, peg := g }]
      pegs := (u.bivAt b).pegs.set g (p.retire 4) } := by
  obtain ⟨rfl, rfl⟩ := pegAt_who h
  split
  case isTrue hfull =>
    refine insn_steps h hc (raw := raw) ?_
    rw [hf, State.rpPush, if_pos hfull]
  case isFalse hroom =>
    refine bivBecomes_of hc ?_
    rw [hf, State.rpPush, if_neg hroom]
    exact setPeg_setBiv ..

end Issue

end Sys2Proof.Proofs.BivouacCompute
end

section
/-! Proofs for 07_bivouac_compute: the instructions of the Ridgepole enter its queue (R206 to R212, R226). -/

namespace Sys2Proof.Proofs.BivouacCompute

open Sys2Proof.Machine Sys2Proof.Laws

variable {s u : State} {b g : Nat} {w : PegWho} {p : Peg} {n raw i : Nat}

/-- An entry whose aperture ranges may all be used is queued with the configuration most recently queued (R210, R212). -/
theorem rpPushChecked_of_ranges {op : RpOp} {ranges : List (Nat × Nat × Bool)}
    (h : ∀ r ∈ ranges, u.apertureRange w.b w.d.id.pitch r.1 r.2.1 r.2.2 = true) :
    u.rpPushChecked w p op ranges = u.rpPush w p op (u.bivAt w.b).rpCfg := by
  have hn : (ranges.find? fun r => !u.apertureRange w.b w.d.id.pitch r.1 r.2.1 r.2.2) = none :=
    List.find?_eq_none.mpr fun r hr => by simp [h r hr]
  simp only [State.rpPushChecked, hn]

/-! The operation of each command. -/

section Commands

variable (s b g)

theorem exec_rpCfg : exec (.rpCfg b g) s = s.run fun s => s.opRpCfg b g := rfl
theorem exec_rpMma : exec (.rpMma b g) s = s.run fun s => s.opRpMma b g := rfl
theorem exec_rpZero : exec (.rpZero b g) s = s.run fun s => s.opRpZero b g := rfl
theorem exec_rpLoadc : exec (.rpLoadc b g) s = s.run fun s => s.opRpLoadc b g := rfl
theorem exec_rpStore : exec (.rpStore b g) s = s.run fun s => s.opRpStore b g := rfl
theorem exec_rpStat : exec (.rpStat b g) s = s.run fun s => s.opRpStat b g := rfl
theorem exec_rpFence : exec (.rpFence b g) s = s.run fun s => s.opRpFence b g := rfl
theorem exec_pegExit : exec (.pegExit b g) s = s.run fun s => s.opPegExit b g := rfl
theorem exec_ridgepoleEntryStart : exec (.ridgepoleEntryStart b) s = s.run fun s => s.opEntryStart b := rfl
theorem exec_ridgepoleEntryEnd : exec (.ridgepoleEntryEnd b) s = s.run fun s => s.opEntryEnd b := rfl

end Commands

/-! What each operation makes of the instruction that its Peg has fetched. -/

section Operations

variable (h : s.pegAt {} b g w p u n raw i)

include h

theorem opRpCfg_accepted (hi : isCustom 0x0B 0 i = true) (hok : cfgOk (p.reg (bits i 19 15)) = true) :
    s.front.opRpCfg b g = u.endInsn w raw (u.rpPush w p .cfg (p.reg (bits i 19 15) % 2 ^ 23)) := by
  rw [State.opRpCfg, issue_of_pegAt h hi]
  simp only [hok, if_true]

theorem opRpCfg_illegal (hi : isCustom 0x0B 0 i = true) (hok : cfgOk (p.reg (bits i 19 15)) = false) :
    s.front.opRpCfg b g = u.endInsn w raw .illegal := by
  rw [State.opRpCfg, issue_of_pegAt h hi]
  simp only [hok, Bool.false_eq_true, if_false]

theorem opRpMma_queues (hi : isCustom 0x0B 1 i = true)
    (ha : u.apertureRange b w.d.id.pitch (p.reg (bits i 19 15))
      (cfgK (u.bivAt b).rpCfg * panelBlockBytes (cfgA (u.bivAt b).rpCfg)) false = true)
    (hb : u.apertureRange b w.d.id.pitch (p.reg (bits i 24 20))
      (cfgK (u.bivAt b).rpCfg * panelBlockBytes (cfgB (u.bivAt b).rpCfg)) false = true) :
    s.front.opRpMma b g = u.endInsn w raw (u.rpPush w p
      (.mma (bits i 25 25) (p.reg (bits i 19 15)) (p.reg (bits i 24 20))) (u.bivAt b).rpCfg) := by
  obtain ⟨rfl, rfl⟩ := pegAt_who h
  rw [State.opRpMma, issue_of_pegAt h hi]
  exact congrArg _ (rpPushChecked_of_ranges (by simp [ha, hb]))

theorem opRpZero_queues (hi : isCustom 0x0B 2 i = true) : s.front.opRpZero b g =
    u.endInsn w raw (u.rpPush w p (.zero (bits i 25 25)) (u.bivAt b).rpCfg) := by
  obtain ⟨rfl, rfl⟩ := pegAt_who h
  exact issue_of_pegAt h hi _

theorem opRpLoadc_queues (hi : isCustom 0x0B 3 i = true)
    (ha : u.apertureRange b w.d.id.pitch (p.reg (bits i 19 15)) 16384 false = true) :
    s.front.opRpLoadc b g =
      u.endInsn w raw (u.rpPush w p (.loadc (bits i 25 25) (p.reg (bits i 19 15))) (u.bivAt b).rpCfg) := by
  obtain ⟨rfl, rfl⟩ := pegAt_who h
  rw [State.opRpLoadc, issue_of_pegAt h hi]
  exact congrArg _ (rpPushChecked_of_ranges (by simp [ha]))

theorem opRpStore_queues (hi : isCustom 0x0B 4 i = true)
    (ha : u.apertureRange b w.d.id.pitch (p.reg (bits i 19 15)) (storeBytesOf (u.bivAt b).rpCfg) true = true) :
    s.front.opRpStore b g =
      u.endInsn w raw (u.rpPush w p (.store (bits i 25 25) (p.reg (bits i 19 15))) (u.bivAt b).rpCfg) := by
  obtain ⟨rfl, rfl⟩ := pegAt_who h
  rw [State.opRpStore, issue_of_pegAt h hi]
  exact congrArg _ (rpPushChecked_of_ranges (by simp [ha]))

theorem opRpStat_status (hi : isCustom 0x0B 5 i = true) : s.front.opRpStat b g =
    u.endInsn w raw (.done u ((p.setReg (bits i 11 7) (u.bivAt b).rpStatus).retire n) .ok) := by
  obtain ⟨rfl, rfl⟩ := pegAt_who h
  exact issue_of_pegAt h hi _

theorem opRpFence_status (hi : isCustom 0x0B 6 i = true) (hq : (u.bivAt b).rpQueue = []) : s.front.opRpFence b g =
    u.endInsn w raw (.done u ((p.setReg (bits i 11 7) (u.bivAt b).rpStatus).retire n) .ok) := by
  obtain ⟨rfl, rfl⟩ := pegAt_who h
  rw [State.opRpFence, issue_of_pegAt h hi]
  simp only [hq, if_true]

theorem opPegExit_exits (hi : isCustom 0x2B 7 i = true) : s.front.opPegExit b g =
    u.endInsn w raw (.done u { p.retire n with exited := some (p.reg (bits i 19 15)) } .ok) :=
  issue_of_pegAt h hi _

end Operations

/-- The first entry starts when none is being performed (R210). -/
theorem opEntryStart_starts (hc : s.coreOn = true) (hs : s.stopped = false) (hr : (s.bivAt b).rpRun = false)
    (hq : (s.bivAt b).rpQueue ≠ []) :
    s.opEntryStart b = s.setBiv b { s.bivAt b with rpRun := true, rpBusy := true } := by
  simp [State.opEntryStart, hc, hs, hr, hq]

end Sys2Proof.Proofs.BivouacCompute
end

section
/-! Proofs for 07_bivouac_compute: the accumulators and the aperture, and what an entry does when it has been performed
(R206, R213 to R218, R227). -/

namespace Sys2Proof.Proofs.BivouacCompute

open Sys2Proof.Machine Sys2Proof.Laws

/-! ### The accumulators -/

section Accumulators

variable (x : Biv) (a : Nat) (f : Nat → Nat → Nat) (v : Bool)

/-- A table after the keys from `base` on at the listed places were written. -/
theorem smap_get_foldl_set (base : Nat) (val : Nat → Nat) (l : List Nat) (m : SMap Nat) (key : Nat) :
    SMap.get (fun _ => 0) (l.foldl (fun m k => SMap.set (fun _ => 0) m (base + k) (val k)) m) key =
      if base ≤ key ∧ key - base ∈ l then val (key - base) else SMap.get (fun _ => 0) m key := by
  induction l generalizing m with
  | nil => simp
  | cons k l ih =>
    rw [List.foldl_cons, ih, smap_get_set]
    by_cases hkey : key = base + k
    · subst hkey
      simp
    · have hk : base ≤ key → key - base ≠ k := by omega
      by_cases hb : base ≤ key
      · simp [hkey, hb, hk hb]
      · simp [hkey, hb]

/-- An element of a set after every element of one set was written. -/
theorem accAt_setAcc {a' i j : Nat} (hi : i < 64) (hj : j < 64) :
    (x.setAcc a f).accAt a' i j = if a' = a then f i j else x.accAt a' i j := by
  have hk : 4096 * a ≤ 4096 * a' + 64 * i + j ∧ 4096 * a' + 64 * i + j - 4096 * a < 4096 ↔ a' = a := by omega
  simp only [Biv.accAt, Biv.setAcc, smap_get_foldl_set _ (fun k => f (k / 64) (k % 64)), List.mem_range, hk]
  split
  case isTrue ha =>
    subst ha
    have hrow : (4096 * a' + 64 * i + j - 4096 * a') / 64 = i := by omega
    have hcol : (4096 * a' + 64 * i + j - 4096 * a') % 64 = j := by omega
    rw [hrow, hcol]
  case isFalse => rfl

@[simp] theorem setAcc_rpQueue : (x.setAcc a f).rpQueue = x.rpQueue := by simp only [Biv.setAcc]
@[simp] theorem setAcc_poison (a' : Nat) : (x.setAcc a f).poison a' = x.poison a' := by
  simp only [Biv.poison, Biv.setAcc]

@[simp] theorem setPoison_rpQueue : (x.setPoison a v).rpQueue = x.rpQueue := by unfold Biv.setPoison; split <;> rfl
@[simp] theorem setPoison_acc : (x.setPoison a v).acc = x.acc := by unfold Biv.setPoison; split <;> rfl
@[simp] theorem setPoison_accAt (a' i j : Nat) : (x.setPoison a v).accAt a' i j = x.accAt a' i j := by simp [Biv.accAt]

/-- The poison of the two sets is held apart. -/
theorem poison_setPoison {a a' : Nat} (ha : a < 2) (ha' : a' < 2) :
    (x.setPoison a v).poison a' = if a' = a then v else x.poison a' := by
  have hcases : (a = 0 ∨ a = 1) ∧ (a' = 0 ∨ a' = 1) := by omega
  obtain ⟨rfl | rfl, rfl | rfl⟩ := hcases <;> rfl

/-- The Bivouac once its first entry has freed its place. -/
def entryOver (x : Biv) : Biv :=
  { x with rpRun := false, rpWait := false, rpQueue := x.rpQueue.drop 1, rpBusy := !(x.rpQueue.drop 1).isEmpty }

@[simp] theorem entryOver_acc : (entryOver x).acc = x.acc := rfl
@[simp] theorem entryOver_accAt (a i j : Nat) : (entryOver x).accAt a i j = x.accAt a i j := rfl
@[simp] theorem entryOver_poison : (entryOver x).poison a = x.poison a := rfl

end Accumulators

/-! ### Writes of the aperture (R206, R214) -/

/-- A write of a Sward line changes the Sward alone. -/
theorem swardWrite_eq (s : State) (sl : Nat) (mask : Mask) (d : Line) :
    (s.swardWrite sl mask d).1 = { s with sward := (s.swardWrite sl mask d).1.sward } := by
  unfold State.swardWrite
  split
  · rfl
  · split
    · rfl
    · split <;> rfl

/-- A write of an aperture range changes the Sward alone. -/
theorem apertureWrite_eq (s : State) (b off : Nat) (bs : List Byte) :
    s.apertureWrite b off bs = { s with sward := (s.apertureWrite b off bs).sward } := by
  unfold State.apertureWrite
  generalize List.range (cdiv bs.length 64) = l
  induction l generalizing s with
  | nil => rfl
  | cons k l ih =>
    rw [List.foldl_cons, ih, swardWrite_eq]

section ApertureFrame

variable (s : State) (b off : Nat) (bs : List Byte)

theorem apertureWrite_biv : (s.apertureWrite b off bs).biv = s.biv := by rw [apertureWrite_eq]
theorem apertureWrite_regs : (s.apertureWrite b off bs).regs = s.regs := by rw [apertureWrite_eq]
theorem apertureWrite_mem : (s.apertureWrite b off bs).mem = s.mem := by rw [apertureWrite_eq]

end ApertureFrame

/-! ### An entry that is performed (R213 to R218) -/

section Performed

variable {s u v : State} {b : Nat} {e : RpItem} {rest : List RpItem}

theorem performEntry_cfg (ho : e.op = .cfg) : s.performEntry b e = (s, none) := by
  simp only [State.performEntry, ho]

theorem performEntry_zero {a : Nat} (ho : e.op = .zero a) : s.performEntry b e =
    (s.setBiv b (((s.bivAt b).setAcc a fun _ _ => 0).setPoison a false), none) := by
  simp only [State.performEntry, ho]

section Mma

variable {a oa ob : Nat} {as bs : List Byte} {pa pb : Bool} (ho : e.op = .mma a oa ob)
  (hra : s.apertureRead b oa (cfgK e.cfg * panelBlockBytes (cfgA e.cfg)) = (u, as, pa))
  (hrb : u.apertureRead b ob (cfgK e.cfg * panelBlockBytes (cfgB e.cfg)) = (v, bs, pb))

include ho hra hrb

theorem performEntry_mma_poison (hp : pa = true ∨ pb = true) :
    s.performEntry b e = (v.setBiv b ((v.bivAt b).setPoison a true), none) := by
  simp only [State.performEntry, ho, hra, hrb, hp, if_true]

theorem performEntry_mma_clean (hp : ¬ (pa = true ∨ pb = true)) : s.performEntry b e =
    (v.setBiv b ((v.bivAt b).setAcc a fun i j =>
      mmaElement (cfgA e.cfg) (cfgB e.cfg) (cfgK e.cfg) as bs i j ((v.bivAt b).accAt a i j)), none) := by
  simp only [State.performEntry, ho, hra, hrb, hp, if_false]

end Mma

theorem performEntry_loadc {a o : Nat} {bs : List Byte} {bad : Bool} (ho : e.op = .loadc a o)
    (hr : s.apertureRead b o 16384 = (v, bs, bad)) : s.performEntry b e =
      (v.setBiv b (((v.bivAt b).setAcc a fun i j => leNat ((bs.drop (256 * i + 4 * j)).take 4)).setPoison a bad), none) := by
  simp only [State.performEntry, ho, hr]

theorem performEntry_store {a o : Nat} (ho : e.op = .store a o) (hp : (s.bivAt b).poison a = false) :
    s.performEntry b e = (s.apertureWrite b o ((s.bivAt b).storeImage a e.cfg), none) := by
  simp only [State.performEntry, ho, hp, Bool.false_eq_true, if_false]

theorem performEntry_store_poison {a o : Nat} (ho : e.op = .store a o) (hp : (s.bivAt b).poison a = true) :
    s.performEntry b e = (s, some o) := by
  simp only [State.performEntry, ho, hp, if_true]

/-- The first entry has been performed where none of its operands waits: it frees its place. -/
theorem opEntryEnd_performs (hr : (s.bivAt b).rpRun = true) (hq : (s.bivAt b).rpQueue = e :: rest)
    (hw : s.entryWaits b e = false) (hp : s.performEntry b e = (v, none)) :
    s.opEntryEnd b = v.setBiv b (entryOver (v.bivAt b)) := by
  simp [State.opEntryEnd, hr, hq, hw, hp, entryOver]

/-- A store of a poisoned set traps once it has freed its place (R227). -/
theorem opEntryEnd_traps (hr : (s.bivAt b).rpRun = true) (hq : (s.bivAt b).rpQueue = e :: rest)
    (hw : s.entryWaits b e = false) {o : Nat} (hp : s.performEntry b e = (v, some o)) :
    s.opEntryEnd b = (v.setBiv b (entryOver (v.bivAt b))).pegTrap b e.peg 0x40 (apertureBase + o) := by
  simp [State.opEntryEnd, hr, hq, hw, hp, entryOver]

/-- RIDGEPOLE_ENTRY_END frees the place of the first entry, and leaves a state with the property. -/
def EndsEntry (s : State) (b : Nat) (rest : List RpItem) (P : State → Prop) : Prop :=
  Completes (.ridgepoleEntryEnd b) s fun t =>
    (t.bivAt b).rpRun = false ∧ (t.bivAt b).rpQueue = rest ∧ (t.bivAt b).rpBusy = !rest.isEmpty ∧ P t

/-- What an entry that has been performed leaves: its place is free, and but for the Bivouac everything is as its
performance left it. -/
theorem endsEntry_of_performed (hr : (s.bivAt b).rpRun = true) (hq : (s.bivAt b).rpQueue = e :: rest)
    (hw : s.entryWaits b e = false) (hp : s.front.performEntry b e = (v, none)) (hv : (v.bivAt b).rpQueue = e :: rest)
    {P : State → Prop} (hP : ∀ t, BivOnly v s t → t.bivAt b = entryOver (v.bivAt b) → P t) :
    EndsEntry s b rest P := by
  have hop : s.front.opEntryEnd b = v.setBiv b (entryOver (v.bivAt b)) :=
    opEntryEnd_performs (s := s.front) hr hq hw hp
  obtain ⟨t, ht, honly, hb, -⟩ := bivBecomes_of (exec_ridgepoleEntryEnd s b) hop
  refine ⟨t, ht, ?_, ?_, ?_, hP t honly hb⟩ <;> simp [hb, entryOver, hv]

end Performed

end Sys2Proof.Proofs.BivouacCompute
end

section
/-! Proofs for 07_bivouac_compute: Ridgepole instructions and entries, put together (R206 to R218, R226, R227). -/

namespace Sys2Proof.Proofs.BivouacCompute

open Sys2Proof.Machine Sys2Proof.Laws

variable {s u v : State} {b : Nat} {e : RpItem} {rest : List RpItem}

/-- The other accumulator set is as `v` has it. -/
def KeepsOtherSet (b a : Nat) (v t : State) : Prop :=
  ∀ a', a' < 2 → a' ≠ a → (t.bivAt b).poison a' = (v.bivAt b).poison a' ∧
    ∀ i j, i < 64 → j < 64 → (t.bivAt b).accAt a' i j = (v.bivAt b).accAt a' i j

/-- Writing one set and its poison keeps the other set. -/
theorem keepsOtherSet_of_writes {a : Nat} {t : State} {f : Nat → Nat → Nat} {bad : Bool} (ha : a < 2)
    (ht : t.bivAt b = entryOver (((v.bivAt b).setAcc a f).setPoison a bad)) : KeepsOtherSet b a v t := by
  intro a' ha' hne
  simp only [ht, entryOver_poison, entryOver_accAt, setPoison_accAt, poison_setPoison _ _ ha ha', setAcc_poison, hne,
    if_false]
  exact ⟨trivial, fun i j hi hj => by rw [accAt_setAcc _ _ _ hi hj, if_neg hne]⟩

section Ending

variable (hr : (s.bivAt b).rpRun = true) (hq : (s.bivAt b).rpQueue = e :: rest) (hw : s.entryWaits b e = false)

include hr hq hw

/-- The entry of an RP.CFG touches no accumulator. -/
theorem cfgEntry_ends (ho : e.op = .cfg) :
    EndsEntry s b rest fun t => (t.bivAt b).acc = (s.bivAt b).acc ∧ BivOnly s.front s t := by
  refine endsEntry_of_performed hr hq hw (performEntry_cfg (s := s.front) ho) hq fun t honly ht => ⟨?_, honly⟩
  rw [ht, entryOver_acc]; rfl

/-- RP.ZERO leaves its set at zero and clears its poison. -/
theorem zeroEntry_ends {a : Nat} (ha : a < 2) (ho : e.op = .zero a) : EndsEntry s b rest fun t =>
    BivOnly s.front s t ∧ KeepsOtherSet b a s t ∧ (t.bivAt b).poison a = false ∧
      ∀ i j, i < 64 → j < 64 → (t.bivAt b).accAt a i j = 0 := by
  refine endsEntry_of_performed hr hq hw (performEntry_zero (s := s.front) ho) ?_ fun t honly ht => ?_
  · rw [bivAt_setBiv_self, setPoison_rpQueue, setAcc_rpQueue]; exact hq
  · rw [bivAt_setBiv_self] at ht
    refine ⟨bivOnly_setBiv.mp honly, keepsOtherSet_of_writes (v := s) ha ht, ?_, fun i j hi hj => ?_⟩
    · rw [ht, entryOver_poison, poison_setPoison _ _ ha ha, if_pos rfl]
    · rw [ht, entryOver_accAt, setPoison_accAt, accAt_setAcc _ _ _ hi hj, if_pos rfl]

/-- RP.LOADC loads its set and takes the poison of the lines read. -/
theorem loadcEntry_ends {a o : Nat} {bs : List Byte} {bad : Bool} (ha : a < 2) (ho : e.op = .loadc a o)
    (hread : s.front.apertureRead b o 16384 = (v, bs, bad)) (hv : v.biv = s.biv) :
    EndsEntry s b rest fun t => BivOnly v s t ∧ KeepsOtherSet b a v t ∧ (t.bivAt b).poison a = bad ∧
      ∀ i j, i < 64 → j < 64 → (t.bivAt b).accAt a i j = leNat ((bs.drop (256 * i + 4 * j)).take 4) := by
  have hvb : v.bivAt b = s.bivAt b := bivAt_congr hv b
  refine endsEntry_of_performed hr hq hw (performEntry_loadc (s := s.front) ho hread) ?_ fun t honly ht => ?_
  · rw [bivAt_setBiv_self, setPoison_rpQueue, setAcc_rpQueue, hvb, hq]
  · rw [bivAt_setBiv_self] at ht
    refine ⟨bivOnly_setBiv.mp honly, keepsOtherSet_of_writes ha ht, ?_, fun i j hi hj => ?_⟩
    · rw [ht, entryOver_poison, poison_setPoison _ _ ha ha, if_pos rfl]
    · rw [ht, entryOver_accAt, setPoison_accAt, accAt_setAcc _ _ _ hi hj, if_pos rfl]

/-- RP.MMA adds the products to every element of its set, and with poison in an operand sets POISON instead. -/
theorem mmaEntry_ends {a oa ob : Nat} {as bs : List Byte} {pa pb : Bool} (ha : a < 2) (ho : e.op = .mma a oa ob)
    (hra : s.front.apertureRead b oa (cfgK e.cfg * panelBlockBytes (cfgA e.cfg)) = (u, as, pa))
    (hrb : u.apertureRead b ob (cfgK e.cfg * panelBlockBytes (cfgB e.cfg)) = (v, bs, pb)) (hv : v.biv = s.biv) :
    EndsEntry s b rest fun t => BivOnly v s t ∧ KeepsOtherSet b a v t ∧
      if pa = true ∨ pb = true then (t.bivAt b).poison a = true ∧ (t.bivAt b).acc = (s.bivAt b).acc
      else ∀ i j, i < 64 → j < 64 → (t.bivAt b).accAt a i j =
        mmaElement (cfgA e.cfg) (cfgB e.cfg) (cfgK e.cfg) as bs i j ((s.bivAt b).accAt a i j) := by
  have hvb : v.bivAt b = s.bivAt b := bivAt_congr hv b
  by_cases hp : pa = true ∨ pb = true
  · refine endsEntry_of_performed hr hq hw (performEntry_mma_poison (s := s.front) ho hra hrb hp) ?_ fun t honly ht => ?_
    · rw [bivAt_setBiv_self, setPoison_rpQueue, hvb, hq]
    · rw [bivAt_setBiv_self] at ht
      refine ⟨bivOnly_setBiv.mp honly, fun a' ha' hne => ⟨?_, fun i j _ _ => ?_⟩, ?_⟩
      · rw [ht, entryOver_poison, poison_setPoison _ _ ha ha', if_neg hne]
      · rw [ht, entryOver_accAt, setPoison_accAt]
      · rw [if_pos hp, ht, entryOver_poison, poison_setPoison _ _ ha ha, if_pos rfl, entryOver_acc, setPoison_acc, hvb]
        exact ⟨rfl, rfl⟩
  · refine endsEntry_of_performed hr hq hw (performEntry_mma_clean (s := s.front) ho hra hrb hp) ?_ fun t honly ht => ?_
    · rw [bivAt_setBiv_self, setAcc_rpQueue, hvb, hq]
    · rw [bivAt_setBiv_self] at ht
      refine ⟨bivOnly_setBiv.mp honly, fun a' ha' hne => ⟨?_, fun i j hi hj => ?_⟩, ?_⟩
      · rw [ht, entryOver_poison, setAcc_poison]
      · rw [ht, entryOver_accAt, accAt_setAcc _ _ _ hi hj, if_neg hne]
      · rw [if_neg hp]
        intro i j hi hj
        rw [ht, entryOver_accAt, accAt_setAcc _ _ _ hi hj, if_pos rfl, hvb]

/-- RP.STORE of a set without poison writes its image to the Sward and nothing else. -/
theorem storeEntry_ends {a o : Nat} (ho : e.op = .store a o) (hp : (s.bivAt b).poison a = false) :
    EndsEntry s b rest fun t =>
      t.sward = (s.front.apertureWrite b o ((s.bivAt b).storeImage a e.cfg)).sward ∧
        (t.bivAt b).acc = (s.bivAt b).acc ∧ t.mem = s.mem ∧ RegsKept [] s t := by
  have hbiv (bs : List Byte) : (s.front.apertureWrite b o bs).bivAt b = s.bivAt b := bivAt_congr (apertureWrite_biv ..) b
  refine endsEntry_of_performed hr hq hw (performEntry_store (s := s.front) ho hp) ((hbiv _).symm ▸ hq)
    fun t honly ht => ?_
  refine ⟨bivOnly_sward honly, ?_, (bivOnly_mem honly).trans (apertureWrite_mem ..), fun k _ => ?_⟩
  · rw [ht, entryOver_acc, hbiv]
  · exact reg_congr ((bivOnly_regs honly).trans (apertureWrite_regs ..)) k

/-- RP.STORE of a poisoned set ends the kernel with cause 0x40 and the Peg that issued it (R227). -/
theorem poisonedStoreEntry_traps {a o m : Nat} (ho : e.op = .store a o) (hp : (s.bivAt b).poison a = true)
    (hm : s.physOf b = some m) : Completes (.ridgepoleEntryEnd b) s fun t => (t.bivAt b).kernel = none ∧
      t.reg (E.bivLastFault m) = 0x40 + e.peg * 256 ∧ t.sward = s.sward ∧ t.mem = s.mem := by
  have hop := opEntryEnd_traps (s := s.front) hr hq hw (performEntry_store_poison ho hp)
  have hregs : (s.front.setBiv b (entryOver (s.front.bivAt b))).regs = s.regs := rfl
  exact trap_completes (u := s.front.setBiv b (entryOver (s.front.bivAt b))) (exec_ridgepoleEntryEnd s b) hop
    ((physOf_congr hregs b).trans hm)

end Ending

/-- Settles O55: an instruction of the Ridgepole is queued by `insn_queues` or puts its Peg back by `insn_steps`; each kind
of entry ends by its own lemma.  When effects happen is log 65, the Peg that the trap of a store names is log 63. -/
theorem ridgepoleInstructionsQueueAndEntriesEnd : Obligations.RidgepoleInstructionsQueueAndEntriesEnd := by
  unfold Obligations.RidgepoleInstructionsQueueAndEntriesEnd
  exact fun s b => ⟨fun g w p u n raw i h =>
      ⟨fun hi hok => insn_queues h (exec_rpCfg s b g) (opRpCfg_accepted h hi hok),
       fun hi hok m hm => insn_illegal h (exec_rpCfg s b g) (opRpCfg_illegal h hi hok) hm,
       fun hi ha hb => insn_queues h (exec_rpMma s b g) (opRpMma_queues h hi ha hb),
       fun hi => insn_queues h (exec_rpZero s b g) (opRpZero_queues h hi),
       fun hi ha => insn_queues h (exec_rpLoadc s b g) (opRpLoadc_queues h hi ha),
       fun hi ha => insn_queues h (exec_rpStore s b g) (opRpStore_queues h hi ha),
       fun hi => insn_steps h (exec_rpStat s b g) (opRpStat_status h hi),
       fun hi hq => insn_steps h (exec_rpFence s b g) (opRpFence_status h hi hq),
       fun hi => insn_steps h (exec_pegExit s b g) (opPegExit_exits h hi)⟩,
    fun hc hs hr hq => bivBecomes_of (exec_ridgepoleEntryStart s b) (opEntryStart_starts (s := s.front) hc hs hr hq),
    fun e rest hr hq hw =>
      ⟨fun ho => cfgEntry_ends hr hq hw ho,
       fun a ha ho => zeroEntry_ends hr hq hw ha ho,
       fun a oa ob u v as bs pa pb ha ho hra hrb hv => mmaEntry_ends hr hq hw ha ho hra hrb hv,
       fun a o v bs bad ha ho hread hv => loadcEntry_ends hr hq hw ha ho hread hv,
       fun a o ho hp => storeEntry_ends hr hq hw ho hp,
       fun a o m ho hp _ hm => poisonedStoreEntry_traps hr hq hw ho hp hm⟩⟩

end Sys2Proof.Proofs.BivouacCompute
end

section
/-! Proofs for 09_factored_views: what leaves the device through its ports touches no memory, no directory, no region and
no engine, and how a command on an engine decides its descriptor (R112, R250, R253, R359). -/

namespace Sys2Proof.Proofs.FactoredViews

open Sys2Proof.Machine Sys2Proof.Laws

/-! ### What leaves through the ports -/

/-- Between two states nothing but registers, the ports and what has left the device has changed. -/
def PortsOnly (s t : State) : Prop := t = { s with regs := t.regs, port := t.port, sent := t.sent }

namespace PortsOnly

variable {s t u : State}

theorem refl (s : State) : PortsOnly s s := rfl

theorem trans (h : PortsOnly s t) (k : PortsOnly t u) : PortsOnly s u := by
  unfold PortsOnly at h k ⊢
  rw [k, h]

theorem mem (h : PortsOnly s t) : t.mem = s.mem := by rw [h]
theorem dir (h : PortsOnly s t) : t.dir = s.dir := by rw [h]
theorem region (h : PortsOnly s t) : t.region = s.region := by rw [h]
theorem eng (h : PortsOnly s t) : t.eng = s.eng := by rw [h]

theorem foldl {α : Type} {f : State → α → State} (hf : ∀ a x, PortsOnly a (f a x)) (l : List α) (s : State) :
    PortsOnly s (l.foldl f s) := by
  induction l generalizing s with
  | nil => exact refl s
  | cons x l ih => exact (hf s x).trans (ih _)

theorem foldl_fst {α β : Type} {f : State × β → α → State × β} (hf : ∀ a x, PortsOnly a.1 (f a x).1) (l : List α)
    (acc : State × β) : PortsOnly acc.1 (l.foldl f acc).1 := by
  induction l generalizing acc with
  | nil => exact refl acc.1
  | cons x l ih => exact (hf acc x).trans (ih _)

variable (s) (n vc : Nat) (m : OutMsg)

theorem setLink (l : Link) : PortsOnly s (s.setLink n l) := rfl

theorem putFrame (f : Frame) : PortsOnly s (s.putFrame n f) := rfl

theorem sendFrame : PortsOnly s (s.sendFrame n vc m) := (setLink s n _).trans (putFrame _ n _)

theorem pump : PortsOnly s (s.pump n) := by
  unfold State.pump
  split
  · refine .trans ?_ (setLink _ n _)
    refine foldl_fst (β := List (Nat × OutMsg)) (fun a e => ?_) _ (s, [])
    dsimp only
    split
    · exact refl _
    · exact sendFrame ..
  · exact refl s

theorem sendMsg (p : Port) : PortsOnly s (s.sendMsg p vc m) := by
  cases p with
  | host k =>
    simp only [State.sendMsg]
    split <;> rfl
  | utxon k =>
    simp only [State.sendMsg]
    split
    · exact (setLink s k _).trans (pump ..)
    · exact refl s

theorem respond (r : Reply) (load status : Nat) (data : Line) (result : Option (Word × Word)) :
    PortsOnly s (s.respond r load status data result) := sendMsg ..

theorem freeHeld (p : Port) (age : Nat) : PortsOnly s (s.freeHeld p age) := by
  cases p with
  | host n => exact refl s
  | utxon n =>
    unfold State.freeHeld
    dsimp only
    split
    · exact refl s
    · exact setLink ..

theorem sweepHeld : PortsOnly s s.sweepHeld := by
  refine foldl (fun a x => ?_) _ s
  split
  · exact refl a
  · exact freeHeld ..

theorem emitAll (os : List Out) : PortsOnly s (s.emitAll os) := foldl (fun a o => (rfl : PortsOnly a (a.emit o))) os s

theorem setHosts (hosts : SMap HostPort) : PortsOnly s { s with port := { s.port with hosts } } := rfl

theorem pumpConflicts : PortsOnly s s.pumpConflicts := foldl (fun a _ => (setHosts a _).trans (emitAll ..)) _ s

end PortsOnly

/-! ### How a command on an engine decides its descriptor -/

section Deciding

variable {s u x : State} {id : DescId} {op : Nat} {k : UnitKind} {d : Desc} {e : Nat} {o : DescOut}

@[simp] theorem decideDesc_mem : (s.decideDesc d o).mem = s.mem := by rw [Translation.decideDesc_eq]
@[simp] theorem decideDesc_dir : (s.decideDesc d o).dir = s.dir := by rw [Translation.decideDesc_eq]
@[simp] theorem decideDesc_region : (s.decideDesc d o).region = s.region := by rw [Translation.decideDesc_eq]
@[simp] theorem decideDesc_regs : (s.decideDesc d o).regs = s.regs := by rw [Translation.decideDesc_eq]
@[simp] theorem decideDesc_eng : (s.decideDesc d o).eng = s.eng := by rw [Translation.decideDesc_eq]

/-- What a command finds on an engine is the descriptor of its name. -/
theorem desc_of_engineCmd (h : s.engineCmd id op k = some (d, e)) : s.desc id = some d := by
  unfold State.engineCmd at h
  split at h
  case h_2 => cases h
  case h_1 d' hd =>
    split at h
    case h_2 => cases h
    case h_1 =>
      split at h
      case isFalse => cases h
      case isTrue =>
        cases h
        exact (Option.filter_eq_some_iff.mp hd).1

/-- While the descriptors stand, the running one is decided by the outcome that the command gives it. -/
theorem desc_decided (h : s.onEngine id op k d e) (hw : x.work = s.work) (o : DescOut) :
    ∃ c, (x.decideDesc d o).desc id = some c ∧ c.phase = .decided ∧ c.outcome = some o := by
  have hx : x.desc id = some d := by
    rw [State.desc, hw]
    exact desc_of_engineCmd h.1
  exact ⟨_, desc_decideDesc o hx h.2, rfl, rfl⟩

theorem decided_endCmd (h : s.onEngine id op k d e) (hw : x.work = s.work) (status result : Nat) :
    (x.endCmd d status result).decided id status result := desc_decided h hw _

/-- A command that ends its descriptor in a state with the memory and the directory of `x` decides it so. -/
theorem decides_of_endCmd {c : Instr} {f : State → State} {status result : Nat} (hc : exec c s = s.run f)
    (h : s.onEngine id op k d e) (hf : f s.front = u.endCmd d status result) (hw : u.work = s.work)
    (hm : u.mem = x.mem) (hd : u.dir = x.dir) : Decides c s x id status result :=
  Translation.completes_ended hc hf
    ⟨decided_endCmd h hw status result, decideDesc_mem.trans hm, decideDesc_dir.trans hd⟩

end Deciding

end Sys2Proof.Proofs.FactoredViews
end

section
/-! Proofs for 09_factored_views: creating, refreshing, measuring and reading views (R271 to R275, R279 to R283), and the
compression of gradients and packing of activations (R286, R287, R290, R291). -/

namespace Sys2Proof.Proofs.FactoredViews

open Sys2Proof.Machine Sys2Proof.Laws

variable {s u x : State} {id : DescId} {env : Env} {d : Desc} {e : Nat}

section Commands

variable (s) (id : DescId) (env : Env) (b : Nat)

theorem exec_viewCreate : exec (.viewCreate id env) s = s.run fun s => s.opViewCreate id env := rfl
theorem exec_viewRefresh : exec (.viewRefresh id env) s = s.run fun s => s.opViewRefresh id env := rfl
theorem exec_viewMeasure : exec (.viewMeasure id env) s = s.run fun s => s.opViewMeasure id env := rfl
theorem exec_gradCompress : exec (.gradCompress id env) s = s.run fun s => s.opGradCompress id env := rfl
theorem exec_actPack : exec (.actPack id env) s = s.run fun s => s.opActPack id env := rfl
theorem exec_actUnpack : exec (.actUnpack id env) s = s.run fun s => s.opActUnpack id env := rfl
theorem exec_viewReadServe : exec (.viewReadServe b env) s =
    s.run fun s => ((s.opViewReadServe b env).sweepHeld).pumpConflicts := rfl

end Commands

/-! ### VIEW_CREATE (R271 to R273) -/

section Create

/-- Length of the U stream that a VIEW_CREATE names (R268, R271). -/
abbrev uBytes (d : Desc) : Nat := streamBytes (d.fld 6 47 44) (d.fld 6 40 32) (d.fld 6 12 0)

/-- Length of its V stream. -/
abbrev vBytes (d : Desc) : Nat := streamBytes (d.fld 6 47 44) (d.fld 6 40 32) (d.fld 6 28 16)

/-- The view that a VIEW_CREATE asks for, with its streams at `ua` and `va`; it is bound to no Bracken yet. -/
abbrev viewAsked (d : Desc) (ua va : Nat) : View :=
  { m := d.fld 6 12 0, n := d.fld 6 28 16, rank := d.fld 6 40 32, ffmt := d.fld 6 47 44, tfmt := d.fld 6 51 48
    sat := bitOf (d.word 6) 52, uBase := ua, vBase := va, used := true }

/-- Pages of a view's region (R271). -/
def viewPages (v : View) : Nat := cdiv (v.m * v.rowPitch) 65536

/-- The region that a view takes at a base (R271). -/
def viewRegion (p base : Nat) (v : View) : Region :=
  { basePage := base, pages := viewPages v, owner := p, rights := 1, factored := true, state := .live }

/-- A VIEW_CREATE has good operands, and its streams are at `ua` and `va`, where the pitch may read them and PROTECT is 0
(R272, R284). -/
structure StreamsAllowed (s : State) (p : Nat) (d : Desc) (ua va : Nat) : Prop where
  operands : d.viewCreateOk = true
  uAt : s.oneExtent d.record (d.fld 4 56 0) (uBytes d) = some ua
  vAt : s.oneExtent d.record (d.fld 5 56 0) (vBytes d) = some va
  uRights : s.rangeRights p ua (uBytes d) false = true
  vRights : s.rangeRights p va (vBytes d) false = true
  uPlain : s.rangeProtected ua (uBytes d) = false
  vPlain : s.rangeProtected va (vBytes d) = false

variable {ua va : Nat}

/-- A failing stream gives its outcome, with its result in LAST_SHORTFALL. -/
theorem opViewCreate_streamFails {o : DescOut} (hc : s.engineCmd id 0x20 .bracken = some (d, e))
    (ha : StreamsAllowed s id.pitch d ua va)
    (hx : s.checkStreams env id.pitch e (viewAsked d ua va) d.charge = (x, some o)) :
    s.opViewCreate id env = (x.setReg (E.pitchLastShortfall id.pitch) o.result).decideDesc d o := by
  obtain ⟨hok, hu, hv, hru, hrv, hpu, hpv⟩ := ha
  simp [State.opViewCreate, hc, hok, hu, hv, hru, hrv, hpu, hpv, hx]

/-- Good streams make the region and its view, where there is a descriptor, a Bracken, a place, and room under the limit
and the quota. -/
theorem opViewCreate_makes {i k base : Nat} (hc : s.engineCmd id 0x20 .bracken = some (d, e))
    (ha : StreamsAllowed s id.pitch d ua va)
    (hx : s.checkStreams env id.pitch e (viewAsked d ua va) d.charge = (x, none)) (hi : x.freeDescriptor = some i)
    (hk : x.chooseBracken = some k) (hl : x.viewCount < x.reg E.viewsViewLimit)
    (hq : x.quotaExcess id.pitch 1 0 0 = none)
    (hb : fitRun (viewPages (viewAsked d ua va)) (x.freeRuns .view) = some base) :
    s.opViewCreate id env = ((x.setRegion i (viewRegion id.pitch base (viewAsked d ua va))).setView i
      { viewAsked d ua va with bracken := k }).endCmd d 0 (regionResult i base) := by
  obtain ⟨hok, hu, hv, hru, hrv, hpu, hpv⟩ := ha
  unfold viewPages at hb
  simp [State.opViewCreate, hc, hok, hu, hv, hru, hrv, hpu, hpv, hx, hi, hk, Nat.not_le.mpr hl, hq, hb, viewRegion,
    viewPages]

end Create

/-! ### View records and regions -/

@[simp] theorem viewAt_setView (s : State) (i : Nat) (v : View) : (s.setView i v).viewAt i = v := by
  simp [State.viewAt, State.setView]

@[simp] theorem regionAt_setRegion (s : State) (i : Nat) (r : Region) : (s.setRegion i r).regionAt i = r := by
  simp [State.regionAt, State.setRegion]

theorem viewAt_congr (h : u.eng = s.eng) (i : Nat) : u.viewAt i = s.viewAt i := by simp [State.viewAt, h]

theorem regionAt_congr (h : u.region = s.region) (i : Nat) : u.regionAt i = s.regionAt i := by simp [State.regionAt, h]

theorem viewCreate_makes {ua va i k base : Nat} (h : s.onEngine id 0x20 .bracken d e)
    (ha : StreamsAllowed s.front id.pitch d ua va)
    (hx : s.front.checkStreams env id.pitch e (viewAsked d ua va) d.charge = (x, none)) (hw : x.work = s.work)
    (hi : x.freeDescriptor = some i) (hk : x.chooseBracken = some k) (hl : x.viewCount < x.reg E.viewsViewLimit)
    (hq : x.quotaExcess id.pitch 1 0 0 = none)
    (hb : fitRun (viewPages (viewAsked d ua va)) (x.freeRuns .view) = some base) :
    Completes (.viewCreate id env) s fun t => t.decided id 0 (regionResult i base) ∧ t.mem = x.mem ∧
      t.viewAt i = { viewAsked d ua va with bracken := k } ∧
      t.regionAt i = viewRegion id.pitch base (viewAsked d ua va) := by
  refine Translation.completes_ended (exec_viewCreate s id env) (opViewCreate_makes h.1 ha hx hi hk hl hq hb)
    ⟨decided_endCmd (x := (x.setRegion i _).setView i _) h hw 0 _, decideDesc_mem, ?_, ?_⟩
  · exact (viewAt_congr decideDesc_eng i).trans (viewAt_setView ..)
  · exact (regionAt_congr decideDesc_region i).trans (regionAt_setRegion x i _)

theorem viewCreate_fails {ua va : Nat} {o : DescOut} (h : s.onEngine id 0x20 .bracken d e)
    (ha : StreamsAllowed s.front id.pitch d ua va)
    (hx : s.front.checkStreams env id.pitch e (viewAsked d ua va) d.charge = (x, some o)) (hw : x.work = s.work) :
    Completes (.viewCreate id env) s fun t => (∃ c, t.desc id = some c ∧ c.outcome = some o) ∧
      t.reg (E.pitchLastShortfall id.pitch) = o.result ∧ t.mem = x.mem ∧ t.region = x.region := by
  obtain ⟨c, hc, -, ho⟩ := desc_decided (x := x.setReg (E.pitchLastShortfall id.pitch) o.result) h hw o
  refine Translation.completes_ended (exec_viewCreate s id env) (opViewCreate_streamFails h.1 ha hx)
    ⟨⟨c, hc, ho⟩, ?_, decideDesc_mem, decideDesc_region⟩
  exact (reg_congr decideDesc_regs _).trans (by simp)

/-! ### VIEW_REFRESH (R280) -/

section Refresh

variable {i : Nat}

theorem dropSegments_viewAt (s : State) (i j : Nat) : (s.dropSegments i).viewAt j = s.viewAt j := rfl
theorem dropSegments_regionAt (s : State) (i j : Nat) : (s.dropSegments i).regionAt j = s.regionAt j := rfl

/-- Good streams clear the damage of the record and make a DAMAGED region LIVE. -/
theorem opViewRefresh_mends (hc : s.engineCmd id 0x21 .bracken = some (d, e))
    (hv : s.viewOf id.pitch (d.fld 8 15 0) = some i)
    (hx : (s.dropSegments i).checkStreams env (s.regionAt i).owner e (s.viewAt i) d.charge = (x, none)) :
    s.opViewRefresh id env = ((x.setView i { s.viewAt i with cause := 0, stream := 0, segment := 0 }).setRegion i
      { s.regionAt i with state := if (s.regionAt i).state = .damaged then .live else (s.regionAt i).state }).endCmd d 0
        (regionResult i (s.regionAt i).basePage) := by
  simp only [State.opViewRefresh, hc, hv, dropSegments_viewAt, dropSegments_regionAt, hx]
  rfl

/-- Bad streams make the region DAMAGED. -/
theorem opViewRefresh_damages {o : DescOut} (hc : s.engineCmd id 0x21 .bracken = some (d, e))
    (hv : s.viewOf id.pitch (d.fld 8 15 0) = some i)
    (hx : (s.dropSegments i).checkStreams env (s.regionAt i).owner e (s.viewAt i) d.charge = (x, some o)) :
    s.opViewRefresh id env = (x.setRegion i { s.regionAt i with state := .damaged }).decideDesc d o := by
  simp only [State.opViewRefresh, hc, hv, dropSegments_regionAt, dropSegments_viewAt, hx]

variable (h : s.onEngine id 0x21 .bracken d e) (hv : s.viewOf id.pitch (d.fld 8 15 0) = some i) (hw : x.work = s.work)

include h hv hw

theorem viewRefresh_mends
    (hx : (s.front.dropSegments i).checkStreams env (s.regionAt i).owner e (s.viewAt i) d.charge = (x, none)) :
    Completes (.viewRefresh id env) s fun t => t.mem = x.mem ∧ t.decided id 0 (regionResult i (s.regionAt i).basePage) ∧
      t.viewAt i = { s.viewAt i with cause := 0, stream := 0, segment := 0 } ∧ t.regionAt i = { s.regionAt i with
        state := if (s.regionAt i).state = .damaged then .live else (s.regionAt i).state } := by
  refine Translation.completes_ended (exec_viewRefresh s id env) (opViewRefresh_mends (s := s.front) h.1 hv hx)
    ⟨decideDesc_mem, decided_endCmd (x := (x.setView i _).setRegion i _) h hw 0 _, ?_, ?_⟩
  · exact (viewAt_congr decideDesc_eng i).trans (viewAt_setView x i _)
  · exact (regionAt_congr decideDesc_region i).trans (regionAt_setRegion _ i _)

theorem viewRefresh_damages {o : DescOut}
    (hx : (s.front.dropSegments i).checkStreams env (s.regionAt i).owner e (s.viewAt i) d.charge = (x, some o)) :
    Completes (.viewRefresh id env) s fun t => t.mem = x.mem ∧ (∃ c, t.desc id = some c ∧ c.outcome = some o) ∧
      t.regionAt i = { s.regionAt i with state := .damaged } := by
  obtain ⟨c, hc, -, ho⟩ := desc_decided (x := x.setRegion i { s.regionAt i with state := .damaged }) h hw o
  exact Translation.completes_ended (exec_viewRefresh s id env) (opViewRefresh_damages (s := s.front) h.1 hv hx)
    ⟨decideDesc_mem, ⟨c, hc, ho⟩, (regionAt_congr decideDesc_region i).trans (regionAt_setRegion x i _)⟩

end Refresh

/-! ### VIEW_MEASURE (R283) -/

/-- The line that VIEW_MEASURE writes (R283); `draw` stands for what the encoding of a NaN leaves open. -/
abbrev measureLine (draw : Nat) (a : Residual) : Line :=
  lineOfWords [BitVec.ofNat 64 a.maxAbs, packWord [(0, a.row), (16, a.col)], BitVec.ofNat 64 (openNan draw a.err),
    BitVec.ofNat 64 a.orig, packWord [(0, a.nonfinite % 2 ^ 32)]]

theorem opViewMeasure_measures {i : Nat} {a : Residual} {st : EngStat}
    (hc : s.engineCmd id 0x22 .bracken = some (d, e)) (hv : s.viewOf id.pitch (d.fld 8 15 0) = some i)
    (hok : d.viewMeasureOk (s.viewAt i).n = true) (hop : d.operands ≠ []) (hr : (s.regionAt i).state ≠ .damaged)
    (hm : s.measureRows env d i = (u, .ok a))
    (hx : u.drawFree.2.writeVirt env id.pitch d.record (d.fld 5 56 0) (lineBytes (measureLine u.freeCount a)) d.charge =
      (x, st)) : s.opViewMeasure id env = x.endCmd d (statOut st) := by
  simp only [State.opViewMeasure, hc, hv, hok, not_true_eq_false, hop, hr, hm, if_false]
  rw [show u.drawFree.1 = u.freeCount from rfl, hx]

/-! ### GRAD_COMPRESS (R286, R287) -/

section Grad

/-- Where GRAD_COMPRESS reads G, E and QS. -/
abbrev gradReads (d : Desc) : List (Nat × Nat) :=
  [(d.fld 4 56 0, 4 * d.fld 9 12 0 * d.fld 9 28 16), (d.fld 5 56 0, 4 * d.fld 9 12 0 * d.fld 9 28 16),
    (d.fld 6 56 0, 4 * d.fld 9 28 16 * d.fld 9 40 32)]

/-- What GRAD_COMPRESS computes from the bytes of G, E and QS; none where a value is not finite. -/
abbrev gradResult (d : Desc) (g h q : List Byte) : Option Compressed :=
  gradCompress (d.fld 9 12 0) (d.fld 9 28 16) (d.fld 9 40 32) (elemsOf 4 g) (elemsOf 4 h) (elemsOf 4 q)

/-- What GRAD_COMPRESS writes, and where: the two streams, E and QS. -/
abbrev gradWrites (d : Desc) (z : Compressed) : List (Nat × List Byte) :=
  [(d.fld 7 56 0, z.u), (d.fld 8 56 0, z.v), (d.fld 5 56 0, z.e.flatMap (leBytes 4)),
    (d.fld 6 56 0, z.qs.flatMap (leBytes 4))]

variable {g h q : List Byte} (hc : s.engineCmd id 0x24 .bracken = some (d, e)) (hok : d.gradOk = true)
  (hu : s.virtProtected d.record (d.fld 7 56 0) (streamBytes 8 (d.fld 9 40 32) (d.fld 9 12 0)) = false)
  (hv : s.virtProtected d.record (d.fld 8 56 0) (streamBytes 8 (d.fld 9 40 32) (d.fld 9 28 16)) = false)
  (hr : s.readRanges env d (gradReads d) = (u, .ok, [g, h, q]))

include hc hok hu hv hr

/-- A value that is not finite ends the command with nothing written. -/
theorem opGradCompress_nonfinite (hz : gradResult d g h q = none) : s.opGradCompress id env = u.endCmd d 0x47 := by
  simp [State.opGradCompress, hc, hok, hu, hv, hr, hz]

theorem opGradCompress_writes {z : Compressed} {st : EngStat} (hz : gradResult d g h q = some z)
    (hx : u.writeRanges env d (gradWrites d z) = (x, st)) :
    s.opGradCompress id env = x.endCmd d (statOut st) z.zeroed := by
  simp [State.opGradCompress, hc, hok, hu, hv, hr, hz, hx]

end Grad

/-! ### ACT_PACK and ACT_UNPACK (R290, R291) -/

section Pack

variable {st : EngStat} (hok : d.packOk = true)

include hok

/-- The blocks that ACT_PACK makes of the source's bytes. -/
abbrev packedOf (d : Desc) (bs : List Byte) : List (Nat × List Nat) :=
  packBlocks (d.fld 7 7 4) ((elemsOf (elemBits (d.fld 7 3 0) / 8) bs).map (elemValue (d.fld 7 3 0)))

/-- What ACT_PACK writes, and where: codes and scales. -/
abbrev packWrites (d : Desc) (blocks : List (Nat × List Nat)) : List (Nat × List Byte) :=
  [(d.fld 5 56 0, packElems (elemBits (d.fld 7 7 4)) (blocks.flatMap fun b => b.2)),
    (d.fld 5 56 0 + packedScales (d.fld 7 7 4) (d.fld 6 39 0), blocks.map fun b => BitVec.ofNat 8 b.1)]

/-- The blocks that are not finite. -/
abbrev badBlocks (blocks : List (Nat × List Nat)) : Nat := (blocks.filter fun b => b.1 == 0xFF).length

theorem opActPack_packs {bs : List Byte} (hc : s.engineCmd id 0x26 .bracken = some (d, e))
    (hp : s.virtProtected d.record (d.fld 5 56 0) (packedBytes (d.fld 7 7 4) (d.fld 6 39 0)) = false)
    (hr : s.readVirt env id.pitch d.record (d.fld 4 56 0) (elemBits (d.fld 7 3 0) / 8 * d.fld 6 39 0) d.charge =
      (u, .ok, bs))
    (hx : u.writeRanges env d (packWrites d (packedOf d bs)) = (x, st)) :
    s.opActPack id env = (x.bumpBy E.viewsNonfiniteBlocks (badBlocks (packedOf d bs))).endCmd d (statOut st)
      (badBlocks (packedOf d bs)) := by
  simp [State.opActPack, hc, hok, hp, hr, hx]

/-- Where ACT_UNPACK reads codes and scales. -/
abbrev unpackReads (d : Desc) : List (Nat × Nat) :=
  [(d.fld 4 56 0, cdiv (d.fld 6 39 0) 32 * 4 * elemBits (d.fld 7 3 0)),
    (d.fld 4 56 0 + packedScales (d.fld 7 3 0) (d.fld 6 39 0), cdiv (d.fld 6 39 0) 32)]

/-- The bytes that ACT_UNPACK writes for codes and scales. -/
abbrev unpackedBytes (draw : Nat) (d : Desc) (es xs : List Byte) : List Byte :=
  ((List.range (d.fld 6 39 0)).map fun i => unpackElem draw i (d.fld 7 7 4)
    (scaledValue (d.fld 7 3 0) (packedElem (elemBits (d.fld 7 3 0)) i es) (xs.getD (i / 32) 0).toNat)).flatMap
      (leBytes (elemBits (d.fld 7 7 4) / 8))

theorem opActUnpack_unpacks {es xs : List Byte} (hc : s.engineCmd id 0x27 .bracken = some (d, e))
    (hr : s.readRanges env d (unpackReads d) = (u, .ok, [es, xs]))
    (hx : u.drawFree.2.writeVirt env id.pitch d.record (d.fld 5 56 0) (unpackedBytes u.freeCount d es xs) d.charge =
      (x, st)) : s.opActUnpack id env = x.endCmd d (statOut st) := by
  simp only [State.opActUnpack, hc, hok, not_true_eq_false, if_false, hr]
  rw [show u.drawFree.1 = u.freeCount from rfl, hx]

end Pack

/-! ### VIEW_READ_SERVE (R274, R275) -/

section Serve

variable {b i : Nat} {w : Work} {r : Region} {data : Option Line}

/-- A view region that is not being cleared waits for no read. -/
theorem settleView_of_not_clearing (h : (s.regionAt i).state ≠ .clearing) : s.settleView i = s :=
  if_neg fun hc => h hc.1

/-- The state without a waiting read. -/
abbrev withoutRead (s : State) (w : Work) : State :=
  { s with dir := { s.dir with viewReads := removeFirst (fun x => x == w) s.dir.viewReads } }

/-- The oldest read of a serving Bracken is answered: after its line has been read only its answer leaves. -/
theorem opViewReadServe_answers (hon : s.coreOn = true) (hs : s.reg (E.brackenState b) = 1)
    (hw : (s.dir.viewReads.find? fun w => s.brackenOf w == some b) = some w) (hc : s.viewCover w.line = some (i, r))
    (hx : (withoutRead s w).viewLine env i (w.line * 64 - r.basePage * 65536) (.cls w.req.bclass) = (x, data))
    (hr : (x.regionAt i).state ≠ .clearing) : PortsOnly x (s.opViewReadServe b env) := by
  have hp := PortsOnly.respond x (replyOf w 0x3A) (colourLoad w.colour) (if data.isSome then 0 else 1) (data.getD 0) none
  simp only [State.opViewReadServe, hw, hc, hon, hs, hx, true_or, and_self, not_true_eq_false, if_false]
  rwa [settleView_of_not_clearing]
  rwa [regionAt_congr hp.region]

theorem viewReadServe_takes (hon : s.coreOn = true) (hs : s.reg (E.brackenState b) = 1)
    (hw : (s.dir.viewReads.find? fun w => s.brackenOf w == some b) = some w) (hc : s.viewCover w.line = some (i, r))
    (hx : (withoutRead s.front w).viewLine env i (w.line * 64 - r.basePage * 65536) (.cls w.req.bclass) = (x, data))
    (hr : (x.regionAt i).state ≠ .clearing) : Completes (.viewReadServe b env) s fun t =>
      t.dir = x.dir ∧ t.mem = x.mem ∧ t.region = x.region ∧ t.eng = x.eng := by
  have hp : PortsOnly x ((s.front.opViewReadServe b env).sweepHeld).pumpConflicts :=
    ((opViewReadServe_answers (s := s.front) hon hs hw hc hx hr).trans (.sweepHeld _)).trans (.pumpConflicts _)
  exact Translation.completes_ended (exec_viewReadServe s env b) rfl ⟨hp.dir, hp.mem, hp.region, hp.eng⟩

end Serve

/-- Settles O57: each command's operation is what its own lemma says, and `desc_decided` has it decide its descriptor.
The lowest base that fits is log 49, LAST_SHORTFALL of a failing stream log 67: both are choices of the model. -/
theorem viewsAndPackingDecideTheirDescriptors : Obligations.ViewsAndPackingDecideTheirDescriptors := by
  unfold Obligations.ViewsAndPackingDecideTheirDescriptors
  intro s id env d e va
  refine ⟨fun h hok u w hu hw hru hrw hpu hpw => ?create, fun h i x o hv hx hwork => ?refresh,
    fun h i u x a st hv hok hop hr hm hx hwork => ?measure, fun h hok hu hv u g y q hr hwork => ?grad,
    fun hok => ⟨fun h hp u x bs st hr hx hwork => ?pack, fun h u x es xs st hr hx hwork => ?unpack⟩,
    fun b w i r x data hon hs _ hw hc hx hr => ?serve⟩
  case create =>
    have ha : StreamsAllowed s.front id.pitch d u w := ⟨hok, hu, hw, hru, hrw, hpu, hpw⟩
    exact ⟨fun x i k base hx hwork hi hk hl hq hb => viewCreate_makes h ha hx hwork hi hk hl hq hb,
      fun x o hx hwork => viewCreate_fails h ha hx hwork⟩
  case refresh =>
    cases o with
    | none => exact viewRefresh_mends h hv hwork hx
    | some out => exact viewRefresh_damages h hv hwork hx
  case measure =>
    exact decides_of_endCmd (exec_viewMeasure s id env) h
      (opViewMeasure_measures (s := s.front) h.1 hv hok hop hr hm hx) hwork rfl rfl
  case grad =>
    split
    case h_1 hz =>
      exact decides_of_endCmd (exec_gradCompress s id env) h
        (opGradCompress_nonfinite (s := s.front) h.1 hok hu hv hr hz) hwork rfl rfl
    case h_2 z hz =>
      exact fun x st hx hwork => decides_of_endCmd (exec_gradCompress s id env) h
        (opGradCompress_writes (s := s.front) h.1 hok hu hv hr hz hx) hwork rfl rfl
  case pack =>
    exact decides_of_endCmd (exec_actPack s id env) h (opActPack_packs (s := s.front) hok h.1 hp hr hx) hwork rfl rfl
  case unpack =>
    exact decides_of_endCmd (exec_actUnpack s id env) h (opActUnpack_unpacks (s := s.front) hok h.1 hr hx) hwork rfl rfl
  case serve => exact viewReadServe_takes hon hs hw hc hx hr

end Sys2Proof.Proofs.FactoredViews
end

section
/-! Proofs for 10_embeddings_optimizer: embedding tables are made and freed (R300, R301), rows are gathered and updated
(R302, R303, R306, R307), and optimizer steps are taken (R310, R311, R313). -/

namespace Sys2Proof.Proofs.Embeddings

open Sys2Proof.Machine Sys2Proof.Laws Sys2Proof.Proofs.Translation Sys2Proof.Proofs.FactoredViews

variable {s u x : State} {id : DescId} {env : Env} {d : Desc} {e : Nat}

section Commands

variable (s) (id : DescId) (env : Env)

theorem exec_embTableCreate : exec (.embTableCreate id env) s = s.run fun s => s.opTableCreate id env := rfl
theorem exec_embTableDestroy : exec (.embTableDestroy id) s = s.run fun s => s.opTableDestroy id := rfl
theorem exec_embGather : exec (.embGather id env) s = s.run fun s => s.opGather id env := rfl
theorem exec_embUpdate : exec (.embUpdate id env) s = s.run fun s => s.opUpdate id env := rfl
theorem exec_optStep : exec (.optStep id env) s = s.run fun s => s.opOptStep id env := rfl

end Commands

/-! ### Table records -/

section Tables

theorem tableAt_setTable (s : State) (h j : Nat) (t : Table) :
    (s.setTable h t).tableAt j = if j = h then t else s.tableAt j := by
  simp [State.tableAt, State.setTable, smap_get_set]

theorem tableAt_congr (h : u.eng = s.eng) (j : Nat) : u.tableAt j = s.tableAt j := by simp [State.tableAt, h]

variable (h : Nat) (t : Table) (o : DescOut)

/-- A command that sets a table record and decides its descriptor leaves the record under its handle. -/
theorem tableAt_decided_same : ((s.setTable h t).decideDesc d o).tableAt h = t := by
  rw [tableAt_congr decideDesc_eng, tableAt_setTable, if_pos rfl]

/-- It leaves every other table. -/
theorem tableAt_decided_other {j : Nat} (hj : j ≠ h) :
    ((s.setTable h t).decideDesc d o).tableAt j = s.tableAt j := by
  rw [tableAt_congr decideDesc_eng, tableAt_setTable, if_neg hj]

end Tables

/-! ### EMB_TABLE_CREATE (R300) -/

section Create

/-- The place of a device's own shard in a shard list. -/
abbrev ownShard (own : Nat) (es : List Nat) : Nat :=
  ((findIdxOpt (fun x => bits x 51 42 == own) es).map fun x => x.1).getD 0

/-- The table that an EMB_TABLE_CREATE of pitch `p` asks for on device `own`, with shard list `es` and Clover `k`. -/
abbrev tableAsked (d : Desc) (p own : Nat) (es : List Nat) (k : Nat) : Table :=
  { words := (d.words.drop 4).take 5, owner := p, pos := ownShard own es, shards := es, clover := k, used := true }

/-- Rows that a device holds of a table of `n` shards (R299). -/
abbrev localRowCount (t : Table) (n : Nat) : Nat := localBlocks t.rows t.blockRows n t.pos * t.blockRows

/-- A pitch may write its own shard of a table of `n` shards and the accumulators, where there are any, and read the
default row. -/
structure TableRights (s : State) (p : Nat) (t : Table) (n : Nat) : Prop where
  shard : s.rangeRights p (t.shards.getD t.pos 0) (localRowCount t n * t.stride) true = true
  dflt : s.rangeRights p t.dflt (rowBytes t.fmt t.dim) false = true
  acc : t.acc = 0 ∨ s.rangeRights p t.acc (4 * localRowCount t n) true = true

variable {bs : List Byte} {h k : Nat}

/-- With good operands, an aligned and legal shard list, a free handle, a Clover, room and the rights, the record is
made and the descriptor ends with its handle. -/
theorem opTableCreate_makes (hc : s.engineCmd id 0x30 .clover = some (d, e)) (hok : d.tableOk = true)
    (hr : s.readVirt env id.pitch d.record (d.fld 6 56 0) (8 * d.fld 5 30 24) d.charge = (u, .ok, bs))
    (hal : ∀ x ∈ elemsOf 8 bs, x % 64 = 0) (hh : u.freeTable = some h) (hk : u.chooseClover = some k)
    (hroom : u.eng.tables.length < u.reg E.tablesTableLimit) (hs : shardsOk u.deviceNumber (elemsOf 8 bs) = true)
    (ht : TableRights u id.pitch (tableAsked d id.pitch u.deviceNumber (elemsOf 8 bs) k) (d.fld 5 30 24)) :
    s.opTableCreate id env =
      (u.setTable h (tableAsked d id.pitch u.deviceNumber (elemsOf 8 bs) k)).endCmd d 0 h := by
  have halign : ((elemsOf 8 bs).any fun e => e % 64 != 0) = false := by simpa using hal
  obtain ⟨hshard, hdflt, hacc⟩ := ht
  simp only [State.opTableCreate, hc, hok, hr, halign, hh, hk, Nat.not_le.mpr hroom, hs, hshard, hdflt, hacc, and_self,
    not_true_eq_false, Bool.false_eq_true, if_false]

theorem tableCreate_completes (hd : s.onEngine id 0x30 .clover d e) (hw : u.work = s.work) {t : Table}
    (hf : s.front.opTableCreate id env = (u.setTable h t).endCmd d 0 h) :
    Completes (.embTableCreate id env) s fun v => v.decided id 0 h ∧ v.tableAt h = t ∧
      (∀ j, j ≠ h → v.tableAt j = u.tableAt j) ∧ v.mem = u.mem :=
  completes_ended (exec_embTableCreate s id env) hf
    ⟨decided_endCmd (x := u.setTable h t) hd hw 0 h, tableAt_decided_same h t _,
      fun _ hj => tableAt_decided_other h t _ hj, decideDesc_mem⟩

end Create

/-! ### EMB_TABLE_DESTROY (R301) -/

section Destroy

/-- Between two states nothing but descriptors and tables has changed, and programmed fuses are in effect. -/
def TablesOnly (s t : State) : Prop :=
  t = { s with work := t.work, eng := { s.eng with tables := t.eng.tables }, fuses := s.fuses.programmed }

theorem tablesOnly_decided (s : State) (d : Desc) (o : DescOut) : TablesOnly s (ended s (s.front.decideDesc d o)) := by
  rw [TablesOnly, decideDesc_eq]
  rfl

theorem tablesOnly_setTable_decided (s : State) (h : Nat) (t : Table) (d : Desc) (o : DescOut) :
    TablesOnly s (ended s ((s.front.setTable h t).decideDesc d o)) := by
  rw [TablesOnly, decideDesc_eq]
  rfl

theorem opTableDestroy_eq (hc : s.engineCmd id 0x31 .clover = some (d, e)) : s.opTableDestroy id =
    if (s.tableOf id.pitch (d.fld 4 9 0)).isNone = true then s.endCmd d 0x60
    else if s.dispatchedOther id (·.namesTable (d.fld 4 9 0)) = true then s.endCmd d 0x64
    else (s.setTable (d.fld 4 9 0) {}).endCmd d 0 := by
  simp only [State.opTableDestroy, hc]
  cases s.tableOf id.pitch (d.fld 4 9 0) <;> rfl

/-- A missing table and one that a dispatched descriptor names are refused; any other one is freed. -/
theorem tableDestroy_ends (hd : s.onEngine id 0x31 .clover d e) :
    Completes (.embTableDestroy id) s fun t => TablesOnly s t ∧
      if (s.tableOf id.pitch (d.fld 4 9 0)).isNone then t.eng = s.eng ∧ t.decided id 0x60 0
      else if s.dispatchedOther id (·.namesTable (d.fld 4 9 0)) = true then t.eng = s.eng ∧ t.decided id 0x64 0
      else t.decided id 0 0 ∧ t.tableAt (d.fld 4 9 0) = {} ∧ ∀ j, j ≠ d.fld 4 9 0 → t.tableAt j = s.tableAt j := by
  have hop := opTableDestroy_eq (s := s.front) hd.1
  by_cases hnone : (s.tableOf id.pitch (d.fld 4 9 0)).isNone = true
  · refine completes_ended (exec_embTableDestroy s id) (hop.trans (if_pos hnone)) ⟨tablesOnly_decided .., ?_⟩
    rw [if_pos hnone]
    exact ⟨decideDesc_eng, decided_endCmd (x := s.front) hd rfl 0x60 0⟩
  by_cases hbusy : s.dispatchedOther id (·.namesTable (d.fld 4 9 0)) = true
  · refine completes_ended (exec_embTableDestroy s id) (hop.trans ((if_neg hnone).trans (if_pos hbusy)))
      ⟨tablesOnly_decided .., ?_⟩
    rw [if_neg hnone, if_pos hbusy]
    exact ⟨decideDesc_eng, decided_endCmd (x := s.front) hd rfl 0x64 0⟩
  · refine completes_ended (exec_embTableDestroy s id) (hop.trans ((if_neg hnone).trans (if_neg hbusy)))
      ⟨tablesOnly_setTable_decided .., ?_⟩
    rw [if_neg hnone, if_neg hbusy]
    exact ⟨decided_endCmd (x := s.front.setTable _ {}) hd rfl 0 0, tableAt_decided_same ..,
      fun _ hj => tableAt_decided_other _ _ _ hj⟩

end Destroy

/-! ### EMB_GATHER (R302, R303) -/

section Gather

/-- Where EMB_GATHER reads its indices and, where it pools, its offsets. -/
abbrev gatherReads (d : Desc) : List (Nat × Nat) :=
  [(d.fld 5 56 0, (if bitOf (d.word 4) 12 then 8 else 4) * d.fld 8 31 0)] ++
    if d.fld 4 11 10 = 0 then [] else [(d.fld 6 56 0, 4 * (d.fld 8 63 32 + 1))]

variable {t : Table} {bs : List (List Byte)} {bad : Option (EngStat × Nat)} {st : EngStat}

/-- A gather ends with the place of the first row that could not be read, and otherwise as its writes ended. -/
theorem opGather_gathers (hc : s.engineCmd id 0x32 .clover = some (d, e)) (hok : d.gatherOk = true)
    (hop : d.operands ≠ []) (ht : s.tableOf id.pitch (d.fld 4 9 0) = some t)
    (hr : s.readRanges env d (gatherReads d) = (u, .ok, bs))
    (hos : d.fld 4 11 10 = 0 ∨ offsetsOk (d.fld 8 31 0) (elemsOf 4 (bs.getD 1 [])) = true)
    (hx : u.gatherOut env d e t (indexList (bitOf (d.word 4) 12) (bs.getD 0 []))
      (gatherBags (d.fld 4 11 10) (d.fld 8 31 0) (elemsOf 4 (bs.getD 1 []))) = (x, bad, st)) :
    s.opGather id env = match bad with
      | none => x.endCmd d (statOut st)
      | some (st', i) => x.endCmd d (statOut st') i := by
  have hoff : ¬ (d.fld 4 11 10 ≠ 0 ∧ ¬ offsetsOk (d.fld 8 31 0) (elemsOf 4 (bs.getD 1 [])) = true) := by
    rcases hos with h0 | hg
    · exact fun h => h.1 h0
    · exact fun h => h.2 hg
  simp only [State.opGather, hc, ht, hok, hop, not_true_eq_false, if_false, hr, if_neg hoff, hx]
  cases bad <;> rfl

end Gather

/-! ### EMB_UPDATE (R306, R307) -/

section Update

/-- Where EMB_UPDATE reads its indices and its gradients. -/
abbrev updateReads (d : Desc) (t : Table) : List (Nat × Nat) :=
  [(d.fld 5 56 0, (if bitOf (d.word 4) 12 then 8 else 4) * d.fld 7 31 0),
    (d.fld 6 56 0, d.fld 7 31 0 * outPitch t.dim (if bitOf (d.word 4) 13 then 2 else 4))]

variable {t : Table} {bs : List (List Byte)} {n : Nat} {st : EngStat}

theorem opUpdate_updates (hc : s.engineCmd id 0x33 .clover = some (d, e)) (hop : d.operands ≠ [])
    (ht : s.tableOf d.id.pitch (d.fld 4 9 0) = some t) (hok : d.updateOk t = true)
    (hr : s.readRanges env d (updateReads d t) = (u, .ok, bs))
    (hx : u.updateBatch env d e t none (indexList (bitOf (d.word 4) 12) (bs.getD 0 [])) (bs.getD 1 []) = (x, n, st)) :
    s.opUpdate id env = x.endCmd d (statOut st) n := by
  simp only [State.opUpdate, State.runUpdate, hc, ht, hok, hop, not_true_eq_false, if_false, hr, hx]
  rfl

end Update

/-! ### OPT_STEP (R310, R311, R313) -/

section OptStep

/-- Where OPT_STEP reads gradients, weights and moments; a step that runs to its end reads nothing of the copy. -/
abbrev optReads (d : Desc) : List (Nat × Nat) :=
  [(d.fld 5 56 0, (if bitOf (d.word 9) 48 then 2 else 4) * d.fld 9 39 0), (d.fld 4 56 0, 4 * d.fld 9 39 0),
    (d.fld 6 56 0, if optUsesM (d.fld 9 43 40) then momentBytes (d.fld 9 47 44) (d.fld 9 39 0) else 0),
    (d.fld 7 56 0, if optUsesV (d.fld 9 43 40) then momentBytes (d.fld 9 47 44) (d.fld 9 39 0) else 0),
    (d.fld 8 56 0, 0)]

/-- The gradients of a step as FP32 values, scaled. -/
abbrev scaledGrads (d : Desc) (gb : List Byte) : List Nat :=
  (if bitOf (d.word 9) 48 then (elemsOf 2 gb).map fun x => x * 65536 else elemsOf 4 gb).map
    fun g => fmul32 g d.optConst.scale

/-- A scaled gradient is not finite. -/
abbrev gradsBroken (d : Desc) (gb : List Byte) : Bool := (scaledGrads d gb).any fun g => !(fp32.decode g).finite

/-- The new weights and moments of a step. -/
abbrev optOut (d : Desc) (gb wb mb vb : List Byte) : List (Nat × Nat × Nat) :=
  optAll d.optConst (elemsOf 4 wb) (scaledGrads d gb) (decodeMoments (d.fld 9 47 44) (d.fld 9 39 0) true mb)
    (decodeMoments (d.fld 9 47 44) (d.fld 9 39 0) false vb)

/-- RESULT of a step: the new weights that are not finite, and 0 with SKIP_NONFINITE (R313). -/
abbrev optResult (d : Desc) (out : List (Nat × Nat × Nat)) : Nat :=
  if bitOf (d.word 9) 50 then 0 else (out.filter fun x => !(fp32.decode x.1).finite).length

variable {gb wb mb vb cb : List Byte} (hd : s.onEngine id 0x38 .tinder d e) (hok : d.optOk = true)
  (hr : s.front.readRanges env d (optReads d) = (u, .ok, [gb, wb, mb, vb, cb]))

include hok hr in
/-- A step that its gradients stop writes nothing, and only counts itself. -/
theorem runOpt_skips (hskip : bitOf (d.word 9) 50 = true) (hbroken : gradsBroken d gb = true) :
    s.front.runOpt d e env none = (u.bump E.tindersNonfiniteSteps, { status := 0x68 }) := by
  simp only [State.runOpt, hok, not_true_eq_false, if_false, Option.isSome_none, Bool.false_and, Bool.false_eq_true, hr,
    hskip, hbroken, and_self, if_true]

include hok hr in
/-- Any other step writes what it computes and counts its elements. -/
theorem runOpt_writes (hgo : ¬ (bitOf (d.word 9) 50 = true ∧ gradsBroken d gb = true)) {st : EngStat}
    (hx : u.drawFree.2.drawFree.2.writeRanges env d
      (optWrites d u.freeCount none (optOut d gb wb mb vb) wb mb vb cb) = (x, st)) :
    s.front.runOpt d e env none = (x.bumpBy (E.tinderElements e) (d.fld 9 39 0),
      { status := statOut st, result := optResult d (optOut d gb wb mb vb) }) := by
  simp only [State.runOpt, hok, not_true_eq_false, if_false, Option.isSome_none, Bool.false_and, Bool.false_eq_true, hr,
    if_neg hgo]
  rw [show u.drawFree.1 = u.freeCount from rfl, hx]

/-- A step ends in the state that its work leaves, with the outcome of that work. -/
theorem opOptStep_eq (hc : s.engineCmd id 0x38 .tinder = some (d, e)) {o : DescOut}
    (ho : s.runOpt d e env none = (x, o)) : s.opOptStep id env = x.decideDesc d o := by
  simp only [State.opOptStep, hc, ho]

include hd hok hr

theorem optStep_skips (hw : u.work = s.work) (hskip : bitOf (d.word 9) 50 = true) (hbroken : gradsBroken d gb = true) :
    Completes (.optStep id env) s fun t => t.decided id 0x68 0 ∧ t.mem = u.mem ∧
      t.reg E.tindersNonfiniteSteps = min countMax (u.reg E.tindersNonfiniteSteps + 1) := by
  refine completes_ended (exec_optStep s id env) (opOptStep_eq hd.1 (runOpt_skips hok hr hskip hbroken))
    ⟨desc_decided (x := u.bump _) hd hw _, decideDesc_mem, ?_⟩
  exact (reg_congr decideDesc_regs _).trans (by simp)

theorem optStep_writes (hgo : ¬ (bitOf (d.word 9) 50 = true ∧ gradsBroken d gb = true)) {st : EngStat}
    (hx : u.drawFree.2.drawFree.2.writeRanges env d
      (optWrites d u.freeCount none (optOut d gb wb mb vb) wb mb vb cb) = (x, st)) (hw : x.work = s.work) :
    Completes (.optStep id env) s fun t => t.decided id (statOut st) (optResult d (optOut d gb wb mb vb)) ∧
      t.mem = x.mem ∧ t.reg (E.tinderElements e) = min countMax (x.reg (E.tinderElements e) + d.fld 9 39 0) := by
  refine completes_ended (exec_optStep s id env) (opOptStep_eq hd.1 (runOpt_writes hok hr hgo hx))
    ⟨desc_decided (x := x.bumpBy _ _) hd hw _, decideDesc_mem, ?_⟩
  exact (reg_congr decideDesc_regs _).trans (by simp)

end OptStep

/-- Settles O58: each command's operation is what its own lemma says, and `desc_decided` has it decide its descriptor.
The place that a failing gather reports is R304 with its corners in log 69; NONFINITE_GRAD is R313, and RESULT 0 of a
step with SKIP_NONFINITE is log 70. Where the log fills a corner, it is a choice of the model. -/
theorem tablesAndOptimizersDecideTheirDescriptors : Obligations.TablesAndOptimizersDecideTheirDescriptors := by
  unfold Obligations.TablesAndOptimizersDecideTheirDescriptors
  intro s id env d e va h
  refine ⟨fun hd hok u bs h k hr hw hal hh hk hroom hs hshard hdflt hacc => ?create,
    fun hd => ?destroy, fun hd hok hop t u bs x bad st ht hr hos hx hw => ?gather,
    fun hd hop t u bs x n st ht hok hr hx hw => ?update,
    fun hd hok u gb wb mb vb cb hr hw => ?step⟩
  case create =>
    exact tableCreate_completes hd hw (opTableCreate_makes hd.1 hok hr hal hh hk hroom hs ⟨hshard, hdflt, hacc⟩)
  case destroy => exact tableDestroy_ends hd
  case gather =>
    have hf := opGather_gathers (s := s.front) hd.1 hok hop ht hr hos hx
    cases bad with
    | none => exact decides_of_endCmd (exec_embGather s id env) hd hf hw rfl rfl
    | some b => exact decides_of_endCmd (exec_embGather s id env) hd hf hw rfl rfl
  case update =>
    have hid : d.id = id := desc_id (desc_of_engineCmd hd.1)
    rw [← hid] at ht
    have hf := opUpdate_updates (s := s.front) hd.1 hop ht hok hr hx
    exact decides_of_endCmd (exec_embUpdate s id env) hd hf hw rfl rfl
  case step =>
    exact ⟨fun hskip hbroken => optStep_skips hd hok hr hw hskip hbroken,
      fun hgo x st hx hwork => optStep_writes hd hok hr hgo hx hwork⟩

end Sys2Proof.Proofs.Embeddings
end
